-- ==== Sys2Proof/Word.lean ====
section
/-!
DEFINITION. The widths of the NK30's quantities (R2, R3): bytes, 32-bit instruction words, 64-bit words.
-/
namespace Sys2Proof

/-- One byte of memory. -/
abbrev Byte := BitVec 8

/-- A 64-bit word, the unit that carries one full/empty bit (R3). -/
abbrev Word := BitVec 64

/-- A 32-bit instruction word (R3, R304). -/
abbrev IWord := BitVec 32

/-- A closure handle (R91). -/
abbrev Handle := BitVec 32

end Sys2Proof
end

