-- ==== Sys2Proof/Machine/Names.lean ====
section
/-!
DEFINITION. Names shared by the syntax and the machine: the 96 cause codes of R261, the fate of a packet at its
destination (R177, R180), the quantities Isobar measures in a tick (R262-R269), and a host or peer memory access
(R116, R273).
-/
namespace Sys2Proof

/-- The cause codes of R261, in the order of their codes 0x00 to 0x5F. -/
inductive Cause where
  | illegalEncoding
  | reservedField
  | privileged
  | hazardRead
  | misalignedPc
  | trapInstruction
  | breakpoint
  | spillOverflow
  | taskOverrun
  | maskWindowLimit
  | divideByZero
  | streamUnbound
  | streamDirection
  | workspaceBounds
  | helperExhausted
  | maskStackUnderflow
  | fetchXlate
  | fetchPerm
  | loadXlate
  | storeXlate
  | loadPerm
  | storePerm
  | atomicPerm
  | misalignedData
  | addressClass
  | pageAttrConflict
  | windowBounds
  | engineXlate
  | tlbMultihit
  | pageTableCorrupt
  | peerUnreachable
  | hostAbort
  | blockAbsent
  | brumDirFull
  | brumWaitlistFull
  | brumFetchError
  | brumFramePoolZero
  | brumWritebackError
  | brumWaitTimeout
  | brumRegionReconfig
  | staleHandle
  | danglingFrame
  | refcountOverflow
  | envStoreFull
  | applyTargetFenced
  | captureRange
  | onceReused
  | forwardExpired
  | sendqFull
  | sendRefused
  | matchOverflow
  | postListFull
  | channelUnbound
  | messageTooLong
  | destFenced
  | retransmitExhausted
  | networkCrc
  | replyUnexpected
  | forwardTableFull
  | goldenTimeout
  | linkDown
  | channelBindConflict
  | stealDomainInvalid
  | interjectionOverflow
  | foldGroupInvalid
  | foldIncomplete
  | foldPartialFault
  | foldType
  | foldTreeTimeout
  | barrierTeamInvalid
  | shapeAlign
  | shapeOverlap
  | shapeExtent
  | bankFormatMismatch
  | leaseNotHeld
  | leaseExpired
  | weightDecompressError
  | accBounds
  | engineProgramInvalid
  | engineDataError
  | scratchUncorrectable
  | l1Uncorrectable
  | l2Uncorrectable
  | hbmUncorrectable
  | poisonConsumed
  | sliceRemapRetryExhausted
  | fullEmptyMisuse
  | syncLoadTimeout
  | watchdogPreempt
  | watchdogKill
  | coreFenced
  | partitionViolation
  | contextSwitchRequest
  | migrationFailed
  | thermalEmergency
  | hostResync
deriving DecidableEq, Repr, Inhabited

/-- The code of a cause, as the table of R261 gives it. -/
def Cause.code : Cause → Nat
  | .illegalEncoding => 0x00
  | .reservedField => 0x01
  | .privileged => 0x02
  | .hazardRead => 0x03
  | .misalignedPc => 0x04
  | .trapInstruction => 0x05
  | .breakpoint => 0x06
  | .spillOverflow => 0x07
  | .taskOverrun => 0x08
  | .maskWindowLimit => 0x09
  | .divideByZero => 0x0A
  | .streamUnbound => 0x0B
  | .streamDirection => 0x0C
  | .workspaceBounds => 0x0D
  | .helperExhausted => 0x0E
  | .maskStackUnderflow => 0x0F
  | .fetchXlate => 0x10
  | .fetchPerm => 0x11
  | .loadXlate => 0x12
  | .storeXlate => 0x13
  | .loadPerm => 0x14
  | .storePerm => 0x15
  | .atomicPerm => 0x16
  | .misalignedData => 0x17
  | .addressClass => 0x18
  | .pageAttrConflict => 0x19
  | .windowBounds => 0x1A
  | .engineXlate => 0x1B
  | .tlbMultihit => 0x1C
  | .pageTableCorrupt => 0x1D
  | .peerUnreachable => 0x1E
  | .hostAbort => 0x1F
  | .blockAbsent => 0x20
  | .brumDirFull => 0x21
  | .brumWaitlistFull => 0x22
  | .brumFetchError => 0x23
  | .brumFramePoolZero => 0x24
  | .brumWritebackError => 0x25
  | .brumWaitTimeout => 0x26
  | .brumRegionReconfig => 0x27
  | .staleHandle => 0x28
  | .danglingFrame => 0x29
  | .refcountOverflow => 0x2A
  | .envStoreFull => 0x2B
  | .applyTargetFenced => 0x2C
  | .captureRange => 0x2D
  | .onceReused => 0x2E
  | .forwardExpired => 0x2F
  | .sendqFull => 0x30
  | .sendRefused => 0x31
  | .matchOverflow => 0x32
  | .postListFull => 0x33
  | .channelUnbound => 0x34
  | .messageTooLong => 0x35
  | .destFenced => 0x36
  | .retransmitExhausted => 0x37
  | .networkCrc => 0x38
  | .replyUnexpected => 0x39
  | .forwardTableFull => 0x3A
  | .goldenTimeout => 0x3B
  | .linkDown => 0x3C
  | .channelBindConflict => 0x3D
  | .stealDomainInvalid => 0x3E
  | .interjectionOverflow => 0x3F
  | .foldGroupInvalid => 0x40
  | .foldIncomplete => 0x41
  | .foldPartialFault => 0x42
  | .foldType => 0x43
  | .foldTreeTimeout => 0x44
  | .barrierTeamInvalid => 0x45
  | .shapeAlign => 0x46
  | .shapeOverlap => 0x47
  | .shapeExtent => 0x48
  | .bankFormatMismatch => 0x49
  | .leaseNotHeld => 0x4A
  | .leaseExpired => 0x4B
  | .weightDecompressError => 0x4C
  | .accBounds => 0x4D
  | .engineProgramInvalid => 0x4E
  | .engineDataError => 0x4F
  | .scratchUncorrectable => 0x50
  | .l1Uncorrectable => 0x51
  | .l2Uncorrectable => 0x52
  | .hbmUncorrectable => 0x53
  | .poisonConsumed => 0x54
  | .sliceRemapRetryExhausted => 0x55
  | .fullEmptyMisuse => 0x56
  | .syncLoadTimeout => 0x57
  | .watchdogPreempt => 0x58
  | .watchdogKill => 0x59
  | .coreFenced => 0x5A
  | .partitionViolation => 0x5B
  | .contextSwitchRequest => 0x5C
  | .migrationFailed => 0x5D
  | .thermalEmergency => 0x5E
  | .hostResync => 0x5F

/-- What becomes of a packet: taken by its destination, discarded for a bad CRC at a router or endpoint of a die (R180), or
dropped because the destination cannot take it (R177). -/
inductive Fate where
  | taken
  | badCrc (die : Nat)
  | full
deriving DecidableEq, Repr, Inhabited

/-- What the budget tree measures at a tick (R262, R266, R267, R269): demands in milliwatts per core, HBM and network
power per die, matrix-busy cycles per die (the model itself counts the vector-issue cycles), stack temperatures, the
clocks in MHz that the die budgets allow, the steps of 25 MHz by which the thermal limit lowers the clock, and whether
coolant and inlet are as R267 rates them. (log 43, DESIGN CHOICE; log 54, DESIGN CHOICE) -/
structure Measures where
  demand  : List (Nat × Nat)
  fixed   : List Nat
  matrix  : List Nat
  temps   : List Nat
  budgetClock : List Nat
  thermalSteps : Nat
  rated : Bool
deriving DecidableEq, Repr, Inhabited

/-- An access to device memory from outside: by the host through function `part` of CXL.mem, or by a peer device over
Treaz Link (R116, R167, R273, R277). -/
inductive HostAccess where
  | hostRead (part pa n : Nat)
  | hostWrite (part pa : Nat) (bytes : List Byte)
  | peerRead (pa n : Nat)
  | peerWrite (pa : Nat) (bytes : List Byte)
deriving DecidableEq, Repr, Inhabited

end Sys2Proof
end

