-- ==== Sys2Proof/Syntax.lean ====
section
/-!
DEFINITION. The instruction set: one constructor for each row of the opcode table. The first 161 are instruction
words (R304 to R328), their arguments the fields of the word other than the switch marker S, which every word has
(R304) and which `decode` leaves to the step. The rest are the operations of the device's other agents and the engine
commands; their arguments say on which unit they act and what the outside world supplies.
-/
namespace Sys2Proof

/-- The operations of the NK30, one per row of the opcode table. -/
inductive Instr where
  /-- ADD (R334). Writes the 64-bit wrapping sum of two scalar registers. -/
  | add (d : BitVec 5) (a : BitVec 5) (b : BitVec 5)
  /-- SUB (R420). Writes the 64-bit wrapping difference of two scalar registers. -/
  | sub (d : BitVec 5) (a : BitVec 5) (b : BitVec 5)
  /-- AND (R337). Writes the bitwise AND of two scalar registers. -/
  | and (d : BitVec 5) (a : BitVec 5) (b : BitVec 5)
  /-- OR (R398). Writes the bitwise OR of two scalar registers. -/
  | or (d : BitVec 5) (a : BitVec 5) (b : BitVec 5)
  /-- XOR (R441). Writes the bitwise XOR of two scalar registers. -/
  | xor (d : BitVec 5) (a : BitVec 5) (b : BitVec 5)
  /-- SHL (R412). Shifts left by the count in a register. -/
  | shl (d : BitVec 5) (a : BitVec 5) (b : BitVec 5)
  /-- SHR (R412). Shifts right logically by the count in a register. -/
  | shr (d : BitVec 5) (a : BitVec 5) (b : BitVec 5)
  /-- SHA (R412). Shifts right arithmetically by the count in a register. -/
  | sha (d : BitVec 5) (a : BitVec 5) (b : BitVec 5)
  /-- SLT (R413). Writes 1 when the first register is less than the second, compared signed. -/
  | slt (d : BitVec 5) (a : BitVec 5) (b : BitVec 5)
  /-- SLT_N64 (R413). Writes 1 when the first register is less than the second, compared unsigned. -/
  | sltN64 (d : BitVec 5) (a : BitVec 5) (b : BitVec 5)
  /-- MIN (R389). Writes the signed minimum of two registers. -/
  | min (d : BitVec 5) (a : BitVec 5) (b : BitVec 5)
  /-- MIN_N64 (R389). Writes the unsigned minimum of two registers. -/
  | minN64 (d : BitVec 5) (a : BitVec 5) (b : BitVec 5)
  /-- MAX (R389). Writes the signed maximum of two registers. -/
  | max (d : BitVec 5) (a : BitVec 5) (b : BitVec 5)
  /-- MAX_N64 (R389). Writes the unsigned maximum of two registers. -/
  | maxN64 (d : BitVec 5) (a : BitVec 5) (b : BitVec 5)
  /-- SEL (R410). Writes one of two registers according to whether a third is nonzero. -/
  | sel (d : BitVec 5) (a : BitVec 5) (b : BitVec 5) (c : BitVec 5)
  /-- ADDI (R335). Adds a sign-extended 15-bit immediate to a register. -/
  | addi (d : BitVec 5) (a : BitVec 5) (i : BitVec 15)
  /-- ANDI (R338). ANDs a register with a zero-extended immediate. -/
  | andi (d : BitVec 5) (a : BitVec 5) (i : BitVec 15)
  /-- ORI (R399). ORs a register with a zero-extended immediate. -/
  | ori (d : BitVec 5) (a : BitVec 5) (i : BitVec 15)
  /-- XORI (R441). XORs a register with a zero-extended immediate. -/
  | xori (d : BitVec 5) (a : BitVec 5) (i : BitVec 15)
  /-- SLTI (R413). Writes 1 when a register is less than a signed immediate. -/
  | slti (d : BitVec 5) (a : BitVec 5) (i : BitVec 15)
  /-- SHL_IMM (R412). Shifts left by an immediate count. -/
  | shlImm (d : BitVec 5) (a : BitVec 5) (n : BitVec 6)
  /-- SHR_IMM (R412). Shifts right logically by an immediate count. -/
  | shrImm (d : BitVec 5) (a : BitVec 5) (n : BitVec 6)
  /-- SHA_IMM (R412). Shifts right arithmetically by an immediate count. -/
  | shaImm (d : BitVec 5) (a : BitVec 5) (n : BitVec 6)
  /-- MUL (R396). Writes the low 64 bits of the product. -/
  | mul (d : BitVec 5) (a : BitVec 5) (b : BitVec 5)
  /-- MULH (R396). Writes the high 64 bits of the signed 128-bit product. -/
  | mulh (d : BitVec 5) (a : BitVec 5) (b : BitVec 5)
  /-- MULH_N64 (R396). Writes the high 64 bits of the unsigned 128-bit product. -/
  | mulhN64 (d : BitVec 5) (a : BitVec 5) (b : BitVec 5)
  /-- DIV (R364). Divides signed as a late result, trapping on a zero divisor. -/
  | div (d : BitVec 5) (a : BitVec 5) (b : BitVec 5)
  /-- DIV_N64 (R364). Divides unsigned as a late result, trapping on a zero divisor. -/
  | divN64 (d : BitVec 5) (a : BitVec 5) (b : BitVec 5)
  /-- REM (R404). Writes the signed remainder as a late result. -/
  | rem (d : BitVec 5) (a : BitVec 5) (b : BitVec 5)
  /-- REM_N64 (R404). Writes the unsigned remainder as a late result. -/
  | remN64 (d : BitVec 5) (a : BitVec 5) (b : BitVec 5)
  /-- CLZ (R359). Counts the leading zero bits of a register. -/
  | clz (d : BitVec 5) (a : BitVec 5)
  /-- POPC (R400). Counts the set bits of a register. -/
  | popc (d : BitVec 5) (a : BitVec 5)
  /-- EXT (R372). Extracts a bit field and zero-extends it. -/
  | ext (d : BitVec 5) (a : BitVec 5) (p : BitVec 6) (l : BitVec 6)
  /-- EXT_I64 (R372). Extracts a bit field and sign-extends it. -/
  | extI64 (d : BitVec 5) (a : BitVec 5) (p : BitVec 6) (l : BitVec 6)
  /-- INS (R379). Inserts the low bits of one register into a field of another. -/
  | ins (d : BitVec 5) (a : BitVec 5) (p : BitVec 6) (l : BitVec 6)
  /-- LIC (R386). Writes a 16-bit chunk of a register, keeping the other bits. -/
  | lic (d : BitVec 5) (q : BitVec 2) (i : BitVec 16)
  /-- LIC_Z (R386). Writes a 16-bit chunk of a register and clears the other bits. -/
  | licZ (d : BitVec 5) (q : BitVec 2) (i : BitVec 16)
  /-- LD_N (R383). Loads 1 to 8 bytes, zero-extended, as a late result. -/
  | ldN (d : BitVec 5) (a : BitVec 5) (z : BitVec 2) (i : BitVec 11)
  /-- LD_I (R383). Loads 1 to 8 bytes, sign-extended, as a late result. -/
  | ldI (d : BitVec 5) (a : BitVec 5) (z : BitVec 2) (i : BitVec 11)
  /-- ST (R416). Stores 1 to 8 bytes of a register, leaving the full/empty bit unchanged. -/
  | st (t : BitVec 5) (a : BitVec 5) (z : BitVec 2) (i : BitVec 11)
  /-- LDS (R385). Synchronising load that waits at the home until the word is full. -/
  | lds (d : BitVec 5) (a : BitVec 5) (i : BitVec 11)
  /-- LDS_C (R385). Synchronising load that waits for a full word and leaves it empty. -/
  | ldsC (d : BitVec 5) (a : BitVec 5) (i : BitVec 11)
  /-- STF (R418). Stores a word and sets it full, serving waiting LDS requests. -/
  | stf (t : BitVec 5) (a : BitVec 5) (i : BitVec 11)
  /-- SETE (R411). Clears the full/empty bit of a scratchpad word. -/
  | sete (a : BitVec 5) (i : BitVec 11)
  /-- AMO_ADD (R336). Atomically adds at the home and returns the old value. -/
  | amoAdd (d : BitVec 5) (a : BitVec 5) (z : BitVec 2) (g : BitVec 1) (i : BitVec 8)
  /-- AMO_AND (R336). Atomically ANDs at the home and returns the old value. -/
  | amoAnd (d : BitVec 5) (a : BitVec 5) (z : BitVec 2) (g : BitVec 1) (i : BitVec 8)
  /-- AMO_OR (R336). Atomically ORs at the home and returns the old value. -/
  | amoOr (d : BitVec 5) (a : BitVec 5) (z : BitVec 2) (g : BitVec 1) (i : BitVec 8)
  /-- AMO_XOR (R336). Atomically XORs at the home and returns the old value. -/
  | amoXor (d : BitVec 5) (a : BitVec 5) (z : BitVec 2) (g : BitVec 1) (i : BitVec 8)
  /-- AMO_MIN (R336). Atomically takes the minimum at the home and returns the old value. -/
  | amoMin (d : BitVec 5) (a : BitVec 5) (z : BitVec 2) (g : BitVec 1) (i : BitVec 8)
  /-- AMO_MAX (R336). Atomically takes the maximum at the home and returns the old value. -/
  | amoMax (d : BitVec 5) (a : BitVec 5) (z : BitVec 2) (g : BitVec 1) (i : BitVec 8)
  /-- AMO_SWAP (R336). Atomically swaps at the home and returns the old value. -/
  | amoSwap (d : BitVec 5) (a : BitVec 5) (z : BitVec 2) (g : BitVec 1) (i : BitVec 8)
  /-- CAS (R357). Atomically compares and swaps at the home, returning the old value. -/
  | cas (d : BitVec 5) (a : BitVec 5) (z : BitVec 2) (g : BitVec 1) (b : BitVec 5)
  /-- LDG (R384). Fold load combining one offset of every group member through the tree. -/
  | ldg (v : BitVec 4) (a : BitVec 5) (o : BitVec 4) (t : BitVec 1)
  /-- STG (R419). Writes 64 bytes at one offset of every present fold-group member. -/
  | stg (v : BitVec 4) (a : BitVec 5)
  /-- FENCE (R156). Acquire, release or full fence of a given scope on the issuing context. -/
  | fence (k : BitVec 2) (c : BitVec 3)
  /-- PREF (R402). Silently asks that a line be allocated in the core's L1. -/
  | pref (c : BitVec 2) (a : BitVec 5) (i : BitVec 11)
  /-- VLD (R434). Loads one 64-byte block into a vector register as a late result. -/
  | vld (v : BitVec 4) (a : BitVec 5) (m : BitVec 3) (i : BitVec 12)
  /-- VST (R434). Stores the active lanes of a vector register to a 64-byte block. -/
  | vst (v : BitVec 4) (a : BitVec 5) (m : BitVec 3) (i : BitVec 12)
  /-- VGATH (R433). Gathers one 4-byte word per active lane. -/
  | vgath (v : BitVec 4) (a : BitVec 5) (x : BitVec 4) (m : BitVec 3) (h : BitVec 2)
  /-- VSCAT (R436). Scatters one 4-byte word per active lane. -/
  | vscat (v : BitVec 4) (a : BitVec 5) (x : BitVec 4) (m : BitVec 3) (h : BitVec 2)
  /-- BEQ (R346). Branches when two registers are equal. -/
  | beq (a : BitVec 5) (b : BitVec 5) (f : BitVec 15)
  /-- BNE (R353). Branches when two registers differ. -/
  | bne (a : BitVec 5) (b : BitVec 5) (f : BitVec 15)
  /-- BLT (R350). Branches when less, compared signed. -/
  | blt (a : BitVec 5) (b : BitVec 5) (f : BitVec 15)
  /-- BGE (R347). Branches when greater or equal, compared signed. -/
  | bge (a : BitVec 5) (b : BitVec 5) (f : BitVec 15)
  /-- BLO (R349). Branches when lower, compared unsigned. -/
  | blo (a : BitVec 5) (b : BitVec 5) (f : BitVec 15)
  /-- BHS (R348). Branches when higher or same, compared unsigned. -/
  | bhs (a : BitVec 5) (b : BitVec 5) (f : BitVec 15)
  /-- BMA (R351). Branches when every bit of a mask is set. -/
  | bma (m : BitVec 3) (f : BitVec 15)
  /-- BMN (R352). Branches when no bit of a mask is set. -/
  | bmn (m : BitVec 3) (f : BitVec 15)
  /-- JAL (R380). Jumps to a PC-relative target, writing the link and pushing the link stack on a call. -/
  | jal (d : BitVec 5) (f : BitVec 20)
  /-- JALR (R381). Jumps to a register plus offset, with call and return effects on the link stack. -/
  | jalr (d : BitVec 5) (a : BitVec 5) (i : BitVec 15)
  /-- FADD (R373). Adds two scalar floats with rounding by FPMODE. -/
  | fadd (d : BitVec 5) (a : BitVec 5) (b : BitVec 5) (t : BitVec 3)
  /-- FSUB (R373). Subtracts two scalar floats with rounding by FPMODE. -/
  | fsub (d : BitVec 5) (a : BitVec 5) (b : BitVec 5) (t : BitVec 3)
  /-- FMUL (R373). Multiplies two scalar floats with rounding by FPMODE. -/
  | fmul (d : BitVec 5) (a : BitVec 5) (b : BitVec 5) (t : BitVec 3)
  /-- FDIV (R373). Divides two scalar floats as a late result. -/
  | fdiv (d : BitVec 5) (a : BitVec 5) (b : BitVec 5) (t : BitVec 3)
  /-- FSQRT (R373). Takes the square root of a scalar float as a late result. -/
  | fsqrt (d : BitVec 5) (a : BitVec 5) (t : BitVec 3)
  /-- FMIN (R373). Writes the IEEE minimum of two scalar floats. -/
  | fmin (d : BitVec 5) (a : BitVec 5) (b : BitVec 5) (t : BitVec 3)
  /-- FMAX (R373). Writes the IEEE maximum of two scalar floats. -/
  | fmax (d : BitVec 5) (a : BitVec 5) (b : BitVec 5) (t : BitVec 3)
  /-- FCMP (R374). Compares two scalar floats and writes 1 or 0. -/
  | fcmp (d : BitVec 5) (a : BitVec 5) (b : BitVec 5) (t : BitVec 3) (c : BitVec 3)
  /-- FCVT (R375). Converts a scalar between float and integer types. -/
  | fcvt (d : BitVec 5) (a : BitVec 5) (x : BitVec 3) (y : BitVec 3)
  /-- FFMA (R377). Fused multiply-add of scalar floats with one rounding. -/
  | ffma (d : BitVec 5) (a : BitVec 5) (b : BitVec 5) (c : BitVec 5) (t : BitVec 3)
  /-- VADD_INT (R425). Adds integer vector elements of the active lanes. -/
  | vaddInt (d : BitVec 4) (a : BitVec 4) (b : BitVec 4) (m : BitVec 3) (t : BitVec 3)
  /-- VSUB_INT (R425). Subtracts integer vector elements of the active lanes. -/
  | vsubInt (d : BitVec 4) (a : BitVec 4) (b : BitVec 4) (m : BitVec 3) (t : BitVec 3)
  /-- VMUL_INT (R425). Multiplies integer vector elements of the active lanes. -/
  | vmulInt (d : BitVec 4) (a : BitVec 4) (b : BitVec 4) (m : BitVec 3) (t : BitVec 3)
  /-- VMIN_INT (R425). Takes the minimum of integer vector elements. -/
  | vminInt (d : BitVec 4) (a : BitVec 4) (b : BitVec 4) (m : BitVec 3) (t : BitVec 3)
  /-- VMAX_INT (R425). Takes the maximum of integer vector elements. -/
  | vmaxInt (d : BitVec 4) (a : BitVec 4) (b : BitVec 4) (m : BitVec 3) (t : BitVec 3)
  /-- VSHL (R425). Shifts integer vector elements left. -/
  | vshl (d : BitVec 4) (a : BitVec 4) (b : BitVec 4) (m : BitVec 3) (t : BitVec 3)
  /-- VSHR (R425). Shifts integer vector elements right, logical or arithmetic by type. -/
  | vshr (d : BitVec 4) (a : BitVec 4) (b : BitVec 4) (m : BitVec 3) (t : BitVec 3)
  /-- VCMP_INT (R428). Compares integer vector lanes into a mask. -/
  | vcmpInt (d : BitVec 3) (a : BitVec 4) (b : BitVec 4) (c : BitVec 4) (m : BitVec 3) (t : BitVec 3)
  /-- VADD_FLOAT (R425). Adds float vector elements of the active lanes. -/
  | vaddFloat (d : BitVec 4) (a : BitVec 4) (b : BitVec 4) (m : BitVec 3) (t : BitVec 3)
  /-- VSUB_FLOAT (R425). Subtracts float vector elements of the active lanes. -/
  | vsubFloat (d : BitVec 4) (a : BitVec 4) (b : BitVec 4) (m : BitVec 3) (t : BitVec 3)
  /-- VMUL_FLOAT (R425). Multiplies float vector elements of the active lanes. -/
  | vmulFloat (d : BitVec 4) (a : BitVec 4) (b : BitVec 4) (m : BitVec 3) (t : BitVec 3)
  /-- VMIN_FLOAT (R425). Takes the IEEE minimum of float vector elements. -/
  | vminFloat (d : BitVec 4) (a : BitVec 4) (b : BitVec 4) (m : BitVec 3) (t : BitVec 3)
  /-- VMAX_FLOAT (R425). Takes the IEEE maximum of float vector elements. -/
  | vmaxFloat (d : BitVec 4) (a : BitVec 4) (b : BitVec 4) (m : BitVec 3) (t : BitVec 3)
  /-- VCMP_FLOAT (R428). Compares float vector lanes into a mask. -/
  | vcmpFloat (d : BitVec 3) (a : BitVec 4) (b : BitVec 4) (c : BitVec 4) (m : BitVec 3) (t : BitVec 3)
  /-- VFMA (R432). Fused multiply-add of float vector elements. -/
  | vfma (d : BitVec 4) (a : BitVec 4) (b : BitVec 4) (c : BitVec 4) (m : BitVec 3) (t : BitVec 3)
  /-- VAND (R426). ANDs whole 32-bit lanes. -/
  | vand (d : BitVec 4) (a : BitVec 4) (b : BitVec 4) (m : BitVec 3)
  /-- VOR (R426). ORs whole 32-bit lanes. -/
  | vor (d : BitVec 4) (a : BitVec 4) (b : BitVec 4) (m : BitVec 3)
  /-- VXOR (R426). XORs whole 32-bit lanes. -/
  | vxor (d : BitVec 4) (a : BitVec 4) (b : BitVec 4) (m : BitVec 3)
  /-- VSEL (R426). Selects each lane from one of two vectors by a mask. -/
  | vsel (d : BitVec 4) (a : BitVec 4) (b : BitVec 4) (m : BitVec 3)
  /-- VPERM (R426). Permutes lanes by indices in a second vector. -/
  | vperm (d : BitVec 4) (a : BitVec 4) (b : BitVec 4) (m : BitVec 3)
  /-- VBCAST (R427). Broadcasts the low 32 bits of a scalar to the active lanes. -/
  | vbcast (d : BitVec 4) (a : BitVec 5) (m : BitVec 3)
  /-- VEXT_N32 (R431). Extracts a lane into a scalar, zero-extended. -/
  | vextN32 (d : BitVec 5) (v : BitVec 4) (l : BitVec 4)
  /-- VEXT_I32 (R431). Extracts a lane into a scalar, sign-extended. -/
  | vextI32 (d : BitVec 5) (v : BitVec 4) (l : BitVec 4)
  /-- VINS (R431). Inserts the low 32 bits of a scalar into one lane. -/
  | vins (a : BitVec 5) (d : BitVec 4) (l : BitVec 4)
  /-- VCVT (R429). Converts vector elements between element types. -/
  | vcvt (d : BitVec 4) (a : BitVec 4) (x : BitVec 4) (y : BitVec 4) (m : BitVec 3)
  /-- VRED (R435). Reduces the active elements in ascending order into element 0. -/
  | vred (d : BitVec 4) (a : BitVec 4) (t : BitVec 4) (m : BitVec 3) (o : BitVec 4)
  /-- VSCAN (R435). Writes running prefix results over the active elements. -/
  | vscan (d : BitVec 4) (a : BitVec 4) (t : BitVec 4) (m : BitVec 3) (o : BitVec 4)
  /-- VDOT (R430). Per-lane exact dot product added to a binary32 accumulator. -/
  | vdot (d : BitVec 4) (a : BitVec 4) (b : BitVec 4) (c : BitVec 4) (m : BitVec 3) (t : BitVec 4)
  /-- VSF (R437). Computes a binary32 special function per lane as a late result. -/
  | vsf (d : BitVec 4) (a : BitVec 4) (m : BitVec 3) (f : BitVec 4)
  /-- MAND (R387). ANDs two masks. -/
  | mand (d : BitVec 3) (a : BitVec 3) (b : BitVec 3)
  /-- MOR (R387). ORs two masks. -/
  | mor (d : BitVec 3) (a : BitVec 3) (b : BitVec 3)
  /-- MXOR (R387). XORs two masks. -/
  | mxor (d : BitVec 3) (a : BitVec 3) (b : BitVec 3)
  /-- MNOT (R387). Complements a mask. -/
  | mnot (d : BitVec 3) (a : BitVec 3)
  /-- MCNT (R387). Counts the set bits of a mask into a scalar. -/
  | mcnt (d : BitVec 5) (a : BitVec 3)
  /-- MMOVW (R387). Moves the low 16 bits of a scalar into a mask. -/
  | mmovw (d : BitVec 3) (a : BitVec 5)
  /-- MMOVW_W (R387). Moves a mask, zero-extended, into a scalar. -/
  | mmovwW (d : BitVec 5) (a : BitVec 3)
  /-- SBIND (R408). Binds a stream port to a shape record for popping or pushing. -/
  | sbind (p : BitVec 2) (h : BitVec 2)
  /-- SREL (R415). Ends the binding of a stream port. -/
  | srel (p : BitVec 2)
  /-- SEND (R405). Sends a vector-payload message on the request plane and returns a token. -/
  | send (o : BitVec 2) (t : BitVec 5) (a : BitVec 5) (v : BitVec 4)
  /-- SEND_BUF (R405). Sends a buffer-payload message on the request plane and returns a token. -/
  | sendBuf (o : BitVec 2) (t : BitVec 5) (a : BitVec 5) (b : BitVec 5)
  /-- REPLY (R405). Sends a vector-payload message on the reply plane. -/
  | reply (o : BitVec 2) (t : BitVec 5) (a : BitVec 5) (v : BitVec 4)
  /-- REPLY_BUF (R405). Sends a buffer-payload message on the reply plane. -/
  | replyBuf (o : BitVec 2) (t : BitVec 5) (a : BitVec 5) (b : BitVec 5)
  /-- POST (R401). Posts a receive buffer on a matched-mode channel. -/
  | post (t : BitVec 5) (a : BitVec 5) (b : BitVec 5)
  /-- CHBIND (R358). Binds a closure to a handler-mode channel. -/
  | chbind (c : BitVec 3) (k : BitVec 3) (l : BitVec 1) (p : BitVec 3)
  /-- QCNT (R403). Writes a snapshot of a channel's free slots. -/
  | qcnt (d : BitVec 5) (c : BitVec 3)
  /-- CAPT (R355). Captures registers into a new environment store frame and writes its handle. -/
  | capt (k : BitVec 3) (b : BitVec 5) (n : BitVec 3) (o : BitVec 1) (f : BitVec 13)
  /-- CAPTR (R356). Captures a closure by reference, pinning the current workspace frame. -/
  | captr (k : BitVec 3) (b : BitVec 5) (n : BitVec 3) (o : BitVec 1) (f : BitVec 13)
  /-- APPLY (R339). Applies a closure, queuing it at its home core's deque. -/
  | apply (k : BitVec 3) (a : BitVec 5)
  /-- APPLY_TAIL (R339). Applies a closure after waiting for all results, then ends the task. -/
  | applyTail (k : BitVec 3) (a : BitVec 5)
  /-- APPLYV (R340). Applies the handle in each active lane. -/
  | applyv (v : BitVec 4) (m : BitVec 3)
  /-- SPAWN (R414). Applies a closure at the newest end of the own deque. -/
  | spawn (k : BitVec 3) (a : BitVec 5)
  /-- DUPK (R365). Adds a reference to a closure at its home. -/
  | dupk (k : BitVec 3)
  /-- DROPK (R365). Gives up a reference to a closure at its home. -/
  | dropk (k : BitVec 3)
  /-- MOVK (R393). Moves the low 32 bits of a scalar into a handle register. -/
  | movk (k : BitVec 3) (w : BitVec 5)
  /-- MOVK_W (R393). Moves a handle, zero-extended, into a scalar. -/
  | movkW (k : BitVec 3) (w : BitVec 5)
  /-- KINFO (R382). Reports a handle's state from its home as a late result. -/
  | kinfo (k : BitVec 3) (d : BitVec 5)
  /-- AWAIT (R342). Parks a closure on a parkable block, or applies it at once if resident. -/
  | await (k : BitVec 3) (a : BitVec 5)
  /-- AWAITV (R343). Parks or applies one closure per active lane. -/
  | awaitv (v : BitVec 4) (a : BitVec 5) (b : BitVec 4) (m : BitVec 3)
  /-- BPROBE (R354). Reads a snapshot of a block's directory entry as a late result. -/
  | bprobe (d : BitVec 5) (a : BitVec 5)
  /-- END (R369). Waits for all results and ends the task. -/
  | endTask
  /-- START (R417). Dispatches a closure into a free helper at once from the control context. -/
  | start (k : BitVec 3) (a : BitVec 5)
  /-- ARRIVE (R341). Decrements a join word at its home, setting it full at zero. -/
  | arrive (a : BitVec 5)
  /-- BARA (R344). Releases and records this core's arrival at the team barrier. -/
  | bara (d : BitVec 5) (c : BitVec 3)
  /-- BARW (R345). Waits for a barrier phase to complete, then acts as an acquire. -/
  | barw (a : BitVec 5)
  /-- MASKW (R388). Opens a masked window deferring interjection over n instructions. -/
  | maskw (n : BitVec 6)
  /-- EFORK (R368). Validates and queues copy and matrix engine sequences with a join word. -/
  | efork (j : BitVec 5) (c : BitVec 5) (m : BitVec 5)
  /-- CPY (R360). Queues one copy sequence from two shape registers. -/
  | cpy (t : BitVec 5) (a : BitVec 2) (b : BitVec 2)
  /-- MLEASE (R391). Requests the cluster's matrix lease. -/
  | mlease (t : BitVec 5)
  /-- MREL (R394). Gives up the matrix lease. -/
  | mrel
  /-- ECAN (R367). Cancels a named engine sequence and waits for the report. -/
  | ecan (a : BitVec 5)
  /-- ERES (R370). Resumes a stopped engine sequence at its iteration vector. -/
  | eres (a : BitVec 5)
  /-- CSRD (R361). Reads a system register into a scalar. -/
  | csrd (d : BitVec 5) (i : BitVec 12)
  /-- CSWR (R362). Writes a system register; also the step for writes to registers without a row of their own. -/
  | cswr (a : BitVec 5) (i : BitVec 12)
  /-- TRAP (R422). Raises TRAP_INSTRUCTION with a code. -/
  | trap (c : BitVec 16)
  /-- TRAP_BRK (R422). Raises BREAKPOINT with a code. -/
  | trapBrk (c : BitVec 16)
  /-- RTE (R407). Returns from the trap entry to TRAPPC with the saved privilege and window. -/
  | rte
  /-- MIGR (R390). Starts moving a task group to another core. -/
  | migr (t : BitVec 5) (a : BitVec 5)
  /-- FQPOP (R378). Pops the head entry of the die fault queue as a late result. -/
  | fqpop (v : BitVec 4)
  /-- RESUME (R406). Resumes or kills a held task named by its ticket. -/
  | resume (a : BitVec 5)
  /-- TLBINV (R421). Invalidates the leaves covering an address in every TLB of the partition. -/
  | tlbinv (a : BitVec 5)
  /-- TLBINV_ALL (R421). Invalidates every leaf in every TLB of the partition. -/
  | tlbinvAll (a : BitVec 5)
  /-- FETCH_FAULT (R250). Instruction fetch at the next PC fails translation, permission, class or alignment and traps or
  holds the task before any word is decoded. -/
  | fetchFault (cause : Cause) (addr : BitVec 64)
  /-- ILLEGAL_ENCODING (R331). A fetched word with a reserved major or unassigned selector raises ILLEGAL_ENCODING. -/
  | illegalEncoding (w : BitVec 32)
  /-- XCPY (R439). Engine command copying and converting elements between two shape records. -/
  | xcpy (core n : Nat)
  /-- XGATH (R440). Engine command gathering source runs by an index array. -/
  | xgath (core n : Nat)
  /-- MZERO (R397). Matrix command zeroing an accumulator tile. -/
  | mzero (cl : Nat)
  /-- MMA (R392). Matrix command accumulating A times the decompressed weight stream into a tile. -/
  | mma (cl : Nat)
  /-- MSTORE (R395). Matrix command rounding an accumulator tile into a destination record. -/
  | mstore (cl : Nat)
  /-- WLOAD (R438). Matrix command copying raw bytes into the weight buffer. -/
  | wload (cl : Nat)
  /-- ESIG (R371). Engine command arriving on a join word and/or applying a closure. -/
  | esig (m : Bool) (unit : Nat)
  /-- SEQUENCE_END (R229). End record reached: the sequence ends and arrives once on its join word. -/
  | sequenceEnd (m : Bool) (unit : Nat)
  /-- WP_WRITE (R27). Write to WP that waits for all results and switches the context's frame. -/
  | wpWrite (a : BitVec 5)
  /-- CARVE_WRITE (R28). Write to CARVE that regrows or shrinks the L1 and scratchpad. -/
  | carveWrite (a : BitVec 5)
  /-- BANKFMT_WRITE (R29). Write to a bank's format code. -/
  | bankfmtWrite (a : BitVec 5) (b : BitVec 6)
  /-- ENVCFG_WRITE (R93). Write moving or resizing the environment store. -/
  | envcfgWrite (a : BitVec 5)
  /-- WSPOOL_WRITE (R363). Write moving or resizing the workspace pool. -/
  | wspoolWrite (a : BitVec 5)
  /-- CHCFG_WRITE (R185). Write configuring or disabling a channel. -/
  | chcfgWrite (a : BitVec 5) (ch : BitVec 3)
  /-- FPMODE_WRITE (R209). Write to FPMODE that reseeds the stochastic generator. -/
  | fpmodeWrite (a : BitVec 5)
  /-- FPFLAGS_WRITE (R211). Write clearing FPFLAGS bits written as 1. -/
  | fpflagsWrite (a : BitVec 5)
  /-- FOLDSTAT_WRITE (R198). Write clearing FOLDSTAT fields written as 1. -/
  | foldstatWrite (a : BitVec 5)
  /-- STEALDOM_WRITE (R81). Write selecting the core's stealing domain. -/
  | stealdomWrite (a : BitVec 5)
  /-- BRCFG_WRITE (R111). Write of the die's brumation configuration for the partition. -/
  | brcfgWrite (a : BitVec 5)
  /-- PARTCFG_WRITE (R275). Write of the end-to-end timer field, only with EXPERT set. -/
  | partcfgWrite (a : BitVec 5)
  /-- LAUNCH_DOORBELL (R242). Host doorbell write advancing a launch queue's tail and rechecking its descriptor. -/
  | launchDoorbell (part q : Nat) (v : BitVec 64)
  /-- DOORBELL_CLEAR (R242). Doorbell write with CLEAR returning a preempted, killed or errored queue to RUNNING. -/
  | doorbellClear (part q : Nat) (v : BitVec 64)
  /-- LAUNCH_RECORD (R244). Launcher reads a covered launch record and applies it to its targets. -/
  | launchRecord (part q : Nat)
  /-- LAUNCH_TARGET_RETRY (R244). Launcher retries a target whose store was full every 256 cycles. -/
  | launchTargetRetry (part q : Nat)
  /-- WATCHDOG_PREEMPT (R246). T1 rung reached: the queue becomes PREEMPTED. -/
  | watchdogPreempt (part q : Nat)
  /-- WATCHDOG_KILL (R246). T2 rung reached: every running task of the queue is killed. -/
  | watchdogKill (part q : Nat)
  /-- WATCHDOG_FENCE (R246). T3 rung reached: cores whose kill is incomplete are fenced. -/
  | watchdogFence (part q : Nat)
  /-- TASK_OVERRUN (R66). A task's cycle count reaches TASKLIM. -/
  | taskOverrun (core ctx : Nat)
  /-- DEFERRED_TASK_OVERRUN (R66). A deferred TASK_OVERRUN is raised at the first boundary after the reply or RTE. -/
  | deferredTaskOverrun (core ctx : Nat)
  /-- DISPATCH (R76). The dispatcher fills a free helper from the first source with work. -/
  | dispatch (core : Nat)
  /-- LEVEL_1_TASK_START (R72). The oldest level-1 request starts a task on the shadow workspace. -/
  | level1TaskStart (core : Nat)
  /-- STEAL_REQUEST (R82). An idle core sends a steal request to the next victim of its domain. -/
  | stealRequest (core : Nat)
  /-- STEAL_GRANT (R82). A victim grants or declines a steal request. -/
  | stealGrant (src dst : Nat)
  /-- STEAL_WAIT_EXPIRY (R82). The 256-cycle wait after a fruitless steal round ends. -/
  | stealWaitExpiry (core : Nat)
  /-- LATE_RESULT (R19). A returning late result is written and its destination set full. -/
  | lateResult (id : Nat)
  /-- ACKNOWLEDGEMENT (R150). A store or message acknowledgement returns to its sender. -/
  | acknowledgement (id : Nat)
  /-- MEMORY_REQUEST (R113). A load, store, atomic or arrive is performed at its home in arrival order. -/
  | memoryRequest (src dst : Nat)
  /-- REMAP_REPLY (R149). A requester receives a remap reply, updates its map and re-sends. -/
  | remapReply (id : Nat)
  /-- HANDLER_ARRIVAL (R187). A message arrives at a handler-mode channel and is accepted or refused. -/
  | handlerArrival (src dst : Nat)
  /-- MATCHED_ARRIVAL (R188). A SEND arrives at a matched-mode channel and matches a post or overflows. -/
  | matchedArrival (src dst : Nat)
  /-- REPLY_ARRIVAL (R188). A REPLY arrives and matches only a reserved post. -/
  | replyArrival (src dst : Nat)
  /-- SEND_STATUS (R183). A message status returns and is written to the send token. -/
  | sendStatus (id : Nat)
  /-- APPLY_MESSAGE (R101). An apply message is checked at the handle's home and queued. -/
  | applyMessage (src dst : Nat)
  /-- HANDLE_REQUEST (R107). A remote closure operation is performed at the handle's home. -/
  | handleRequest (src dst : Nat)
  /-- HANDLE_REPLY (R101). The home's reply to a remote handle check returns to the waiting context. -/
  | handleReply (id : Nat)
  /-- PACKET_ARRIVAL (R176). A packet reaches its destination and is accepted, held, dropped or NACKed. -/
  | packetArrival (id : Nat) (fate : Fate)
  /-- NACK_RESEND (R177). A packet is re-sent 256 network cycles after its NACK. -/
  | nackResend (id : Nat)
  /-- E2E_TIMER_EXPIRY (R177). The end-to-end timer of a packet expires and it is re-sent. -/
  | e2eTimerExpiry (id : Nat)
  /-- GOLDEN_PERIOD (R174). A new golden period begins and the golden slot's packet is sent golden. -/
  | goldenPeriod
  /-- HOLD_NOTICE (R174). A hold notice reaches the sender and ends re-sends of the packet. -/
  | holdNotice (id : Nat)
  /-- GOLDEN_TIMEOUT (R180). A golden flit is still undelivered at the end of its period. -/
  | goldenTimeout (id : Nat)
  /-- LINK_DOWN (R180). A mesh link or Treaz Link port fails its link check. -/
  | linkDown (die link : Nat) (port : Option Nat)
  /-- WC_DRAIN (R145). A write-combining entry drains to its home after 64 cycles. -/
  | wcDrain (core : Nat)
  /-- PARK_REQUEST (R118). A park request reaches the block's home slice and is applied, parked or refused. -/
  | parkRequest (src dst : Nat)
  /-- BLOCK_PROBE (R120). A probe reads a block's directory entry at its home slice. -/
  | blockProbe (src dst : Nat)
  /-- STAGE (R122). The slice starts staging the chosen queue's block into a free run. -/
  | stage (slice part : Nat)
  /-- STAGE_COMPLETE (R124). A stage's read completes; the block becomes RESIDENT with a pin per waiter. -/
  | stageComplete (slice base : Nat)
  /-- WAKE (R124). The slice sends one wake to a waiter's parking core. -/
  | wake (slice : Nat)
  /-- WAKE_ARRIVAL (R124). A wake reaches a core's wake queue. -/
  | wakeArrival (src dst : Nat)
  /-- UNPIN (R125). An ending task's unpin lowers the block's pin count at the slice. -/
  | unpin (src dst : Nat)
  /-- LINGER_EXPIRY (R114). A lingering frame's linger time passes and it is evicted. -/
  | lingerExpiry (slice base : Nat)
  /-- WRITEBACK_COMPLETE (R126). An eviction writeback completes and the frame units are freed. -/
  | writebackComplete (slice base : Nat) (lost : List Nat)
  /-- AGE_UNIT (R122). A waiter's age rises and the slice recomputes its chosen queue. -/
  | ageUnit (slice n : Nat)
  /-- BRUM_WAIT_TIMEOUT (R128). A waiter's age reaches WAITMAX and it is reported. -/
  | brumWaitTimeout (slice base idx : Nat)
  /-- WAITER_REPORT (R127). A report turns a removed waiter's flight into a reference at the handle's home. -/
  | waiterReport (src dst : Nat)
  /-- FOLD_RESULT (R195). A fold tree's combined result returns and is written with FOLDSTAT. -/
  | foldResult (id : Nat)
  /-- FOLD_TREE_TIMEOUT (R197). A fold load has no result 100 microseconds after issue. -/
  | foldTreeTimeout (id : Nat)
  /-- PHASE_COMPLETE (R86). A team phase completes, raising C and applying the carve request. -/
  | phaseComplete (part team : Nat)
  /-- LEASE_GRANT (R232). The matrix lease passes to the first queued request. -/
  | leaseGrant (cl : Nat)
  /-- LEASE_EXPIRY (R233). A lease count reaches its limit with another request queued. -/
  | leaseExpiry (cl : Nat)
  /-- SUBARRAY_GATE (R265). An idle sub-array gates after MXGATE with the predictor's consent. -/
  | subarrayGate (cl sub : Nat)
  /-- ISOBAR_TICK (R262). At each 10-microsecond tick the budget tree divides power and sets duty and clocks. -/
  | isobarTick (m : Measures)
  /-- COLLECTIVE_ANNOUNCEMENT (R268). The leader's announced duty and clock arrive at a member. -/
  | collectiveAnnouncement (duty clock tick : Nat)
  /-- COLLECTIVE_APPLY_TICK (R268). Members apply the announced duty and ceiling at the apply tick. -/
  | collectiveApplyTick
  /-- FORWARD_EXPIRY (R260). A forwarding entry expires and force-releases its frames. -/
  | forwardExpiry (core idx : Nat)
  /-- MIGRATION_COMPLETE (R259). The streamer finishes a migration and writes the token. -/
  | migrationComplete (core : Nat)
  /-- HOST_MEMORY_ACCESS (R167). A host CXL.mem or peer access is performed at its home slice. -/
  | hostMemoryAccess (a : HostAccess)
  /-- POWER_ON (R442). Module power-on resets state and starts TIMEBASE at 0. -/
  | powerOn
  /-- FLR (R279). A function-level reset resets one partition's rows. -/
  | flr (part : Nat)
  /-- RESYNC (R282). Management command writing the summary and HOST_RESYNC entries. -/
  | resync (part : Nat) (addr : BitVec 64)
  /-- PART_CONFIG (R275). Management command creating or changing a partition. -/
  | partConfig (part pcb rows : Nat) (expert : Bool)
  /-- PART_RESET (R279). Management command resetting the partition's rows. -/
  | partReset (part : Nat)
  /-- FOLD_CONFIG (R193). Management command configuring a fold group tree. -/
  | foldConfig (part pa : Nat)
  /-- SLICE_RETIRE (R148). Management command retiring an L2 slice. -/
  | sliceRetire (part die slice : Nat)
  /-- CTX_SAVE (R257). Management command starting a partition context switch. -/
  | ctxSave (part area : Nat)
  /-- CONTEXT_SWITCH_SAVE (R257). Once the partition is quiescent the streamer saves its state. -/
  | contextSwitchSave (part : Nat)
  /-- CTX_RESTORE (R257). Management command restoring a saved partition. -/
  | ctxRestore (part area : Nat)
  /-- CHAN_REOPEN (R177). Management command reopening a closed pair channel. -/
  | chanReopen (part src dst : Nat)
  /-- POWER_LIMIT (R262). Management command setting the package power budget. -/
  | powerLimit (part watts : Nat)
  /-- COLLECTIVE (R268). Management command turning collective throttle mode on or off. -/
  | collective (part : Nat) (on leader : Bool) (peers : List Nat) (largest : Nat)
  /-- CORE_POWER_OFF (R271). Management command switching off a quiescent core. -/
  | corePowerOff (part core : Nat)
  /-- CORE_POWER_ON (R271). Management command switching a core back on at reset values. -/
  | corePowerOn (part core : Nat)
  /-- FW_LOAD (R280). Management command verifying a new firmware image for the next power-on; `own`: its record came from
  the runtime's ring. -/
  | fwLoad (part addr len : Nat) (own : Bool)
  /-- SCOPE_D_VALUE_TAKEN (R31). A slice or launcher of the die takes a newly written scope-D register value at its own
  instant within 1 microsecond. -/
  | scopeDValueTaken (unit part : Nat)
  /-- SPDM_REQUEST (R281). An SPDM request over DOE on function 0 is answered with certificates, measurements or a signed
  challenge response. -/
  | spdmRequest (bytes : List Byte)
  /-- RETIRED_LINE_WRITEBACK (R148). The retired slice's writeback of a line completes and the new home slice serves the
  requests it held for that line. -/
  | retiredLineWriteback (slice pa : Nat)
deriving DecidableEq, Repr, Inhabited

end Sys2Proof
end

