-- ==== Sys2Proof/WellFormed.lean ====
section
/-!
DEFINITION. Which field values of an instruction word are assigned (R305 stage 5, R311, R313 to R323, R327, R368) and
which system-register indices are (R24). An instruction is well-formed when every field holds an assigned value.
-/
namespace Sys2Proof

/-- `pos + len ≤ 64`, with `l` the field `len - 1` (R311). -/
def fieldFits (p l : BitVec 6) : Bool := p.toNat + l.toNat + 1 ≤ 64

/-- Type codes 0 to 2: `.f32`, `.f16`, `.bf16` (R319, R321). -/
def isFloatType (t : BitVec 3) : Bool := t.toNat ≤ 2

/-- The destination and source codes of FCVT: each 0 to 6, at least one a float type (R319). -/
def fcvtTypes (dst src : BitVec 3) : Bool :=
  dst != 7 && src != 7 && (isFloatType dst || isFloatType src)

/-- The integer element types of major 0x23 (R321). -/
def isVintType (t : BitVec 3) : Bool := t != 3 && t != 7

/-- The vector element type codes of R320. -/
def isVecType (t : BitVec 4) : Bool := t.toNat ≤ 13

/-- The type codes of VRED and VSCAN: those of R320 other than 3 to 7 (R323). -/
def isReduceType (t : BitVec 4) : Bool := isVecType t && (t.toNat < 3 || 7 < t.toNat)

/-- The carve requests of BARA: 0, or 2 to 6 (R88, R344). -/
def carveRequest (c : BitVec 3) : Bool := c != 1 && c != 7

/-- The assigned system-register indices (R24). -/
def csrAssigned (idx : BitVec 12) : Bool :=
  let n := idx.toNat
  n ≤ 0x005 || (0x010 ≤ n && n ≤ 0x014) || (0x020 ≤ n && n ≤ 0x024) || (0x030 ≤ n && n ≤ 0x034) ||
  (0x040 ≤ n && n ≤ 0x047) || (0x050 ≤ n && n ≤ 0x057) || (0x100 ≤ n && n ≤ 0x13F) ||
  (0x800 ≤ n && n ≤ 0x802)

/-- Whether an operation is an instruction word: those are fetched and decoded; the others are the operations of the
device's other agents, or a part of an instruction's effect named by itself. -/
def Instr.isWord : Instr → Bool
  | .add _ _ _ => true
  | .sub _ _ _ => true
  | .and _ _ _ => true
  | .or _ _ _ => true
  | .xor _ _ _ => true
  | .shl _ _ _ => true
  | .shr _ _ _ => true
  | .sha _ _ _ => true
  | .slt _ _ _ => true
  | .sltN64 _ _ _ => true
  | .min _ _ _ => true
  | .minN64 _ _ _ => true
  | .max _ _ _ => true
  | .maxN64 _ _ _ => true
  | .sel _ _ _ _ => true
  | .addi _ _ _ => true
  | .andi _ _ _ => true
  | .ori _ _ _ => true
  | .xori _ _ _ => true
  | .slti _ _ _ => true
  | .shlImm _ _ _ => true
  | .shrImm _ _ _ => true
  | .shaImm _ _ _ => true
  | .mul _ _ _ => true
  | .mulh _ _ _ => true
  | .mulhN64 _ _ _ => true
  | .div _ _ _ => true
  | .divN64 _ _ _ => true
  | .rem _ _ _ => true
  | .remN64 _ _ _ => true
  | .clz _ _ => true
  | .popc _ _ => true
  | .ext _ _ _ _ => true
  | .extI64 _ _ _ _ => true
  | .ins _ _ _ _ => true
  | .lic _ _ _ => true
  | .licZ _ _ _ => true
  | .ldN _ _ _ _ => true
  | .ldI _ _ _ _ => true
  | .st _ _ _ _ => true
  | .lds _ _ _ => true
  | .ldsC _ _ _ => true
  | .stf _ _ _ => true
  | .sete _ _ => true
  | .amoAdd _ _ _ _ _ => true
  | .amoAnd _ _ _ _ _ => true
  | .amoOr _ _ _ _ _ => true
  | .amoXor _ _ _ _ _ => true
  | .amoMin _ _ _ _ _ => true
  | .amoMax _ _ _ _ _ => true
  | .amoSwap _ _ _ _ _ => true
  | .cas _ _ _ _ _ => true
  | .ldg _ _ _ _ => true
  | .stg _ _ => true
  | .fence _ _ => true
  | .pref _ _ _ => true
  | .vld _ _ _ _ => true
  | .vst _ _ _ _ => true
  | .vgath _ _ _ _ _ => true
  | .vscat _ _ _ _ _ => true
  | .beq _ _ _ => true
  | .bne _ _ _ => true
  | .blt _ _ _ => true
  | .bge _ _ _ => true
  | .blo _ _ _ => true
  | .bhs _ _ _ => true
  | .bma _ _ => true
  | .bmn _ _ => true
  | .jal _ _ => true
  | .jalr _ _ _ => true
  | .fadd _ _ _ _ => true
  | .fsub _ _ _ _ => true
  | .fmul _ _ _ _ => true
  | .fdiv _ _ _ _ => true
  | .fsqrt _ _ _ => true
  | .fmin _ _ _ _ => true
  | .fmax _ _ _ _ => true
  | .fcmp _ _ _ _ _ => true
  | .fcvt _ _ _ _ => true
  | .ffma _ _ _ _ _ => true
  | .vaddInt _ _ _ _ _ => true
  | .vsubInt _ _ _ _ _ => true
  | .vmulInt _ _ _ _ _ => true
  | .vminInt _ _ _ _ _ => true
  | .vmaxInt _ _ _ _ _ => true
  | .vshl _ _ _ _ _ => true
  | .vshr _ _ _ _ _ => true
  | .vcmpInt _ _ _ _ _ _ => true
  | .vaddFloat _ _ _ _ _ => true
  | .vsubFloat _ _ _ _ _ => true
  | .vmulFloat _ _ _ _ _ => true
  | .vminFloat _ _ _ _ _ => true
  | .vmaxFloat _ _ _ _ _ => true
  | .vcmpFloat _ _ _ _ _ _ => true
  | .vfma _ _ _ _ _ _ => true
  | .vand _ _ _ _ => true
  | .vor _ _ _ _ => true
  | .vxor _ _ _ _ => true
  | .vsel _ _ _ _ => true
  | .vperm _ _ _ _ => true
  | .vbcast _ _ _ => true
  | .vextN32 _ _ _ => true
  | .vextI32 _ _ _ => true
  | .vins _ _ _ => true
  | .vcvt _ _ _ _ _ => true
  | .vred _ _ _ _ _ => true
  | .vscan _ _ _ _ _ => true
  | .vdot _ _ _ _ _ _ => true
  | .vsf _ _ _ _ => true
  | .mand _ _ _ => true
  | .mor _ _ _ => true
  | .mxor _ _ _ => true
  | .mnot _ _ => true
  | .mcnt _ _ => true
  | .mmovw _ _ => true
  | .mmovwW _ _ => true
  | .sbind _ _ => true
  | .srel _ => true
  | .send _ _ _ _ => true
  | .sendBuf _ _ _ _ => true
  | .reply _ _ _ _ => true
  | .replyBuf _ _ _ _ => true
  | .post _ _ _ => true
  | .chbind _ _ _ _ => true
  | .qcnt _ _ => true
  | .capt _ _ _ _ _ => true
  | .captr _ _ _ _ _ => true
  | .apply _ _ => true
  | .applyTail _ _ => true
  | .applyv _ _ => true
  | .spawn _ _ => true
  | .dupk _ => true
  | .dropk _ => true
  | .movk _ _ => true
  | .movkW _ _ => true
  | .kinfo _ _ => true
  | .await _ _ => true
  | .awaitv _ _ _ _ => true
  | .bprobe _ _ => true
  | .endTask => true
  | .start _ _ => true
  | .arrive _ => true
  | .bara _ _ => true
  | .barw _ => true
  | .maskw _ => true
  | .efork _ _ _ => true
  | .cpy _ _ _ => true
  | .mlease _ => true
  | .mrel => true
  | .ecan _ => true
  | .eres _ => true
  | .csrd _ _ => true
  | .cswr _ _ => true
  | .trap _ => true
  | .trapBrk _ => true
  | .rte => true
  | .migr _ _ => true
  | .fqpop _ => true
  | .resume _ => true
  | .tlbinv _ => true
  | .tlbinvAll _ => true
  | .xcpy _ _ => false
  | .xgath _ _ => false
  | .mzero _ => false
  | .mma _ => false
  | .mstore _ => false
  | .wload _ => false
  | .esig _ _ => false
  | .sequenceEnd _ _ => false
  | .wpWrite _ => false
  | .carveWrite _ => false
  | .bankfmtWrite _ _ => false
  | .envcfgWrite _ => false
  | .wspoolWrite _ => false
  | .chcfgWrite _ _ => false
  | .fpmodeWrite _ => false
  | .fpflagsWrite _ => false
  | .foldstatWrite _ => false
  | .stealdomWrite _ => false
  | .brcfgWrite _ => false
  | .partcfgWrite _ => false
  | .launchDoorbell _ _ _ => false
  | .doorbellClear _ _ _ => false
  | .launchRecord _ _ => false
  | .launchTargetRetry _ _ => false
  | .watchdogPreempt _ _ => false
  | .watchdogKill _ _ => false
  | .watchdogFence _ _ => false
  | .taskOverrun _ _ => false
  | .deferredTaskOverrun _ _ => false
  | .dispatch _ => false
  | .level1TaskStart _ => false
  | .stealRequest _ => false
  | .stealGrant _ _ => false
  | .stealWaitExpiry _ => false
  | .lateResult _ => false
  | .acknowledgement _ => false
  | .memoryRequest _ _ => false
  | .remapReply _ => false
  | .handlerArrival _ _ => false
  | .matchedArrival _ _ => false
  | .replyArrival _ _ => false
  | .sendStatus _ => false
  | .applyMessage _ _ => false
  | .handleRequest _ _ => false
  | .handleReply _ => false
  | .packetArrival _ _ => false
  | .nackResend _ => false
  | .e2eTimerExpiry _ => false
  | .goldenPeriod => false
  | .holdNotice _ => false
  | .goldenTimeout _ => false
  | .linkDown _ _ _ => false
  | .wcDrain _ => false
  | .parkRequest _ _ => false
  | .blockProbe _ _ => false
  | .stage _ _ => false
  | .stageComplete _ _ => false
  | .wake _ => false
  | .wakeArrival _ _ => false
  | .unpin _ _ => false
  | .lingerExpiry _ _ => false
  | .writebackComplete _ _ _ => false
  | .ageUnit _ _ => false
  | .brumWaitTimeout _ _ _ => false
  | .waiterReport _ _ => false
  | .foldResult _ => false
  | .foldTreeTimeout _ => false
  | .phaseComplete _ _ => false
  | .leaseGrant _ => false
  | .leaseExpiry _ => false
  | .subarrayGate _ _ => false
  | .isobarTick _ => false
  | .collectiveAnnouncement _ _ _ => false
  | .collectiveApplyTick => false
  | .forwardExpiry _ _ => false
  | .migrationComplete _ => false
  | .hostMemoryAccess _ => false
  | .powerOn => false
  | .flr _ => false
  | .resync _ _ => false
  | .partConfig _ _ _ _ => false
  | .partReset _ => false
  | .foldConfig _ _ => false
  | .sliceRetire _ _ _ => false
  | .ctxSave _ _ => false
  | .contextSwitchSave _ => false
  | .ctxRestore _ _ => false
  | .chanReopen _ _ _ => false
  | .powerLimit _ _ => false
  | .collective _ _ _ _ _ => false
  | .corePowerOff _ _ => false
  | .corePowerOn _ _ => false
  | .fwLoad _ _ _ _ => false
  | .fetchFault _ _ => false
  | .illegalEncoding _ => false
  | .scopeDValueTaken _ _ => false
  | .spdmRequest _ => false
  | .retiredLineWriteback _ _ => false

/-- Every field holds an assigned value. -/
def Instr.wf : Instr → Bool
  | .add _ _ _ => true
  | .sub _ _ _ => true
  | .and _ _ _ => true
  | .or _ _ _ => true
  | .xor _ _ _ => true
  | .shl _ _ _ => true
  | .shr _ _ _ => true
  | .sha _ _ _ => true
  | .slt _ _ _ => true
  | .sltN64 _ _ _ => true
  | .min _ _ _ => true
  | .minN64 _ _ _ => true
  | .max _ _ _ => true
  | .maxN64 _ _ _ => true
  | .sel _ _ _ _ => true
  | .addi _ _ _ => true
  | .andi _ _ _ => true
  | .ori _ _ _ => true
  | .xori _ _ _ => true
  | .slti _ _ _ => true
  | .shlImm _ _ _ => true
  | .shrImm _ _ _ => true
  | .shaImm _ _ _ => true
  | .mul _ _ _ => true
  | .mulh _ _ _ => true
  | .mulhN64 _ _ _ => true
  | .div _ _ _ => true
  | .divN64 _ _ _ => true
  | .rem _ _ _ => true
  | .remN64 _ _ _ => true
  | .clz _ _ => true
  | .popc _ _ => true
  | .ext _ _ p l => fieldFits p l
  | .extI64 _ _ p l => fieldFits p l
  | .ins _ _ p l => fieldFits p l
  | .lic _ _ _ => true
  | .licZ _ _ _ => true
  | .ldN _ _ _ _ => true
  | .ldI _ _ _ _ => true
  | .st _ _ _ _ => true
  | .lds _ _ _ => true
  | .ldsC _ _ _ => true
  | .stf _ _ _ => true
  | .sete _ _ => true
  | .amoAdd _ _ z _ _ => decide (2 ≤ z.toNat)
  | .amoAnd _ _ z _ _ => decide (2 ≤ z.toNat)
  | .amoOr _ _ z _ _ => decide (2 ≤ z.toNat)
  | .amoXor _ _ z _ _ => decide (2 ≤ z.toNat)
  | .amoMin _ _ z _ _ => decide (2 ≤ z.toNat)
  | .amoMax _ _ z _ _ => decide (2 ≤ z.toNat)
  | .amoSwap _ _ z _ _ => decide (2 ≤ z.toNat)
  | .cas _ _ z _ _ => decide (2 ≤ z.toNat)
  | .ldg _ _ _ _ => true
  | .stg _ _ => true
  | .fence k c => k != 0 && decide (c.toNat ≤ 4)
  | .pref c _ _ => c != 3
  | .vld _ _ _ _ => true
  | .vst _ _ _ _ => true
  | .vgath _ _ _ _ _ => true
  | .vscat _ _ _ _ _ => true
  | .beq _ _ _ => true
  | .bne _ _ _ => true
  | .blt _ _ _ => true
  | .bge _ _ _ => true
  | .blo _ _ _ => true
  | .bhs _ _ _ => true
  | .bma _ _ => true
  | .bmn _ _ => true
  | .jal _ _ => true
  | .jalr _ _ _ => true
  | .fadd _ _ _ t => isFloatType t
  | .fsub _ _ _ t => isFloatType t
  | .fmul _ _ _ t => isFloatType t
  | .fdiv _ _ _ t => isFloatType t
  | .fsqrt _ _ t => isFloatType t
  | .fmin _ _ _ t => isFloatType t
  | .fmax _ _ _ t => isFloatType t
  | .fcmp _ _ _ t c => isFloatType t && decide (c.toNat ≤ 3)
  | .fcvt _ _ x y => fcvtTypes x y
  | .ffma _ _ _ _ t => isFloatType t
  | .vaddInt _ _ _ _ t => isVintType t
  | .vsubInt _ _ _ _ t => isVintType t
  | .vmulInt _ _ _ _ t => isVintType t
  | .vminInt _ _ _ _ t => isVintType t
  | .vmaxInt _ _ _ _ t => isVintType t
  | .vshl _ _ _ _ t => isVintType t
  | .vshr _ _ _ _ t => isVintType t
  | .vcmpInt _ _ _ c _ t => isVintType t && decide (c.toNat ≤ 3)
  | .vaddFloat _ _ _ _ t => isFloatType t
  | .vsubFloat _ _ _ _ t => isFloatType t
  | .vmulFloat _ _ _ _ t => isFloatType t
  | .vminFloat _ _ _ _ t => isFloatType t
  | .vmaxFloat _ _ _ _ t => isFloatType t
  | .vcmpFloat _ _ _ c _ t => isFloatType t && decide (c.toNat ≤ 4)
  | .vfma _ _ _ _ _ t => isFloatType t
  | .vand _ _ _ _ => true
  | .vor _ _ _ _ => true
  | .vxor _ _ _ _ => true
  | .vsel _ _ _ _ => true
  | .vperm _ _ _ _ => true
  | .vbcast _ _ _ => true
  | .vextN32 _ _ _ => true
  | .vextI32 _ _ _ => true
  | .vins _ _ _ => true
  | .vcvt _ _ x y _ => isVecType x && isVecType y
  | .vred _ _ t _ o => isReduceType t && decide (o.toNat ≤ 2)
  | .vscan _ _ t _ o => isReduceType t && decide (o.toNat ≤ 2)
  | .vdot _ _ _ _ _ t => decide (t.toNat ≤ 4)
  | .vsf _ _ _ f => decide (f.toNat ≤ 7)
  | .mand _ _ _ => true
  | .mor _ _ _ => true
  | .mxor _ _ _ => true
  | .mnot _ _ => true
  | .mcnt _ _ => true
  | .mmovw _ _ => true
  | .mmovwW _ _ => true
  | .sbind _ _ => true
  | .srel _ => true
  | .send o _ _ _ => o != 3
  | .sendBuf o _ _ _ => o != 3
  | .reply o _ _ _ => o != 3
  | .replyBuf o _ _ _ => o != 3
  | .post _ _ _ => true
  | .chbind _ _ _ _ => true
  | .qcnt _ _ => true
  | .capt _ _ _ _ _ => true
  | .captr _ _ _ _ _ => true
  | .apply _ _ => true
  | .applyTail _ _ => true
  | .applyv _ _ => true
  | .spawn _ _ => true
  | .dupk _ => true
  | .dropk _ => true
  | .movk _ _ => true
  | .movkW _ _ => true
  | .kinfo _ _ => true
  | .await _ _ => true
  | .awaitv _ _ _ _ => true
  | .bprobe _ _ => true
  | .endTask => true
  | .start _ _ => true
  | .arrive _ => true
  | .bara _ c => carveRequest c
  | .barw _ => true
  | .maskw _ => true
  | .efork j _ _ => j != 0
  | .cpy _ _ _ => true
  | .mlease _ => true
  | .mrel => true
  | .ecan _ => true
  | .eres _ => true
  | .csrd _ i => csrAssigned i
  | .cswr _ i => csrAssigned i
  | .trap _ => true
  | .trapBrk _ => true
  | .rte => true
  | .migr _ _ => true
  | .fqpop _ => true
  | .resume _ => true
  | .tlbinv _ => true
  | .tlbinvAll _ => true
  | .xcpy _ _ => true
  | .xgath _ _ => true
  | .mzero _ => true
  | .mma _ => true
  | .mstore _ => true
  | .wload _ => true
  | .esig _ _ => true
  | .sequenceEnd _ _ => true
  | .wpWrite _ => true
  | .carveWrite _ => true
  | .bankfmtWrite _ _ => true
  | .envcfgWrite _ => true
  | .wspoolWrite _ => true
  | .chcfgWrite _ _ => true
  | .fpmodeWrite _ => true
  | .fpflagsWrite _ => true
  | .foldstatWrite _ => true
  | .stealdomWrite _ => true
  | .brcfgWrite _ => true
  | .partcfgWrite _ => true
  | .launchDoorbell _ _ _ => true
  | .doorbellClear _ _ _ => true
  | .launchRecord _ _ => true
  | .launchTargetRetry _ _ => true
  | .watchdogPreempt _ _ => true
  | .watchdogKill _ _ => true
  | .watchdogFence _ _ => true
  | .taskOverrun _ _ => true
  | .deferredTaskOverrun _ _ => true
  | .dispatch _ => true
  | .level1TaskStart _ => true
  | .stealRequest _ => true
  | .stealGrant _ _ => true
  | .stealWaitExpiry _ => true
  | .lateResult _ => true
  | .acknowledgement _ => true
  | .memoryRequest _ _ => true
  | .remapReply _ => true
  | .handlerArrival _ _ => true
  | .matchedArrival _ _ => true
  | .replyArrival _ _ => true
  | .sendStatus _ => true
  | .applyMessage _ _ => true
  | .handleRequest _ _ => true
  | .handleReply _ => true
  | .packetArrival _ _ => true
  | .nackResend _ => true
  | .e2eTimerExpiry _ => true
  | .goldenPeriod => true
  | .holdNotice _ => true
  | .goldenTimeout _ => true
  | .linkDown _ _ _ => true
  | .wcDrain _ => true
  | .parkRequest _ _ => true
  | .blockProbe _ _ => true
  | .stage _ _ => true
  | .stageComplete _ _ => true
  | .wake _ => true
  | .wakeArrival _ _ => true
  | .unpin _ _ => true
  | .lingerExpiry _ _ => true
  | .writebackComplete _ _ _ => true
  | .ageUnit _ _ => true
  | .brumWaitTimeout _ _ _ => true
  | .waiterReport _ _ => true
  | .foldResult _ => true
  | .foldTreeTimeout _ => true
  | .phaseComplete _ _ => true
  | .leaseGrant _ => true
  | .leaseExpiry _ => true
  | .subarrayGate _ _ => true
  | .isobarTick _ => true
  | .collectiveAnnouncement _ _ _ => true
  | .collectiveApplyTick => true
  | .forwardExpiry _ _ => true
  | .migrationComplete _ => true
  | .hostMemoryAccess _ => true
  | .powerOn => true
  | .flr _ => true
  | .resync _ _ => true
  | .partConfig _ _ _ _ => true
  | .partReset _ => true
  | .foldConfig _ _ => true
  | .sliceRetire _ _ _ => true
  | .ctxSave _ _ => true
  | .contextSwitchSave _ => true
  | .ctxRestore _ _ => true
  | .chanReopen _ _ _ => true
  | .powerLimit _ _ => true
  | .collective _ _ _ _ _ => true
  | .corePowerOff _ _ => true
  | .corePowerOn _ _ => true
  | .fwLoad _ _ _ _ => true
  | .fetchFault _ _ => true
  | .illegalEncoding _ => true
  | .scopeDValueTaken _ _ => true
  | .spdmRequest _ => true
  | .retiredLineWriteback _ _ => true

end Sys2Proof
end

