-- ==== Sys2Proof/Decode.lean ====
section
/-!
DEFINITION. Decoding (stages 2, 3 and 5 of R305; R304 to R328, R117, R155, R181, R189, R194, R228) and encoding.
`decode` is total: a word that is no instruction is refused by name. Bit 31, the switch marker S, is not part of the
instruction: R304 gives it one meaning in every word, and the step tests it.
-/
namespace Sys2Proof

/-- What a word needs of the issuing privilege at stage 4 of R305, known although the word is refused at stage 5. -/
inductive Need where
  | task
  | runtime
  | csrRead (idx : BitVec 12)
  | csrWrite (idx : BitVec 12)
deriving DecidableEq, Repr

/-- Why a word is no instruction: stages 2 and 3 of R305 (ILLEGAL_ENCODING), or stage 5 (RESERVED_FIELD, after the
privilege check of stage 4). -/
inductive DecErr where
  | illegal
  | reserved (need : Need)
deriving DecidableEq, Repr

/-- A word with a field written below what it holds (R304: fields are listed from bit 31 down). -/
def put {n : Nat} (x : BitVec n) (w : IWord) : IWord := w <<< n ||| x.setWidth 32

/-- `len` bits of a word from bit `lo` upward (R2). -/
def bits (w : IWord) (lo len : Nat) : BitVec len := w.extractLsb' lo len

/-- The major opcode, bits [30:25] (R304). -/
def major (w : IWord) : BitVec 6 := bits w 25 6

/-- The instruction `i`, unless a must-be-zero bit is set or a field holds a reserved value (stage 5 of R305). -/
def unlessReserved (bad : Bool) (i : Instr) : Except DecErr Instr :=
  if bad then .error (.reserved .task) else .ok i

/-- As `unlessReserved`, for a runtime-only encoding (stage 4 before stage 5, R305). -/
def runtimeOnly (bad : Bool) (i : Instr) : Except DecErr Instr :=
  if bad then .error (.reserved .runtime) else .ok i

/-- Major 0x01 (R308). -/
def decodeAlu (w : IWord) : Except DecErr Instr :=
  let d := bits w 20 5; let a := bits w 15 5; let b := bits w 10 5
  let z := bits w 5 5 != 0
  match (bits w 0 5).toNat with
  | 0x00 => unlessReserved z (.add d a b)
  | 0x01 => unlessReserved z (.sub d a b)
  | 0x02 => unlessReserved z (.and d a b)
  | 0x03 => unlessReserved z (.or d a b)
  | 0x04 => unlessReserved z (.xor d a b)
  | 0x05 => unlessReserved z (.shl d a b)
  | 0x06 => unlessReserved z (.shr d a b)
  | 0x07 => unlessReserved z (.sha d a b)
  | 0x08 => unlessReserved z (.slt d a b)
  | 0x09 => unlessReserved z (.sltN64 d a b)
  | 0x0A => unlessReserved z (.min d a b)
  | 0x0B => unlessReserved z (.minN64 d a b)
  | 0x0C => unlessReserved z (.max d a b)
  | 0x0D => unlessReserved z (.maxN64 d a b)
  | 0x0E => .ok (.sel d a b (bits w 5 5))
  | _ => .error .illegal

/-- Major 0x07 (R309). -/
def decodeShiftImm (w : IWord) : Except DecErr Instr :=
  let d := bits w 20 5; let a := bits w 15 5; let n := bits w 0 6
  let z := bits w 6 7 != 0
  match (bits w 13 2).toNat with
  | 0 => unlessReserved z (.shlImm d a n)
  | 1 => unlessReserved z (.shrImm d a n)
  | 2 => unlessReserved z (.shaImm d a n)
  | _ => .error .illegal

/-- Major 0x08 (R310). -/
def decodeMul (w : IWord) : Except DecErr Instr :=
  let d := bits w 20 5; let a := bits w 15 5; let b := bits w 10 5
  let z := bits w 5 5 != 0
  match (bits w 0 5).toNat with
  | 0x00 => unlessReserved z (.mul d a b)
  | 0x01 => unlessReserved z (.mulh d a b)
  | 0x02 => unlessReserved z (.mulhN64 d a b)
  | 0x03 => unlessReserved z (.div d a b)
  | 0x04 => unlessReserved z (.divN64 d a b)
  | 0x05 => unlessReserved z (.rem d a b)
  | 0x06 => unlessReserved z (.remN64 d a b)
  | _ => .error .illegal

/-- Major 0x09 (R311). -/
def decodeBitField (w : IWord) : Except DecErr Instr :=
  let d := bits w 20 5; let a := bits w 15 5; let p := bits w 6 6; let l := bits w 0 6
  match (bits w 13 2).toNat with
  | 0 => unlessReserved (bits w 0 13 != 0) (.clz d a)
  | 1 => unlessReserved (bits w 0 13 != 0) (.popc d a)
  | 2 => if bits w 12 1 = 1 then unlessReserved (!fieldFits p l) (.extI64 d a p l)
         else unlessReserved (!fieldFits p l) (.ext d a p l)
  | _ => unlessReserved (bits w 12 1 != 0 || !fieldFits p l) (.ins d a p l)

/-- Major 0x0A (R306, R331). -/
def decodeLic (w : IWord) : Except DecErr Instr :=
  let d := bits w 20 5; let q := bits w 17 2; let i := bits w 0 16
  if bits w 19 1 = 1 then unlessReserved (bits w 16 1 != 0) (.licZ d q i)
  else unlessReserved (bits w 16 1 != 0) (.lic d q i)

/-- Majors 0x10 to 0x12 (R313). -/
def decodeLd (w : IWord) : Except DecErr Instr :=
  let d := bits w 20 5; let a := bits w 15 5; let z := bits w 13 2; let i := bits w 0 11
  match (bits w 11 2).toNat with
  | 0 => .ok (.ldN d a z i)
  | 1 => .ok (.ldI d a z i)
  | _ => .error (.reserved .task)

def decodeSt (w : IWord) : Except DecErr Instr :=
  unlessReserved (bits w 11 2 != 0) (.st (bits w 20 5) (bits w 15 5) (bits w 13 2) (bits w 0 11))

def decodeSync (w : IWord) : Except DecErr Instr :=
  let d := bits w 20 5; let a := bits w 15 5; let i := bits w 0 11
  let z := bits w 13 2 != 3
  match (bits w 11 2).toNat with
  | 0 => unlessReserved z (.lds d a i)
  | 1 => unlessReserved z (.ldsC d a i)
  | 2 => unlessReserved z (.stf d a i)
  | _ => unlessReserved (z || d != 0) (.sete a i)

/-- Major 0x13 (R314). -/
def decodeAtomic (w : IWord) : Except DecErr Instr :=
  let d := bits w 20 5; let a := bits w 15 5; let z := bits w 13 2; let g := bits w 12 1; let i := bits w 0 8
  let bad := z.toNat < 2
  match (bits w 8 4).toNat with
  | 0 => unlessReserved bad (.amoAdd d a z g i)
  | 1 => unlessReserved bad (.amoAnd d a z g i)
  | 2 => unlessReserved bad (.amoOr d a z g i)
  | 3 => unlessReserved bad (.amoXor d a z g i)
  | 4 => unlessReserved bad (.amoMin d a z g i)
  | 5 => unlessReserved bad (.amoMax d a z g i)
  | 6 => unlessReserved bad (.amoSwap d a z g i)
  | 7 => unlessReserved (bad || bits w 0 3 != 0) (.cas d a z g (bits w 3 5))
  | _ => .error .illegal

/-- Major 0x14 (R194). -/
def decodeFold (w : IWord) : Except DecErr Instr :=
  if bits w 24 1 = 0 then
    unlessReserved (bits w 0 10 != 0) (.ldg (bits w 20 4) (bits w 15 5) (bits w 11 4) (bits w 10 1))
  else unlessReserved (bits w 0 15 != 0) (.stg (bits w 20 4) (bits w 15 5))

/-- Major 0x15 (R155, R315). -/
def decodeFence (w : IWord) : Except DecErr Instr :=
  if bits w 24 1 = 0 then
    if bits w 22 2 = 0 then .error .illegal
    else unlessReserved ((bits w 19 3).toNat > 4 || bits w 0 19 != 0) (.fence (bits w 22 2) (bits w 19 3))
  else
    unlessReserved (bits w 22 2 == 3 || bits w 20 2 != 0 || bits w 11 4 != 0)
      (.pref (bits w 22 2) (bits w 15 5) (bits w 0 11))

/-- Major 0x16 (R316). -/
def decodeVmem (w : IWord) : Except DecErr Instr :=
  if bits w 15 1 = 0 then .ok (.vld (bits w 21 4) (bits w 16 5) (bits w 12 3) (bits w 0 12))
  else .ok (.vst (bits w 21 4) (bits w 16 5) (bits w 12 3) (bits w 0 12))

/-- Major 0x17 (R317). -/
def decodeGather (w : IWord) : Except DecErr Instr :=
  let v := bits w 21 4; let a := bits w 16 5; let x := bits w 12 4; let m := bits w 8 3; let h := bits w 6 2
  if bits w 11 1 = 0 then unlessReserved (bits w 0 6 != 0) (.vgath v a x m h)
  else unlessReserved (bits w 0 6 != 0) (.vscat v a x m h)

/-- Major 0x1E (R318). -/
def decodeMaskBranch (w : IWord) : Except DecErr Instr :=
  if bits w 24 1 = 0 then unlessReserved (bits w 15 6 != 0) (.bma (bits w 21 3) (bits w 0 15))
  else unlessReserved (bits w 15 6 != 0) (.bmn (bits w 21 3) (bits w 0 15))

/-- Major 0x21 (R319). -/
def decodeFloat (w : IWord) : Except DecErr Instr :=
  let d := bits w 20 5; let a := bits w 15 5; let b := bits w 10 5; let t := bits w 3 3; let y := bits w 0 3
  let bad := !isFloatType t || y != 0
  match (bits w 6 4).toNat with
  | 0 => unlessReserved bad (.fadd d a b t)
  | 1 => unlessReserved bad (.fsub d a b t)
  | 2 => unlessReserved bad (.fmul d a b t)
  | 3 => unlessReserved bad (.fdiv d a b t)
  | 4 => unlessReserved (bad || b != 0) (.fsqrt d a t)
  | 5 => unlessReserved bad (.fmin d a b t)
  | 6 => unlessReserved bad (.fmax d a b t)
  | 7 => unlessReserved (!isFloatType t || y.toNat > 3) (.fcmp d a b t y)
  | 8 => unlessReserved (b != 0 || !fcvtTypes t y) (.fcvt d a t y)
  | _ => .error .illegal

/-- Major 0x22 (R319). -/
def decodeFfma (w : IWord) : Except DecErr Instr :=
  if bits w 0 2 = 0 then
    unlessReserved (!isFloatType (bits w 2 3))
      (.ffma (bits w 20 5) (bits w 15 5) (bits w 10 5) (bits w 5 5) (bits w 2 3))
  else .error .illegal

/-- Major 0x23 (R321). -/
def decodeVint (w : IWord) : Except DecErr Instr :=
  let d := bits w 21 4; let a := bits w 17 4; let b := bits w 13 4; let c := bits w 9 4; let m := bits w 6 3
  let t := bits w 0 3
  let bad := !isVintType t || c != 0
  match (bits w 3 3).toNat with
  | 0 => unlessReserved bad (.vaddInt d a b m t)
  | 1 => unlessReserved bad (.vsubInt d a b m t)
  | 2 => unlessReserved bad (.vmulInt d a b m t)
  | 3 => unlessReserved bad (.vminInt d a b m t)
  | 4 => unlessReserved bad (.vmaxInt d a b m t)
  | 5 => unlessReserved bad (.vshl d a b m t)
  | 6 => unlessReserved bad (.vshr d a b m t)
  | _ => unlessReserved (!isVintType t || c.toNat > 3 || bits w 24 1 != 0) (.vcmpInt (bits w 21 3) a b c m t)

/-- Major 0x24 (R321). -/
def decodeVfloat (w : IWord) : Except DecErr Instr :=
  let d := bits w 21 4; let a := bits w 17 4; let b := bits w 13 4; let c := bits w 9 4; let m := bits w 6 3
  let t := bits w 0 3
  let bad := !isFloatType t || c != 0
  match (bits w 3 3).toNat with
  | 0 => unlessReserved bad (.vaddFloat d a b m t)
  | 1 => unlessReserved bad (.vsubFloat d a b m t)
  | 2 => unlessReserved bad (.vmulFloat d a b m t)
  | 3 => unlessReserved bad (.vminFloat d a b m t)
  | 4 => unlessReserved bad (.vmaxFloat d a b m t)
  | 5 => unlessReserved (!isFloatType t || c.toNat > 4 || bits w 24 1 != 0) (.vcmpFloat (bits w 21 3) a b c m t)
  | _ => .error .illegal

/-- Major 0x25 (R321). -/
def decodeVfma (w : IWord) : Except DecErr Instr :=
  if bits w 3 3 = 0 then
    unlessReserved (!isFloatType (bits w 0 3))
      (.vfma (bits w 21 4) (bits w 17 4) (bits w 13 4) (bits w 9 4) (bits w 6 3) (bits w 0 3))
  else .error .illegal

/-- Major 0x26 (R322). -/
def decodeVmisc (w : IWord) : Except DecErr Instr :=
  let d := bits w 21 4; let a := bits w 17 4; let b := bits w 13 4; let c := bits w 9 4; let m := bits w 6 3
  match (bits w 0 6).toNat with
  | 0x00 => unlessReserved (c != 0) (.vand d a b m)
  | 0x01 => unlessReserved (c != 0) (.vor d a b m)
  | 0x02 => unlessReserved (c != 0) (.vxor d a b m)
  | 0x03 => unlessReserved (c != 0) (.vsel d a b m)
  | 0x04 => unlessReserved (c != 0) (.vperm d a b m)
  | 0x05 => unlessReserved (bits w 9 7 != 0) (.vbcast d (bits w 16 5) m)
  | 0x06 => unlessReserved (bits w 6 6 != 0) (.vextN32 (bits w 20 5) (bits w 16 4) (bits w 12 4))
  | 0x07 => unlessReserved (bits w 6 6 != 0) (.vextI32 (bits w 20 5) (bits w 16 4) (bits w 12 4))
  | 0x08 => unlessReserved (bits w 6 6 != 0) (.vins (bits w 20 5) (bits w 16 4) (bits w 12 4))
  | 0x09 => unlessReserved (!isVecType b || !isVecType c) (.vcvt d a b c m)
  | _ => .error .illegal

/-- Major 0x27 (R323). -/
def decodeVred (w : IWord) : Except DecErr Instr :=
  let d := bits w 21 4; let a := bits w 17 4; let b := bits w 13 4; let c := bits w 9 4; let m := bits w 6 3
  let f := bits w 0 4
  match (bits w 4 2).toNat with
  | 0 => if f.toNat > 2 then .error .illegal
         else unlessReserved (b != 0 || !isReduceType c) (.vred d a c m f)
  | 1 => if f.toNat > 2 then .error .illegal
         else unlessReserved (b != 0 || !isReduceType c) (.vscan d a c m f)
  | 2 => if f.toNat > 4 then .error .illegal else .ok (.vdot d a b c m f)
  | _ => if f.toNat > 7 then .error .illegal
         else unlessReserved (b != 0 || c != 0) (.vsf d a m f)

/-- Major 0x28 (R324). -/
def decodeMask (w : IWord) : Except DecErr Instr :=
  match (bits w 22 3).toNat with
  | 0 => unlessReserved (bits w 0 13 != 0) (.mand (bits w 19 3) (bits w 16 3) (bits w 13 3))
  | 1 => unlessReserved (bits w 0 13 != 0) (.mor (bits w 19 3) (bits w 16 3) (bits w 13 3))
  | 2 => unlessReserved (bits w 0 13 != 0) (.mxor (bits w 19 3) (bits w 16 3) (bits w 13 3))
  | 3 => unlessReserved (bits w 0 16 != 0) (.mnot (bits w 19 3) (bits w 16 3))
  | 4 => unlessReserved (bits w 0 14 != 0) (.mcnt (bits w 17 5) (bits w 14 3))
  | 5 => unlessReserved (bits w 0 14 != 0) (.mmovw (bits w 19 3) (bits w 14 5))
  | 6 => unlessReserved (bits w 0 14 != 0) (.mmovwW (bits w 17 5) (bits w 14 3))
  | _ => .error .illegal

/-- Major 0x29 (R325). -/
def decodeStream (w : IWord) : Except DecErr Instr :=
  if bits w 24 1 = 0 then unlessReserved (bits w 0 20 != 0) (.sbind (bits w 22 2) (bits w 20 2))
  else unlessReserved (bits w 0 22 != 0) (.srel (bits w 22 2))

/-- Major 0x2A (R181). -/
def decodeSend (w : IWord) : Except DecErr Instr :=
  let o := bits w 22 2; let t := bits w 16 5; let a := bits w 11 5
  if bits w 24 1 = 0 then
    if bits w 21 1 = 0 then unlessReserved (o == 3 || bits w 0 7 != 0) (.send o t a (bits w 7 4))
    else unlessReserved (o == 3 || bits w 0 6 != 0) (.sendBuf o t a (bits w 6 5))
  else
    if bits w 21 1 = 0 then unlessReserved (o == 3 || bits w 0 7 != 0) (.reply o t a (bits w 7 4))
    else unlessReserved (o == 3 || bits w 0 6 != 0) (.replyBuf o t a (bits w 6 5))

/-- Major 0x2B (R189). -/
def decodePost (w : IWord) : Except DecErr Instr :=
  match (bits w 23 2).toNat with
  | 0 => unlessReserved (bits w 21 2 != 0 || bits w 0 6 != 0) (.post (bits w 16 5) (bits w 11 5) (bits w 6 5))
  | 1 => unlessReserved (bits w 0 13 != 0) (.chbind (bits w 20 3) (bits w 17 3) (bits w 16 1) (bits w 13 3))
  | 2 => unlessReserved (bits w 0 15 != 0) (.qcnt (bits w 18 5) (bits w 15 3))
  | _ => .error .illegal

/-- Major 0x2E (R326). -/
def decodeClosure (w : IWord) : Except DecErr Instr :=
  match (bits w 22 3).toNat with
  | 0 => if bits w 13 1 = 0 then unlessReserved (bits w 0 13 != 0) (.apply (bits w 19 3) (bits w 14 5))
         else unlessReserved (bits w 0 13 != 0) (.applyTail (bits w 19 3) (bits w 14 5))
  | 1 => unlessReserved (bits w 0 15 != 0) (.applyv (bits w 18 4) (bits w 15 3))
  | 2 => unlessReserved (bits w 0 14 != 0) (.spawn (bits w 19 3) (bits w 14 5))
  | 3 => unlessReserved (bits w 0 19 != 0) (.dupk (bits w 19 3))
  | 4 => unlessReserved (bits w 0 19 != 0) (.dropk (bits w 19 3))
  | 5 => if bits w 21 1 = 0 then unlessReserved (bits w 0 13 != 0) (.movk (bits w 18 3) (bits w 13 5))
         else unlessReserved (bits w 0 13 != 0) (.movkW (bits w 18 3) (bits w 13 5))
  | 6 => unlessReserved (bits w 0 14 != 0) (.kinfo (bits w 19 3) (bits w 14 5))
  | _ => .error .illegal

/-- Major 0x2F (R117). -/
def decodeAwait (w : IWord) : Except DecErr Instr :=
  match (bits w 23 2).toNat with
  | 0 => unlessReserved (bits w 0 15 != 0) (.await (bits w 20 3) (bits w 15 5))
  | 1 => unlessReserved (bits w 0 7 != 0) (.awaitv (bits w 19 4) (bits w 14 5) (bits w 10 4) (bits w 7 3))
  | 2 => unlessReserved (bits w 0 13 != 0) (.bprobe (bits w 18 5) (bits w 13 5))
  | _ => .error .illegal

/-- Major 0x30 (R327). -/
def decodeTask (w : IWord) : Except DecErr Instr :=
  match (bits w 22 3).toNat with
  | 0 => unlessReserved (bits w 0 22 != 0) .endTask
  | 1 => unlessReserved (bits w 0 14 != 0) (.start (bits w 19 3) (bits w 14 5))
  | 2 => unlessReserved (bits w 0 17 != 0) (.arrive (bits w 17 5))
  | 3 => unlessReserved (bits w 0 14 != 0 || !carveRequest (bits w 14 3)) (.bara (bits w 17 5) (bits w 14 3))
  | 4 => unlessReserved (bits w 0 17 != 0) (.barw (bits w 17 5))
  | 5 => unlessReserved (bits w 0 16 != 0) (.maskw (bits w 16 6))
  | _ => .error .illegal

/-- Major 0x31 (R228, R368). -/
def decodeEngine (w : IWord) : Except DecErr Instr :=
  match (bits w 22 3).toNat with
  | 0 => unlessReserved (bits w 0 7 != 0 || bits w 17 5 == 0) (.efork (bits w 17 5) (bits w 12 5) (bits w 7 5))
  | 1 => unlessReserved (bits w 0 13 != 0) (.cpy (bits w 17 5) (bits w 15 2) (bits w 13 2))
  | 2 => unlessReserved (bits w 0 17 != 0) (.mlease (bits w 17 5))
  | 3 => unlessReserved (bits w 0 22 != 0) .mrel
  | 4 => runtimeOnly (bits w 0 17 != 0) (.ecan (bits w 17 5))
  | 5 => runtimeOnly (bits w 0 17 != 0) (.eres (bits w 17 5))
  | _ => .error .illegal

/-- Major 0x32 (R328, R25). -/
def decodeSystem (w : IWord) : Except DecErr Instr :=
  match (bits w 22 3).toNat with
  | 0 => if csrAssigned (bits w 5 12) then
           if bits w 0 5 != 0 then .error (.reserved (.csrRead (bits w 5 12)))
           else .ok (.csrd (bits w 17 5) (bits w 5 12))
         else .error .illegal
  | 1 => if csrAssigned (bits w 5 12) then
           if bits w 0 5 != 0 then .error (.reserved (.csrWrite (bits w 5 12)))
           else .ok (.cswr (bits w 17 5) (bits w 5 12))
         else .error .illegal
  | 2 => if bits w 21 1 = 0 then unlessReserved (bits w 16 5 != 0) (.trap (bits w 0 16))
         else unlessReserved (bits w 16 5 != 0) (.trapBrk (bits w 0 16))
  | 3 => runtimeOnly (bits w 0 22 != 0) .rte
  | 4 => runtimeOnly (bits w 0 12 != 0) (.migr (bits w 17 5) (bits w 12 5))
  | 5 => runtimeOnly (bits w 0 18 != 0) (.fqpop (bits w 18 4))
  | 6 => runtimeOnly (bits w 0 17 != 0) (.resume (bits w 17 5))
  | _ => if bits w 15 2 = 0 then runtimeOnly (bits w 0 15 != 0) (.tlbinv (bits w 17 5))
         else if bits w 15 2 = 1 then runtimeOnly (bits w 0 15 != 0) (.tlbinvAll (bits w 17 5))
         else .error (.reserved .runtime)

/-- Decoding of a 32-bit word (R304 to R331). (log 29, DEDUCED) -/
def decode (w : IWord) : Except DecErr Instr :=
  let d := bits w 20 5; let a := bits w 15 5; let i := bits w 0 15
  match (major w).toNat with
  | 0x01 => decodeAlu w
  | 0x02 => .ok (.addi d a i)
  | 0x03 => .ok (.andi d a i)
  | 0x04 => .ok (.ori d a i)
  | 0x05 => .ok (.xori d a i)
  | 0x06 => .ok (.slti d a i)
  | 0x07 => decodeShiftImm w
  | 0x08 => decodeMul w
  | 0x09 => decodeBitField w
  | 0x0A => decodeLic w
  | 0x10 => decodeLd w
  | 0x11 => decodeSt w
  | 0x12 => decodeSync w
  | 0x13 => decodeAtomic w
  | 0x14 => decodeFold w
  | 0x15 => decodeFence w
  | 0x16 => decodeVmem w
  | 0x17 => decodeGather w
  | 0x18 => .ok (.beq d a i)
  | 0x19 => .ok (.bne d a i)
  | 0x1A => .ok (.blt d a i)
  | 0x1B => .ok (.bge d a i)
  | 0x1C => .ok (.blo d a i)
  | 0x1D => .ok (.bhs d a i)
  | 0x1E => decodeMaskBranch w
  | 0x1F => .ok (.jal d (bits w 0 20))
  | 0x20 => .ok (.jalr d a i)
  | 0x21 => decodeFloat w
  | 0x22 => decodeFfma w
  | 0x23 => decodeVint w
  | 0x24 => decodeVfloat w
  | 0x25 => decodeVfma w
  | 0x26 => decodeVmisc w
  | 0x27 => decodeVred w
  | 0x28 => decodeMask w
  | 0x29 => decodeStream w
  | 0x2A => decodeSend w
  | 0x2B => decodePost w
  | 0x2C => .ok (.capt (bits w 22 3) (bits w 17 5) (bits w 14 3) (bits w 13 1) (bits w 0 13))
  | 0x2D => .ok (.captr (bits w 22 3) (bits w 17 5) (bits w 14 3) (bits w 13 1) (bits w 0 13))
  | 0x2E => decodeClosure w
  | 0x2F => decodeAwait w
  | 0x30 => decodeTask w
  | 0x31 => decodeEngine w
  | 0x32 => decodeSystem w
  | _ => .error .illegal

/-- A word given as the four bytes that hold it, lowest address first (R2, R304); the bytes after it are left. -/
def decodeBytes : List Byte → Except DecErr Instr × List Byte
  | b0 :: b1 :: b2 :: b3 :: rest => (decode (b3 ++ b2 ++ b1 ++ b0), rest)
  | rest => (.error .illegal, rest)

/-- The decoder's reading of an instruction whose bits are `w`, numbered as the opcode table numbers them: 32 bits,
bit 0 the least significant; laid out little-endian as fetched. -/
def decodeTableWord (nbits w : Nat) : Option Instr :=
  if nbits ≤ 32 then
    let x : IWord := BitVec.ofNat 32 (w % 2 ^ nbits)
    match (decodeBytes [x.extractLsb' 0 8, x.extractLsb' 8 8, x.extractLsb' 16 8, x.extractLsb' 24 8]).1 with
    | .ok i => some i
    | .error _ => none
  else none

/-- The word of an instruction with switch marker `s`, from the tables of R306 to R328. An operation that is no
instruction word encodes as the all-zero word, which is no instruction (R331). -/
def encode (s : BitVec 1) : Instr → IWord
  | .add d a b => s.setWidth 32 |> put 0x1#6 |> put d |> put a |> put b |> put 0x0#10
  | .sub d a b => s.setWidth 32 |> put 0x1#6 |> put d |> put a |> put b |> put 0x1#10
  | .and d a b => s.setWidth 32 |> put 0x1#6 |> put d |> put a |> put b |> put 0x2#10
  | .or d a b => s.setWidth 32 |> put 0x1#6 |> put d |> put a |> put b |> put 0x3#10
  | .xor d a b => s.setWidth 32 |> put 0x1#6 |> put d |> put a |> put b |> put 0x4#10
  | .shl d a b => s.setWidth 32 |> put 0x1#6 |> put d |> put a |> put b |> put 0x5#10
  | .shr d a b => s.setWidth 32 |> put 0x1#6 |> put d |> put a |> put b |> put 0x6#10
  | .sha d a b => s.setWidth 32 |> put 0x1#6 |> put d |> put a |> put b |> put 0x7#10
  | .slt d a b => s.setWidth 32 |> put 0x1#6 |> put d |> put a |> put b |> put 0x8#10
  | .sltN64 d a b => s.setWidth 32 |> put 0x1#6 |> put d |> put a |> put b |> put 0x9#10
  | .min d a b => s.setWidth 32 |> put 0x1#6 |> put d |> put a |> put b |> put 0xa#10
  | .minN64 d a b => s.setWidth 32 |> put 0x1#6 |> put d |> put a |> put b |> put 0xb#10
  | .max d a b => s.setWidth 32 |> put 0x1#6 |> put d |> put a |> put b |> put 0xc#10
  | .maxN64 d a b => s.setWidth 32 |> put 0x1#6 |> put d |> put a |> put b |> put 0xd#10
  | .sel d a b c => s.setWidth 32 |> put 0x1#6 |> put d |> put a |> put b |> put c |> put 0xe#5
  | .addi d a i => s.setWidth 32 |> put 0x2#6 |> put d |> put a |> put i
  | .andi d a i => s.setWidth 32 |> put 0x3#6 |> put d |> put a |> put i
  | .ori d a i => s.setWidth 32 |> put 0x4#6 |> put d |> put a |> put i
  | .xori d a i => s.setWidth 32 |> put 0x5#6 |> put d |> put a |> put i
  | .slti d a i => s.setWidth 32 |> put 0x6#6 |> put d |> put a |> put i
  | .shlImm d a n => s.setWidth 32 |> put 0x7#6 |> put d |> put a |> put 0x0#9 |> put n
  | .shrImm d a n => s.setWidth 32 |> put 0x7#6 |> put d |> put a |> put 0x80#9 |> put n
  | .shaImm d a n => s.setWidth 32 |> put 0x7#6 |> put d |> put a |> put 0x100#9 |> put n
  | .mul d a b => s.setWidth 32 |> put 0x8#6 |> put d |> put a |> put b |> put 0x0#10
  | .mulh d a b => s.setWidth 32 |> put 0x8#6 |> put d |> put a |> put b |> put 0x1#10
  | .mulhN64 d a b => s.setWidth 32 |> put 0x8#6 |> put d |> put a |> put b |> put 0x2#10
  | .div d a b => s.setWidth 32 |> put 0x8#6 |> put d |> put a |> put b |> put 0x3#10
  | .divN64 d a b => s.setWidth 32 |> put 0x8#6 |> put d |> put a |> put b |> put 0x4#10
  | .rem d a b => s.setWidth 32 |> put 0x8#6 |> put d |> put a |> put b |> put 0x5#10
  | .remN64 d a b => s.setWidth 32 |> put 0x8#6 |> put d |> put a |> put b |> put 0x6#10
  | .clz d a => s.setWidth 32 |> put 0x9#6 |> put d |> put a |> put 0x0#15
  | .popc d a => s.setWidth 32 |> put 0x9#6 |> put d |> put a |> put 0x2000#15
  | .ext d a p l => s.setWidth 32 |> put 0x9#6 |> put d |> put a |> put 0x4#3 |> put p |> put l
  | .extI64 d a p l => s.setWidth 32 |> put 0x9#6 |> put d |> put a |> put 0x5#3 |> put p |> put l
  | .ins d a p l => s.setWidth 32 |> put 0x9#6 |> put d |> put a |> put 0x6#3 |> put p |> put l
  | .lic d q i => s.setWidth 32 |> put 0xa#6 |> put d |> put 0x0#1 |> put q |> put 0x0#1 |> put i
  | .licZ d q i => s.setWidth 32 |> put 0xa#6 |> put d |> put 0x1#1 |> put q |> put 0x0#1 |> put i
  | .ldN d a z i => s.setWidth 32 |> put 0x10#6 |> put d |> put a |> put z |> put 0x0#2 |> put i
  | .ldI d a z i => s.setWidth 32 |> put 0x10#6 |> put d |> put a |> put z |> put 0x1#2 |> put i
  | .st t a z i => s.setWidth 32 |> put 0x11#6 |> put t |> put a |> put z |> put 0x0#2 |> put i
  | .lds d a i => s.setWidth 32 |> put 0x12#6 |> put d |> put a |> put 0xc#4 |> put i
  | .ldsC d a i => s.setWidth 32 |> put 0x12#6 |> put d |> put a |> put 0xd#4 |> put i
  | .stf t a i => s.setWidth 32 |> put 0x12#6 |> put t |> put a |> put 0xe#4 |> put i
  | .sete a i => s.setWidth 32 |> put 0x12#6 |> put 0x0#5 |> put a |> put 0xf#4 |> put i
  | .amoAdd d a z g i => s.setWidth 32 |> put 0x13#6 |> put d |> put a |> put z |> put g |> put 0x0#4 |> put i
  | .amoAnd d a z g i => s.setWidth 32 |> put 0x13#6 |> put d |> put a |> put z |> put g |> put 0x1#4 |> put i
  | .amoOr d a z g i => s.setWidth 32 |> put 0x13#6 |> put d |> put a |> put z |> put g |> put 0x2#4 |> put i
  | .amoXor d a z g i => s.setWidth 32 |> put 0x13#6 |> put d |> put a |> put z |> put g |> put 0x3#4 |> put i
  | .amoMin d a z g i => s.setWidth 32 |> put 0x13#6 |> put d |> put a |> put z |> put g |> put 0x4#4 |> put i
  | .amoMax d a z g i => s.setWidth 32 |> put 0x13#6 |> put d |> put a |> put z |> put g |> put 0x5#4 |> put i
  | .amoSwap d a z g i => s.setWidth 32 |> put 0x13#6 |> put d |> put a |> put z |> put g |> put 0x6#4 |> put i
  | .cas d a z g b => s.setWidth 32 |> put 0x13#6 |> put d |> put a |> put z |> put g |> put 0x7#4 |> put b |> put 0x0#3
  | .ldg v a o t => s.setWidth 32 |> put 0x14#6 |> put 0x0#1 |> put v |> put a |> put o |> put t |> put 0x0#10
  | .stg v a => s.setWidth 32 |> put 0x14#6 |> put 0x1#1 |> put v |> put a |> put 0x0#15
  | .fence k c => s.setWidth 32 |> put 0x15#6 |> put 0x0#1 |> put k |> put c |> put 0x0#19
  | .pref c a i => s.setWidth 32 |> put 0x15#6 |> put 0x1#1 |> put c |> put 0x0#2 |> put a |> put 0x0#4 |> put i
  | .vld v a m i => s.setWidth 32 |> put 0x16#6 |> put v |> put a |> put 0x0#1 |> put m |> put i
  | .vst v a m i => s.setWidth 32 |> put 0x16#6 |> put v |> put a |> put 0x1#1 |> put m |> put i
  | .vgath v a x m h => s.setWidth 32 |> put 0x17#6 |> put v |> put a |> put x |> put 0x0#1 |> put m |> put h |> put 0x0#6
  | .vscat v a x m h => s.setWidth 32 |> put 0x17#6 |> put v |> put a |> put x |> put 0x1#1 |> put m |> put h |> put 0x0#6
  | .beq a b f => s.setWidth 32 |> put 0x18#6 |> put a |> put b |> put f
  | .bne a b f => s.setWidth 32 |> put 0x19#6 |> put a |> put b |> put f
  | .blt a b f => s.setWidth 32 |> put 0x1a#6 |> put a |> put b |> put f
  | .bge a b f => s.setWidth 32 |> put 0x1b#6 |> put a |> put b |> put f
  | .blo a b f => s.setWidth 32 |> put 0x1c#6 |> put a |> put b |> put f
  | .bhs a b f => s.setWidth 32 |> put 0x1d#6 |> put a |> put b |> put f
  | .bma m f => s.setWidth 32 |> put 0x1e#6 |> put 0x0#1 |> put m |> put 0x0#6 |> put f
  | .bmn m f => s.setWidth 32 |> put 0x1e#6 |> put 0x1#1 |> put m |> put 0x0#6 |> put f
  | .jal d f => s.setWidth 32 |> put 0x1f#6 |> put d |> put f
  | .jalr d a i => s.setWidth 32 |> put 0x20#6 |> put d |> put a |> put i
  | .fadd d a b t => s.setWidth 32 |> put 0x21#6 |> put d |> put a |> put b |> put 0x0#4 |> put t |> put 0x0#3
  | .fsub d a b t => s.setWidth 32 |> put 0x21#6 |> put d |> put a |> put b |> put 0x1#4 |> put t |> put 0x0#3
  | .fmul d a b t => s.setWidth 32 |> put 0x21#6 |> put d |> put a |> put b |> put 0x2#4 |> put t |> put 0x0#3
  | .fdiv d a b t => s.setWidth 32 |> put 0x21#6 |> put d |> put a |> put b |> put 0x3#4 |> put t |> put 0x0#3
  | .fsqrt d a t => s.setWidth 32 |> put 0x21#6 |> put d |> put a |> put 0x4#9 |> put t |> put 0x0#3
  | .fmin d a b t => s.setWidth 32 |> put 0x21#6 |> put d |> put a |> put b |> put 0x5#4 |> put t |> put 0x0#3
  | .fmax d a b t => s.setWidth 32 |> put 0x21#6 |> put d |> put a |> put b |> put 0x6#4 |> put t |> put 0x0#3
  | .fcmp d a b t c => s.setWidth 32 |> put 0x21#6 |> put d |> put a |> put b |> put 0x7#4 |> put t |> put c
  | .fcvt d a x y => s.setWidth 32 |> put 0x21#6 |> put d |> put a |> put 0x8#9 |> put x |> put y
  | .ffma d a b c t => s.setWidth 32 |> put 0x22#6 |> put d |> put a |> put b |> put c |> put t |> put 0x0#2
  | .vaddInt d a b m t => s.setWidth 32 |> put 0x23#6 |> put d |> put a |> put b |> put 0x0#4 |> put m |> put 0x0#3 |> put t
  | .vsubInt d a b m t => s.setWidth 32 |> put 0x23#6 |> put d |> put a |> put b |> put 0x0#4 |> put m |> put 0x1#3 |> put t
  | .vmulInt d a b m t => s.setWidth 32 |> put 0x23#6 |> put d |> put a |> put b |> put 0x0#4 |> put m |> put 0x2#3 |> put t
  | .vminInt d a b m t => s.setWidth 32 |> put 0x23#6 |> put d |> put a |> put b |> put 0x0#4 |> put m |> put 0x3#3 |> put t
  | .vmaxInt d a b m t => s.setWidth 32 |> put 0x23#6 |> put d |> put a |> put b |> put 0x0#4 |> put m |> put 0x4#3 |> put t
  | .vshl d a b m t => s.setWidth 32 |> put 0x23#6 |> put d |> put a |> put b |> put 0x0#4 |> put m |> put 0x5#3 |> put t
  | .vshr d a b m t => s.setWidth 32 |> put 0x23#6 |> put d |> put a |> put b |> put 0x0#4 |> put m |> put 0x6#3 |> put t
  | .vcmpInt d a b c m t => s.setWidth 32 |> put 0x23#6 |> put 0x0#1 |> put d |> put a |> put b |> put c |> put m |> put 0x7#3 |> put t
  | .vaddFloat d a b m t => s.setWidth 32 |> put 0x24#6 |> put d |> put a |> put b |> put 0x0#4 |> put m |> put 0x0#3 |> put t
  | .vsubFloat d a b m t => s.setWidth 32 |> put 0x24#6 |> put d |> put a |> put b |> put 0x0#4 |> put m |> put 0x1#3 |> put t
  | .vmulFloat d a b m t => s.setWidth 32 |> put 0x24#6 |> put d |> put a |> put b |> put 0x0#4 |> put m |> put 0x2#3 |> put t
  | .vminFloat d a b m t => s.setWidth 32 |> put 0x24#6 |> put d |> put a |> put b |> put 0x0#4 |> put m |> put 0x3#3 |> put t
  | .vmaxFloat d a b m t => s.setWidth 32 |> put 0x24#6 |> put d |> put a |> put b |> put 0x0#4 |> put m |> put 0x4#3 |> put t
  | .vcmpFloat d a b c m t => s.setWidth 32 |> put 0x24#6 |> put 0x0#1 |> put d |> put a |> put b |> put c |> put m |> put 0x5#3 |> put t
  | .vfma d a b c m t => s.setWidth 32 |> put 0x25#6 |> put d |> put a |> put b |> put c |> put m |> put 0x0#3 |> put t
  | .vand d a b m => s.setWidth 32 |> put 0x26#6 |> put d |> put a |> put b |> put 0x0#4 |> put m |> put 0x0#6
  | .vor d a b m => s.setWidth 32 |> put 0x26#6 |> put d |> put a |> put b |> put 0x0#4 |> put m |> put 0x1#6
  | .vxor d a b m => s.setWidth 32 |> put 0x26#6 |> put d |> put a |> put b |> put 0x0#4 |> put m |> put 0x2#6
  | .vsel d a b m => s.setWidth 32 |> put 0x26#6 |> put d |> put a |> put b |> put 0x0#4 |> put m |> put 0x3#6
  | .vperm d a b m => s.setWidth 32 |> put 0x26#6 |> put d |> put a |> put b |> put 0x0#4 |> put m |> put 0x4#6
  | .vbcast d a m => s.setWidth 32 |> put 0x26#6 |> put d |> put a |> put 0x0#7 |> put m |> put 0x5#6
  | .vextN32 d v l => s.setWidth 32 |> put 0x26#6 |> put d |> put v |> put l |> put 0x6#12
  | .vextI32 d v l => s.setWidth 32 |> put 0x26#6 |> put d |> put v |> put l |> put 0x7#12
  | .vins a d l => s.setWidth 32 |> put 0x26#6 |> put a |> put d |> put l |> put 0x8#12
  | .vcvt d a x y m => s.setWidth 32 |> put 0x26#6 |> put d |> put a |> put x |> put y |> put m |> put 0x9#6
  | .vred d a t m o => s.setWidth 32 |> put 0x27#6 |> put d |> put a |> put 0x0#4 |> put t |> put m |> put 0x0#2 |> put o
  | .vscan d a t m o => s.setWidth 32 |> put 0x27#6 |> put d |> put a |> put 0x0#4 |> put t |> put m |> put 0x1#2 |> put o
  | .vdot d a b c m t => s.setWidth 32 |> put 0x27#6 |> put d |> put a |> put b |> put c |> put m |> put 0x2#2 |> put t
  | .vsf d a m f => s.setWidth 32 |> put 0x27#6 |> put d |> put a |> put 0x0#8 |> put m |> put 0x3#2 |> put f
  | .mand d a b => s.setWidth 32 |> put 0x28#6 |> put 0x0#3 |> put d |> put a |> put b |> put 0x0#13
  | .mor d a b => s.setWidth 32 |> put 0x28#6 |> put 0x1#3 |> put d |> put a |> put b |> put 0x0#13
  | .mxor d a b => s.setWidth 32 |> put 0x28#6 |> put 0x2#3 |> put d |> put a |> put b |> put 0x0#13
  | .mnot d a => s.setWidth 32 |> put 0x28#6 |> put 0x3#3 |> put d |> put a |> put 0x0#16
  | .mcnt d a => s.setWidth 32 |> put 0x28#6 |> put 0x4#3 |> put d |> put a |> put 0x0#14
  | .mmovw d a => s.setWidth 32 |> put 0x28#6 |> put 0x5#3 |> put d |> put a |> put 0x0#14
  | .mmovwW d a => s.setWidth 32 |> put 0x28#6 |> put 0x6#3 |> put d |> put a |> put 0x0#14
  | .sbind p h => s.setWidth 32 |> put 0x29#6 |> put 0x0#1 |> put p |> put h |> put 0x0#20
  | .srel p => s.setWidth 32 |> put 0x29#6 |> put 0x1#1 |> put p |> put 0x0#22
  | .send o t a v => s.setWidth 32 |> put 0x2a#6 |> put 0x0#1 |> put o |> put 0x0#1 |> put t |> put a |> put v |> put 0x0#7
  | .sendBuf o t a b => s.setWidth 32 |> put 0x2a#6 |> put 0x0#1 |> put o |> put 0x1#1 |> put t |> put a |> put b |> put 0x0#6
  | .reply o t a v => s.setWidth 32 |> put 0x2a#6 |> put 0x1#1 |> put o |> put 0x0#1 |> put t |> put a |> put v |> put 0x0#7
  | .replyBuf o t a b => s.setWidth 32 |> put 0x2a#6 |> put 0x1#1 |> put o |> put 0x1#1 |> put t |> put a |> put b |> put 0x0#6
  | .post t a b => s.setWidth 32 |> put 0x2b#6 |> put 0x0#4 |> put t |> put a |> put b |> put 0x0#6
  | .chbind c k l p => s.setWidth 32 |> put 0x2b#6 |> put 0x1#2 |> put c |> put k |> put l |> put p |> put 0x0#13
  | .qcnt d c => s.setWidth 32 |> put 0x2b#6 |> put 0x2#2 |> put d |> put c |> put 0x0#15
  | .capt k b n o f => s.setWidth 32 |> put 0x2c#6 |> put k |> put b |> put n |> put o |> put f
  | .captr k b n o f => s.setWidth 32 |> put 0x2d#6 |> put k |> put b |> put n |> put o |> put f
  | .apply k a => s.setWidth 32 |> put 0x2e#6 |> put 0x0#3 |> put k |> put a |> put 0x0#14
  | .applyTail k a => s.setWidth 32 |> put 0x2e#6 |> put 0x0#3 |> put k |> put a |> put 0x2000#14
  | .applyv v m => s.setWidth 32 |> put 0x2e#6 |> put 0x1#3 |> put v |> put m |> put 0x0#15
  | .spawn k a => s.setWidth 32 |> put 0x2e#6 |> put 0x2#3 |> put k |> put a |> put 0x0#14
  | .dupk k => s.setWidth 32 |> put 0x2e#6 |> put 0x3#3 |> put k |> put 0x0#19
  | .dropk k => s.setWidth 32 |> put 0x2e#6 |> put 0x4#3 |> put k |> put 0x0#19
  | .movk k w => s.setWidth 32 |> put 0x2e#6 |> put 0xa#4 |> put k |> put w |> put 0x0#13
  | .movkW k w => s.setWidth 32 |> put 0x2e#6 |> put 0xb#4 |> put k |> put w |> put 0x0#13
  | .kinfo k d => s.setWidth 32 |> put 0x2e#6 |> put 0x6#3 |> put k |> put d |> put 0x0#14
  | .await k a => s.setWidth 32 |> put 0x2f#6 |> put 0x0#2 |> put k |> put a |> put 0x0#15
  | .awaitv v a b m => s.setWidth 32 |> put 0x2f#6 |> put 0x1#2 |> put v |> put a |> put b |> put m |> put 0x0#7
  | .bprobe d a => s.setWidth 32 |> put 0x2f#6 |> put 0x2#2 |> put d |> put a |> put 0x0#13
  | .endTask => s.setWidth 32 |> put 0x30#6 |> put 0x0#25
  | .start k a => s.setWidth 32 |> put 0x30#6 |> put 0x1#3 |> put k |> put a |> put 0x0#14
  | .arrive a => s.setWidth 32 |> put 0x30#6 |> put 0x2#3 |> put a |> put 0x0#17
  | .bara d c => s.setWidth 32 |> put 0x30#6 |> put 0x3#3 |> put d |> put c |> put 0x0#14
  | .barw a => s.setWidth 32 |> put 0x30#6 |> put 0x4#3 |> put a |> put 0x0#17
  | .maskw n => s.setWidth 32 |> put 0x30#6 |> put 0x5#3 |> put n |> put 0x0#16
  | .efork j c m => s.setWidth 32 |> put 0x31#6 |> put 0x0#3 |> put j |> put c |> put m |> put 0x0#7
  | .cpy t a b => s.setWidth 32 |> put 0x31#6 |> put 0x1#3 |> put t |> put a |> put b |> put 0x0#13
  | .mlease t => s.setWidth 32 |> put 0x31#6 |> put 0x2#3 |> put t |> put 0x0#17
  | .mrel => s.setWidth 32 |> put 0x31#6 |> put 0xc00000#25
  | .ecan a => s.setWidth 32 |> put 0x31#6 |> put 0x4#3 |> put a |> put 0x0#17
  | .eres a => s.setWidth 32 |> put 0x31#6 |> put 0x5#3 |> put a |> put 0x0#17
  | .csrd d i => s.setWidth 32 |> put 0x32#6 |> put 0x0#3 |> put d |> put i |> put 0x0#5
  | .cswr a i => s.setWidth 32 |> put 0x32#6 |> put 0x1#3 |> put a |> put i |> put 0x0#5
  | .trap c => s.setWidth 32 |> put 0x32#6 |> put 0x80#9 |> put c
  | .trapBrk c => s.setWidth 32 |> put 0x32#6 |> put 0xa0#9 |> put c
  | .rte => s.setWidth 32 |> put 0x32#6 |> put 0xc00000#25
  | .migr t a => s.setWidth 32 |> put 0x32#6 |> put 0x4#3 |> put t |> put a |> put 0x0#12
  | .fqpop v => s.setWidth 32 |> put 0x32#6 |> put 0x5#3 |> put v |> put 0x0#18
  | .resume a => s.setWidth 32 |> put 0x32#6 |> put 0x6#3 |> put a |> put 0x0#17
  | .tlbinv a => s.setWidth 32 |> put 0x32#6 |> put 0x7#3 |> put a |> put 0x0#17
  | .tlbinvAll a => s.setWidth 32 |> put 0x32#6 |> put 0x7#3 |> put a |> put 0x8000#17
  | .xcpy _ _ => 0
  | .xgath _ _ => 0
  | .mzero _ => 0
  | .mma _ => 0
  | .mstore _ => 0
  | .wload _ => 0
  | .esig _ _ => 0
  | .sequenceEnd _ _ => 0
  | .wpWrite _ => 0
  | .carveWrite _ => 0
  | .bankfmtWrite _ _ => 0
  | .envcfgWrite _ => 0
  | .wspoolWrite _ => 0
  | .chcfgWrite _ _ => 0
  | .fpmodeWrite _ => 0
  | .fpflagsWrite _ => 0
  | .foldstatWrite _ => 0
  | .stealdomWrite _ => 0
  | .brcfgWrite _ => 0
  | .partcfgWrite _ => 0
  | .launchDoorbell _ _ _ => 0
  | .doorbellClear _ _ _ => 0
  | .launchRecord _ _ => 0
  | .launchTargetRetry _ _ => 0
  | .watchdogPreempt _ _ => 0
  | .watchdogKill _ _ => 0
  | .watchdogFence _ _ => 0
  | .taskOverrun _ _ => 0
  | .deferredTaskOverrun _ _ => 0
  | .dispatch _ => 0
  | .level1TaskStart _ => 0
  | .stealRequest _ => 0
  | .stealGrant _ _ => 0
  | .stealWaitExpiry _ => 0
  | .lateResult _ => 0
  | .acknowledgement _ => 0
  | .memoryRequest _ _ => 0
  | .remapReply _ => 0
  | .handlerArrival _ _ => 0
  | .matchedArrival _ _ => 0
  | .replyArrival _ _ => 0
  | .sendStatus _ => 0
  | .applyMessage _ _ => 0
  | .handleRequest _ _ => 0
  | .handleReply _ => 0
  | .packetArrival _ _ => 0
  | .nackResend _ => 0
  | .e2eTimerExpiry _ => 0
  | .goldenPeriod => 0
  | .holdNotice _ => 0
  | .goldenTimeout _ => 0
  | .linkDown _ _ _ => 0
  | .wcDrain _ => 0
  | .parkRequest _ _ => 0
  | .blockProbe _ _ => 0
  | .stage _ _ => 0
  | .stageComplete _ _ => 0
  | .wake _ => 0
  | .wakeArrival _ _ => 0
  | .unpin _ _ => 0
  | .lingerExpiry _ _ => 0
  | .writebackComplete _ _ _ => 0
  | .ageUnit _ _ => 0
  | .brumWaitTimeout _ _ _ => 0
  | .waiterReport _ _ => 0
  | .foldResult _ => 0
  | .foldTreeTimeout _ => 0
  | .phaseComplete _ _ => 0
  | .leaseGrant _ => 0
  | .leaseExpiry _ => 0
  | .subarrayGate _ _ => 0
  | .isobarTick _ => 0
  | .collectiveAnnouncement _ _ _ => 0
  | .collectiveApplyTick => 0
  | .forwardExpiry _ _ => 0
  | .migrationComplete _ => 0
  | .hostMemoryAccess _ => 0
  | .powerOn => 0
  | .flr _ => 0
  | .resync _ _ => 0
  | .partConfig _ _ _ _ => 0
  | .partReset _ => 0
  | .foldConfig _ _ => 0
  | .sliceRetire _ _ _ => 0
  | .ctxSave _ _ => 0
  | .contextSwitchSave _ => 0
  | .ctxRestore _ _ => 0
  | .chanReopen _ _ _ => 0
  | .powerLimit _ _ => 0
  | .collective _ _ _ _ _ => 0
  | .corePowerOff _ _ => 0
  | .corePowerOn _ _ => 0
  | .fwLoad _ _ _ _ => 0
  | .fetchFault _ _ => 0
  | .illegalEncoding _ => 0
  | .scopeDValueTaken _ _ => 0
  | .spdmRequest _ => 0
  | .retiredLineWriteback _ _ => 0

end Sys2Proof
end

