-- ==== Sys2Proof/Config.lean ====
section
/-!
DEFINITION. What the manual leaves open, as constants with no body (nothing can be proved of their values), and the
turns by which the model's agents move.
-/
namespace Sys2Proof

/-- One turn of the model. The manual orders the device's agents only through the homes and pair channels (R113,
R152); which agent moves next, and when the outside world acts, is otherwise open. A turn is one clock period of one
core (R68), one operation of another agent, the passing of time on TIMEBASE (R442) or on an array's clock (R5), the
departure of a cached copy (R141, R146), a fault of a storage cell (R137, R144), a published value reaching one of its
holders (R147, R421), the outside world at work on its own memory (R143, R167) or on BAR 0 (R274), or the management
rings at work (R270). (log 2, DESIGN CHOICE; log 3, DESIGN CHOICE) -/
inductive Turn where
  /-- One core clock period of a core (R5, R68). -/
  | cycle (core : Nat)
  /-- One operation of an agent other than a context's issue. -/
  | event (e : Instr)
  /-- `ns` nanoseconds pass (R442), up to the next tick at which the power tree must act (R262, R268). -/
  | elapse (ns : Nat)
  /-- A member's least duty and clock reach the leader of its collective (R268). -/
  | report (peer duty clock : Nat)
  /-- Entry `n` of a core's L1, TLB, instruction cache or of its cluster's TLB is replaced (R141, R145, R146). -/
  | evictL1 (core n : Nat)
  | evictTlb (core n : Nat)
  | evictClusterTlb (cluster n : Nat)
  | evictIcache (core n : Nat)
  /-- `n` periods of the clock of a cluster's array pass (R5, R238). -/
  | arrayCycles (cluster n : Nat)
  /-- The 128-byte line holding a physical address becomes uncorrectable in HBM, in a dirty L2 line, or in the frame of a
  staged parkable block (R144). -/
  | spoilHbm (pa : Nat)
  | spoilL2 (pa : Nat)
  | spoilFrame (pa : Nat)
  /-- The host or a peer returns a line of its memory poisoned (R144). -/
  | farPoison (pa : Nat)
  /-- The host or a peer writes bytes of its own memory (R143, R167). -/
  | farWrite (pa : Nat) (bytes : List Byte)
  /-- The oldest PEER store that a slice holds is performed at the peer's home; a slice's copy of a PEER line is replaced
  (R167). -/
  | peerPerform (slice : Nat)
  | dropCopy (slice line : Nat)
  /-- A holder, by endpoint number, takes a die's newest slice map (R147, R148). -/
  | takeMap (unit die : Nat)
  /-- A TLB or launcher of the partition performs and acknowledges an invalidation (R421). -/
  | invalidate (id unit : Nat)
  /-- The scratchpad word at a core-global address becomes uncorrectable, or an L1 line does (R137). -/
  | spoilWord (key : Nat)
  | spoilL1 (core n : Nat)
  /-- A read in a bank of a core has one symbol in error, which is corrected (R137). -/
  | correct (core bank : Nat)
  /-- The streamer copies the next `n` words of a core's oldest migration (R390). -/
  | copyWords (core n : Nat)
  /-- A core's oldest store to its own window that is not yet performed is performed (R150, R153). -/
  | performStore (core : Nat)
  /-- A pending MSI-X vector that its table entry does not mask is signalled; the host writes a word of the table (R274). -/
  | interrupt (part vector : Nat)
  | msixWrite (part word : Nat) (value : BitVec 64)
  /-- The host writes the base and the tail of a partition's host ring in BAR 0 (R270, R274). -/
  | hostRing (part : Nat) (base : BitVec 64) (tail : Nat)
  /-- The management controller serves the next record of a partition's rings (R270). -/
  | manage (part : Nat)
deriving DecidableEq, Repr, Inhabited

/-- The free schedule: what moves next when the state's agenda names no turn (R113, R152: not architected).
(log 2, DESIGN CHOICE) -/
opaque Config.nextTurn : Nat → Turn

/-- The bits VSF returns where the table of R437 gives no exact result: a fixed function of the function code and the
input (R437). (log 6, DESIGN CHOICE; log 53, DESIGN CHOICE) -/
opaque Config.vsf : BitVec 4 → BitVec 32 → BitVec 32

/-- STEPPING and FWIF of CAPS0, each less one: fixed by the silicon and the firmware image, nonzero (R443).
(log 6, DESIGN CHOICE) -/
opaque Config.steppingPred : Fin 255
/-- FWIF less one, by the image running. (log 6, DESIGN CHOICE) -/
opaque Config.fwifPred : Option (List Byte) → Fin 65535

/-- Whether the signature of an image verifies against the fused digest, and the fused security version (R280).
(log 6, DESIGN CHOICE; log 24, DESIGN CHOICE) -/
opaque Config.imageSigned : Option (List Byte) → Bool
/-- The fused security version. (log 6, DESIGN CHOICE; log 24, DESIGN CHOICE) -/
opaque Config.fusedVersion : BitVec 16

/-- The largest count that the members of a COLLECTIVE record report. (log 23, DESIGN CHOICE) -/
opaque Config.largestCount : Nat → Nat

/-- The firmware and security versions a RESYNC summary gives (R280, R282): set by the image running. (log 6, DESIGN CHOICE) -/
opaque Config.firmwareVersion : Option (List Byte) → BitVec 32
/-- The security version. (log 6, DESIGN CHOICE) -/
opaque Config.securityVersion : Option (List Byte) → BitVec 16

/-- Whether an image is run: its signature verifies and its security version is not below the fused one (R280).
(log 24, DESIGN CHOICE) -/
def imageRuns (image : Option (List Byte)) : Bool := Config.imageSigned image && decide (Config.fusedVersion ≤ Config.securityVersion image)

/-- The band scale of row group `n` of a QB4 tensor in GV memory, which has no bank tail to hold one (R135, R223): the
manual places none. (log 6, DESIGN CHOICE; log 46, DEDUCED) -/
opaque Config.gvBand : Nat → BitVec 16

/-- Whether a CSRD of FDUTY in the cycle of a change sees the new value (R263, R361).
(log 6, DESIGN CHOICE; log 13, DESIGN CHOICE) -/
opaque Config.seesNewDuty : Nat → Bool

/-- Words whose value the manual does not state, drawn in order. (log 6, DESIGN CHOICE) -/
opaque Config.freeWord : Nat → BitVec 64

/-- The answer to an SPDM request (R281): certificates, measurements or signatures, which the manual does not give.
(log 6, DESIGN CHOICE; log 52, DESIGN CHOICE) -/
opaque Config.spdmAnswer : List Byte → List Byte

end Sys2Proof
end

