-- ==== Sys2Proof/Machine/State.lean ====
section
/-!
DEFINITION. The state of the NK30: everything the manual gives the device, as plain data, and its value at power-on.
Units that exist in large numbers (cores, contexts, slices, dies) are held in tables that list only the units whose
state differs from its reset value.
-/
namespace Sys2Proof.Machine

/-- Why the machine stops with a fault. -/
inductive Fault where
  /-- Never raised: R248, R253 and R254 give every fault an effect, which the model takes. Safe. -/
  | machineCheck
deriving DecidableEq, Repr

/-- Why the model refuses to step. -/
inductive Refusal where
  /-- Raised by an arm of `exec` whose instruction has no meaning yet. Safe: the model stops. -/
  | notModelled (mnemonic : String)
deriving DecidableEq, Repr

/-- A table: entries by rising key; a key that is not listed has the table's default. -/
abbrev Table (α : Type) := List (Nat × α)

/-- The state of a stream port (R408): unbound, bound to a copied 48-byte record (six words) with `next` elements
already popped or pushed, or (v15 only) bound to an arrival's payload (R187). -/
inductive Port where
  | unbound
  | stream (record : List Word) (write : Bool) (next : Nat)
  | payload (bytes : List Byte)
deriving DecidableEq, Repr, Inhabited

/-- The three argument words of an application (R100). -/
structure Args where
  w1 : Word
  w2 : Word
  w3 : Word
deriving DecidableEq, Repr, Inhabited

/-- What an instruction on a parkable page has changed that its precise fault takes back (R333): the context's stream ports
and the images that its pops wrote (key, word, full); empty lists where it used no bound port. -/
structure Undo where
  ports : List Port := []
  images : List (Nat × Word × Bool) := []
deriving DecidableEq, Repr, Inhabited

/-- What a context whose instruction has left the core does when the reply returns (R67). -/
inductive Cont where
  /-- DUPK, DROPK: the instruction is complete, or traps with the reply's cause (R365). -/
  | counted
  /-- SPAWN: push the entry at the newest end (R414). -/
  | spawn (h : Handle) (args : Args)
  /-- START: dispatch into the reserved helper and frame (R417). -/
  | start (h : Handle) (args : Args) (helper frame : Nat)
  /-- CHBIND: bind the channel (R191). -/
  | bind (ch : Nat) (h : Handle) (level : Bool) (prio : Nat)
  /-- AWAIT, AWAITV: lanes whose application is still to be taken at its home, then the park requests of `all`; each
  lane is (lane, handle, address, block base, block size, slice) (R118, R119). -/
  | take (lane : Bool) (todo all : List (Nat × Handle × Word × Nat × Nat × Nat))
  | park (lane : Bool) (todo : List (Nat × Handle × Word × Nat × Nat × Nat)) (parked : Bool)
  /-- ECAN: until the sequence that the ticket names has ended (R367). -/
  | cancelled (ticket : Nat)
  /-- TLBINV: the acknowledgements of invalidation `id` (R421). -/
  | inval (id : Nat)
  /-- EFORK: lists checked so far; the privilege reply of a remote ESIG handle is awaited (R229). -/
  | efork (j : Nat) (copy mtx : Word) (rest : List Handle)
  /-- SEND.s, REPLY.s: the token word is awaited (R183). -/
  | message (token : Nat) (desc : Word)
  /-- LDG.t: the result `id` is awaited (R197). -/
  | fold (id : Nat) (fa : Word)
  /-- A load, store or atomic on a parkable page (R333): the late result or packet `id`, the address and lane of a
  store in flight, the lanes of a VSCAT still to send (lane, address, value, home, key, parkable page), and what its fault
  takes back. -/
  | access (id : Nat) (addr : Word) (lane : Option Nat) (todo : List (Nat × Word × Nat × Nat × Nat × Bool)) (undo : Undo)
  /-- APPLYV: active lanes whose messages still wait for a send-queue entry (R340). -/
  | lanes (todo : List (Handle × Args))
deriving DecidableEq, Repr, Inhabited

/-- Why a live context does not issue (R61, R66, R67). -/
inductive Wait where
  | none
  /-- A switch marker, written or implicit: until no late result is outstanding (R69). -/
  | marker
  /-- A fence, or the fence within BARA or BARW, before it issues; `sys`: of system scope (R156). -/
  | fence (acq rel sys : Bool)
  /-- A free slot of the send queue or of the sequencers named (R339, R229). -/
  | sendSlot
  /-- `counted`: the instruction has been counted in its masked window already (R74). -/
  | seqSlot (copy mtx counted : Bool)
  /-- BARW: phase `p` incomplete (R87). -/
  | barrier (p : Nat)
  /-- The walk for an address, which reads an entry held at its home (R138, R269). -/
  | walk (va : Word)
  /-- LDS: its late result is awaited (R160). -/
  | sync (id : Nat)
  /-- The FE words of a stream pop (R409). -/
  | stream (word : Nat)
  /-- A reply (R67): the instruction's address and what happens next. -/
  | reply (pc : Word) (k : Cont)
deriving DecidableEq, Repr, Inhabited

/-- A context (R59 to R61) and its scope-C registers (R24). `task` names the task it runs; the control context is
task 0 of its core. (log 4, DESIGN CHOICE; log 42, DEDUCED) -/
structure Ctx where
  live : Bool := false
  task : Nat := 0
  rt : Bool := false
  trapped : Bool := false
  wait : Wait := .none
  wp : Nat := 0
  pc : Word := 0
  /-- Address of the instruction issued last (R250). -/
  last : Word := 0
  cause : Word := 0
  badaddr : Word := 0
  brsrc : Word := 0
  trappc : Word := 0
  fpmode : Word := 0
  fpflags : BitVec 5 := 0
  policy : Word := 0xFFFF
  foldstat : Word := 0
  /-- The stochastic generator (R213). -/
  gen : BitVec 32 := 0x9E3779B9
  /-- Instructions of an open masked window still to come; 0: closed (R74). -/
  window : Nat := 0
  /-- The hardware link and mask stacks, newest first (R251). -/
  links : List Word := []
  masks : List (BitVec 16) := []
  ports : List Port := [.unbound, .unbound, .unbound, .unbound]
  /-- TASKLIM count, whether its trap was taken, and whether it is deferred (R65, R66). -/
  count : Nat := 0
  overran : Bool := false
  deferred : Bool := false
  /-- Queue tag (R245), dispatch time (R246), pin held as (slice, block base) (R125), channel slot held (R187). -/
  tag : Option Nat := none
  since : Nat := 0
  pin : Option (Nat × Nat) := none
  slot : Option Nat := none
deriving DecidableEq, Repr, Inhabited

/-- A held task (R253): its ticket, the die that gave it, and its context; `resumed`: at dispatch source 0 (R76). -/
structure Hold where
  ticket : Nat
  ctx : Ctx
deriving DecidableEq, Repr, Inhabited

/-- A deque, wake or channel entry: a handle, its arguments, the tag (R79, R245), and for a wake the pin and the time of
its waiter with its place in the order of enqueueing (R124, R257). -/
structure Entry where
  h : Handle
  args : Args
  tag : Option Nat := none
  pin : Option (Nat × Nat) := none
  since : Nat := 0
  order : Nat := 0
  payload : List Byte := []
  /-- The request whose reply tells whether a channel arrival's application succeeds at another core (R101); 0: none. -/
  check : Nat := 0
deriving DecidableEq, Repr, Inhabited

/-- A posted receive (R190): the match descriptor and buffer address, and its token word. -/
structure Post where
  desc : Word
  buf : Nat
  token : Nat
deriving DecidableEq, Repr, Inhabited

/-- A message as its channel receives it (R182, R245). -/
structure Msg where
  src : Nat
  tag : Nat
  chan : Nat
  len : Nat
  payload : List Byte
  qtag : Option Nat := none
  rt : Bool := false
deriving DecidableEq, Repr, Inhabited

/-- A channel (R184, R187, R188). `cfg` is CHCFG with BOUND; `held` are accepted handler arrivals not yet dispatched;
`running` counts those whose handler task runs. -/
structure Channel where
  cfg : Word := 0
  bound : Handle := 0
  held : List Entry := []
  running : Nat := 0
  posts : List Post := []
  overflow : List Msg := []
deriving DecidableEq, Repr, Inhabited

/-- A forwarding entry (R260): `life` in nanoseconds, and the time of the last request it forwarded. -/
structure Forward where
  dest : Nat
  extents : List (Nat × Nat)
  env0 : Nat
  envn : Nat
  chmask : Nat
  life : Nat
  used : Nat
deriving DecidableEq, Repr, Inhabited

/-- A migration under way (R258, R259): the forwarding entry it will install, whether the team slot moves, the token, and how
far the copy has come (R390). (log 21, DEDUCED) -/
structure Migration where
  fwd : Forward
  team : Bool
  token : Nat
  /-- Words of the extents copied so far. -/
  copied : Nat := 0
  /-- Once the entry is installed, the requests held until then, which are still to be performed at DEST. -/
  held : Option (List Nat) := none
deriving DecidableEq, Repr, Inhabited

/-- A line in an L1 (R145, R146): physical line number, data, replacement class 0 stream, 1 normal, 2 keep, and
whether its page has RD = 1, W = 0, X = 0. -/
structure Line where
  line : Nat
  data : List Byte
  cls : Nat
  readOnly : Bool
deriving DecidableEq, Repr, Inhabited

/-- A write-combining entry (R145): the line, the address and the instruction of the store that allocated it, the bytes
written (offset, byte), the tasks and contexts that wrote, and the cycle of allocation. (log 11, DESIGN CHOICE) -/
structure Combine where
  line : Nat
  va : Word
  bytes : List (Nat × Byte)
  tasks : List Nat
  ctxs : List Nat
  since : Nat
  pc : Word := 0
deriving DecidableEq, Repr, Inhabited

/-- A translation leaf (R139, R141): virtual base, page size, and the entry. -/
structure Leaf where
  va : Nat
  size : Nat
  pte : Word
deriving DecidableEq, Repr, Inhabited

/-- A request of a sequence for element `elem`, a read of `n` bytes or the write of a word of a parkable page: the address, its
packet, and the answer, once it has come (R152, R239). (log 62, DEDUCED) -/
structure Fetched where
  elem : Nat := 0
  addr : Word
  n : Nat
  write : Bool
  id : Nat
  value : Option Nat := none
  failed : Option Cause := none
deriving DecidableEq, Repr, Inhabited

/-- A sequence of a sequencer (R229, R239). `list` is the LW address of the record reached, or none for CPY with its
two records in `recs`, which for a list holds the shape records of the running command; `join` is the key of the join
word; `done` counts destination elements written. `cmd` is the command record as read at the command's start (R330),
`index` the index elements read that are still in use, with their values (R440), `id` names the sequence in its packets,
`reads` are the requests whose answers the elements under way need, `cancel` tells that it ends with its command (R367), `pend`
is the late result of its join word, and `bad` what the checks of R224 found for its matrix command at the command's start.
(log 27, DEDUCED) -/
structure Seq where
  id : Nat := 0
  slot : Nat
  core : Nat
  task : Nat
  pc : Word
  list : Option Nat
  recs : List Word
  join : Nat
  rt : Bool
  tag : Option Nat
  rm : Nat
  sat : Bool
  gen : BitVec 32
  started : Bool := false
  counted : Bool := false
  done : Nat := 0
  cmd : Option Nat := none
  index : List (Nat × Nat) := []
  stopped : Option Cause := none
  reads : List Fetched := []
  cancel : Bool := false
  pend : Nat := 0
  bad : Option Cause := none
deriving DecidableEq, Repr, Inhabited

/-- A holder's copy of a die's slice map, with its generation (R147). -/
structure MapCopy where
  gen : Nat := 0
  map : List Nat := List.range 32
deriving DecidableEq, Repr, Inhabited

/-- A core (R12) and its scope-K registers (R24). (log 4, DESIGN CHOICE; log 37, DEDUCED) -/
structure Core where
  tasklim : Word := 0x01000000
  cycles : Nat := 0
  teamid : Word := 0
  stealdom : Nat := 1
  carve : Nat := 3
  envcfg : Word := 0x0000080000010000
  wspool : Word := 0x0000002000000000
  mxgate : Word := 0x1000
  bankfmt : List Nat := List.replicate 64 0
  chans : List Channel := List.replicate 8 {}
  /-- The context that issued last at level 0 (R68). -/
  last : Nat := 10
  /-- Pool frames in use by tasks and spills (not the control frame, not the shadow), pin counts and generations
  (R104), by frame number. -/
  used : List Nat := []
  pins : Table Nat := []
  gens : Table (BitVec 8) := []
  /-- The deque (R80): spill frames (frame, entries held), oldest first, then the hardware part, oldest first. The
  entries themselves of a spill frame are held here with it. -/
  spill : List (Nat × List Entry) := []
  deque : List Entry := []
  wakes : List Entry := []
  /-- Level-1 requests, oldest first, each with its channel (R71). -/
  level1 : List (Nat × Entry) := []
  resumed : List Hold := []
  holds : List Hold := []
  wakeCount : Nat := 0
  dequeCount : Nat := 0
  /-- The channel served last, per priority (R77). -/
  served : List Nat := List.replicate 8 7
  /-- Last steal victim, members tried this round, request outstanding, and the cycle a wait began (R82). -/
  victim : Option Nat := none
  tried : Nat := 0
  stealing : Bool := false
  stealWait : Option Nat := none
  /-- Send-queue entries taken (R183). -/
  sendq : Nat := 0
  /-- LDS requests waiting at this home: packet or (own window) task, word key, consuming, destination word (R385). -/
  waiters : List (Nat × Nat × Bool) := []
  l1 : List Line := []
  combine : List Combine := []
  tlb : List Leaf := []
  icache : List (Nat × List Byte) := []
  /-- Live forwarding entries, and those that have expired (R260). -/
  forwards : List Forward := []
  expired : List Forward := []
  /-- Migrations under way, oldest first. -/
  migrations : List Migration := []
  seqs : List Seq := []
  /-- Banks marked failed, and (bank, millisecond, corrections) counts (R137). -/
  failed : List Nat := []
  corrections : List (Nat × Nat × Nat) := []
  off : Bool := false
  fenced : Bool := false
  /-- Its copies of the slice maps, by die (R147). -/
  maps : Table MapCopy := []
deriving DecidableEq, Repr, Inhabited

/-- A cluster (R9): its matrix lease (R232, R233), sequencer queue, TLB and gating state (R238, R265). `passed`: the
cores whose lease passed on at expiry (R233). `cycles` counts the periods of the array's clock (R5).
(log 4, DESIGN CHOICE; log 64, DESIGN CHOICE) -/
structure Cluster where
  holder : Option Nat := none
  /-- The holder gave the lease up and its sequences run to their end (R232). -/
  leaving : Option Nat := none
  fifo : List (Nat × List Nat) := []
  commands : Nat := 0
  grantedAt : Nat := 0
  passed : List Nat := []
  seqs : List Seq := []
  tlb : List Leaf := []
  cycles : Nat := 0
  gated : List Nat := []
  idleFrom : Table Nat := []
  predicted : Table Int := []
deriving DecidableEq, Repr, Inhabited

/-- A waiter of a block (R112, R245); `order` rises with each enqueueing. -/
structure Waiter where
  h : Handle
  core : Nat
  va : Word
  since : Nat
  tag : Option Nat := none
  order : Nat := 0
deriving DecidableEq, Repr, Inhabited

/-- The states of a parkable block that has a directory entry (R114). -/
inductive BlockState where
  | queued
  | staging
  | resident
  | lingering
  | evicting
deriving DecidableEq, Repr, Inhabited

/-- A directory entry (R112): the block, its frame's first unit, its pins, its waiters (the fresh queue in EVICTING),
the linger start, its dirty lines, and whether its home was retired (R128). -/
structure Block where
  slice : Nat
  base : Nat
  size : Nat
  part : Nat
  state : BlockState := .queued
  unit : Option Nat := none
  pins : Nat := 0
  queue : List Waiter := []
  lingerFrom : Nat := 0
  dirty : List Nat := []
  leaving : Bool := false
deriving DecidableEq, Repr, Inhabited

/-- A local slice's copy of a PEER line, as the peer returned it, and the cores for whose requests it is held (R156,
R167). (log 60, DEDUCED) -/
structure PeerCopy where
  line : Nat
  data : List Byte
  cores : List Nat
deriving DecidableEq, Repr, Inhabited

/-- Who makes a request of a home: the core, the tasks and contexts whose it is (none for an engine or launcher), and the
address and instruction that an entry about it names (R134, R255). -/
structure Requester where
  core : Nat
  tasks : List Nat := []
  ctxs : List Nat := []
  va : Word := 0
  pc : Word := 0
deriving DecidableEq, Repr, Inhabited

/-- A PEER store performed at the local slice and not yet at the peer's home (R167): its bytes by physical address.
(log 60, DEDUCED) -/
structure PeerStore where
  bytes : List (Nat × Byte)
  who : Requester
deriving DecidableEq, Repr, Inhabited

/-- An L2 slice (R11, R112): its cycle count, wakes and reports not yet sent, retirement, its view of BRCFG and E2E per
partition (R31), and the PEER lines and stores it holds (R167). -/
structure Slice where
  cycles : Nat := 0
  wakes : List (Nat × Waiter) := []
  retired : Bool := false
  unwritten : List Nat := []
  brcfg : Table Word := []
  e2e : Table Nat := []
  copies : List PeerCopy := []
  peerStores : List PeerStore := []
deriving DecidableEq, Repr, Inhabited

/-- A die: slice map and generation (R147), the queue its launcher served last, as 64 times its partition and its number
(R244), links marked down (R180), and the launcher's view of E2E per partition (R31) and copies of the slice maps. -/
structure Die where
  map : List Nat := List.range 32
  mapGen : Nat := 0
  served : Nat := 0
  down : List Nat := []
  e2e : Table Nat := []
  maps : Table MapCopy := []
deriving DecidableEq, Repr, Inhabited

/-- A fault-queue entry (R255) without its position. A field whose value no rule states is none until the entry is
queued, when a free value fills it. (log 8, DEDUCED) -/
structure FqEntry where
  cause : Nat
  core : Option Nat := none
  ctx : Option Nat := none
  held : Bool := false
  eng : Bool := false
  ticket : Nat := 0
  bad : Option Word := none
  pc : Option Word := none
  aux0 : Word := 0
  aux1 : Word := 0
deriving DecidableEq, Repr, Inhabited

/-- What a die holds for a partition (R24 scope D, R253, R254). -/
structure DiePart where
  brcfg : Word := 0x0001000400400080
  /-- PARTCFG [43:40] (R275). -/
  e2e : Nat := 5
  fq : List (Nat × FqEntry) := []
  seq : Nat := 0
  lost : Nat := 0
  ticket : Nat := 0
deriving DecidableEq, Repr, Inhabited

/-- The states of a launch queue (R241), in the order of their codes. -/
inductive QState where
  | disabled
  | running
  | preempted
  | killed
  | fenced
  | error
deriving DecidableEq, Repr, Inhabited

/-- A launch queue (R241 to R246): the descriptor as last read, positions, the record being applied (its words and the
targets not yet done, its address), and the rungs taken (0 to 2 for T1 to T3). -/
structure Queue where
  state : QState := .disabled
  base : Word := 0
  log2n : Nat := 0
  t1 : Nat := 0
  t2 : Nat := 0
  t3 : Nat := 0
  head : Nat := 0
  tail : Nat := 0
  record : List Word := []
  recordAt : Word := 0
  entry : Word := 0
  todo : List Nat := []
  rungs : List Nat := []
  /-- The dispatch time that set off T2, and the tasks it killed (core, task). -/
  killSince : Option Nat := none
  killed : List (Nat × Nat) := []
  /-- HEAD and STATE have still to be written to the descriptor, whose home holds its line (R148, R269). -/
  owed : Bool := false
deriving DecidableEq, Repr, Inhabited

/-- A fold group (R193): root, and each member with its children in combining order. -/
structure Group where
  root : Nat
  tree : List (Nat × List Nat)
deriving DecidableEq, Repr, Inhabited

/-- A team (R85, R86): its group, completed phases, the cores arrived in the incomplete phase with their carve
requests, and the arrivals held for the next phase: (core, request, BARA's destination record). -/
structure Team where
  group : Nat
  phase : Nat := 0
  arrived : List (Nat × Nat) := []
  next : List (Nat × Nat × Nat) := []
deriving DecidableEq, Repr, Inhabited

/-- What a partition is doing (R257, R279, R282). -/
inductive PartState where
  | absent
  | running
  | switching
  | saved
  | resetting
deriving DecidableEq, Repr, Inhabited

/-- A partition (R275 to R278). (log 4, DESIGN CHOICE) -/
structure Part where
  state : PartState := .absent
  rows : Nat := 0
  expert : Bool := false
  pcb : Nat := 0
  queues : Table Queue := []
  groups : Table Group := []
  teams : Table Team := []
  /-- The MSI-X table of the function, two words a vector, its pending vectors and those signalled (R274), and the STATUS
  given to each management record of the partition's rings, in order (R270). -/
  msixTable : List Word := List.replicate 16 0
  msix : List Nat := []
  signalled : List Nat := []
  statuses : List Nat := []
  saveArea : Nat := 0
  /-- The host ring's base and tail (R274), the counts of records taken from the host ring and the runtime ring, whether
  the runtime ring is next, and the record whose STATUS is to come with its ring (R270). -/
  hostBase : Word := 0
  hostTail : Nat := 0
  hostHead : Nat := 0
  runtimeHead : Nat := 0
  runtimeNext : Bool := false
  record : Option (Bool × Word) := none
  /-- A record of the rings is being performed; and a context switch or reset under way whose STATUS is to come, with the
  record to which it goes, if it came from a ring (R257, R270, R279). -/
  serving : Bool := false
  pending : Option (Option Word) := none
deriving DecidableEq, Repr, Inhabited

/-- An operation performed on memory at its home (R113, R150, R336, R357). -/
inductive MemOp where
  | load (n : Nat)
  | loadLine
  | store (bytes : List (Nat × Byte))
  | setFull (v : Word)
  | setEmpty
  | sync (take : Bool)
  | amo (op : Nat) (n : Nat) (signed : Bool) (x : Nat)
  | cas (n : Nat) (x y : Nat)
  | arrive
  | foldStore (bytes : List (Nat × Byte))
  /-- An engine's write of the bits `mask` of the 8-byte word at the address, which sets it full where `fill` (R161, R226). -/
  | storeMask (mask v : Nat) (fill : Bool)
deriving DecidableEq, Repr, Inhabited

/-- An operation on a handle at its home (R99, R107). -/
inductive HandleOp where
  | dup
  | drop
  | take
  | giveBack
  | bind
  | info
  /-- EFORK's privilege check of an ESIG handle (R229). -/
  | peek
  /-- The application of an accepted channel arrival (R101); a binding's reference or an arrival's flight given up (R185),
  for which no context waits. -/
  | accept
  | unref
  | unfly
  /-- ECAN and ERES at their target core, with a ticket in the handle's place (R366). -/
  | cancel
  | restart
deriving DecidableEq, Repr, Inhabited

/-- What a packet carries. Requests first, replies after. -/
inductive Body where
  | mem (op : MemOp) (addr : Nat) (va : Word) (pk : Bool)
  | message (m : Msg) (token : Nat)
  | apply (h : Handle) (args : Args) (rt : Bool) (tag : Option Nat)
  | handle (op : HandleOp) (h : Handle) (rt : Bool)
  | park (h : Handle) (va : Word) (base size part : Nat) (tag : Option Nat)
  | probe (base size part : Nat)
  | unpin (base : Nat)
  | wake (e : Entry)
  | stealAsk
  /-- A fold load on its way (R195). -/
  | fold (id : Nat)
  | report (cause : Nat) (w : Waiter)
  | ack
  | data (v : Nat)
  | line (bytes : List Byte)
  | failed (c : Cause) (precise : Bool)
  /-- A remap reply with the current generation and table of a die (R149). -/
  | remap (die gen : Nat) (map : List Nat)
  | status (n : Nat)
  | handled (outcome : Option Cause) (info : Word)
  | parked (outcome : Nat) (cause : Cause)
  | stolen (e : Option Entry)
  /-- The result of a fold, combined at its root, and its flags (R195). -/
  | folded (v : Nat) (flags : BitVec 5)
deriving DecidableEq, Repr, Inhabited

/-- Where a packet stands (R174 to R180). -/
inductive Phase where
  /-- No free send slot yet (R176). -/
  | waiting
  | flying
  /-- Discarded or dropped; its sender's timer runs, or (`nacked`) a NACK has come (R177). -/
  | lost
  | nacked
  /-- In its destination's window, or held there by a hold notice (R174). -/
  | arrived
  | held
  /-- Consumed and performed; the packet stands for the home's reply cache until it is answered (R179). -/
  | done
deriving DecidableEq, Repr, Inhabited

/-- A packet (R172): endpoints, plane (`reply`), send slot, sends made, the issuing core and task (and the other tasks whose
stores it combines), the contexts whose fences wait for it (R156), the issuing instruction (R255), the engine sequence (0:
none), the re-sent request to its line that it is held behind (R149), the map generation it was hashed under (R147), for a
reply the request it answers (0: none), for a forwarded request the request at the old core (`via`; 0: none), and the order in
which it reached its destination (`came`; R259, R260). The packets of one pair channel and plane are consumed in the order of
their `id`. (log 16, DEDUCED) -/
structure Packet where
  id : Nat
  src : Nat
  dst : Nat
  reply : Bool := false
  slot : Option Nat := none
  body : Body
  phase : Phase := .waiting
  sends : Nat := 0
  golden : Bool := false
  noticed : Bool := false
  nackedLast : Bool := false
  remaps : Nat := 0
  mapGen : Nat := 0
  core : Nat := 0
  task : Nat := 0
  also : List Nat := []
  ctxs : List Nat := []
  pc : Word := 0
  seq : Nat := 0
  heldBy : Nat := 0
  answers : Nat := 0
  via : Nat := 0
  came : Nat := 0
deriving DecidableEq, Repr, Inhabited

/-- A late result that comes in replies: the parts awaited and returned, each (offset in bytes, bytes, packet or value);
its size in bytes, sign extension, the value at issue and the active lanes (vectors); the L1 line that a reply allocates
(line, class, read-only page); whether it is a gather's; and the parts that failed as precise faults (offset, cause,
address). -/
structure Parts where
  wait : List (Nat × Nat × Nat)
  got : List (Nat × Nat × Nat) := []
  size : Nat
  signed : Bool := false
  old : BitVec 512 := 0
  mask : BitVec 16 := 0xFFFF
  fill : Option (Nat × Nat × Bool) := none
  gather : Bool := false
  failed : List (Nat × Cause × Word) := []
deriving DecidableEq, Repr, Inhabited

/-- Where the value of a late result comes from (R19): known already, with the flags set when it is written (R211); in
replies; written by another operation (tokens and folds; `load` for the results an acquire waits for, R156); or a join
word, with the sequences that have yet to arrive on it (R84). -/
inductive Late where
  | value (v : Nat) (flags : BitVec 5)
  | parts (p : Parts)
  | token (load : Bool)
  | join (left : Nat)
deriving DecidableEq, Repr, Inhabited

/-- A late result outstanding (R19): its destination words (none for w0), those of them full at issue, and for a
vector whose register is a write-bound port, where each lane is stored as well (R409). -/
structure Pend where
  id : Nat
  core : Nat
  ctx : Nat := 0
  task : Nat
  words : List Nat
  wasFull : List Nat := []
  late : Late
  push : List (Nat × Nat) := []
  pushFull : Bool := false
  /-- A prefetch, for which neither a marker nor a fence waits (R402). -/
  quiet : Bool := false
  /-- The result of an FQPOP that removed an entry (R378). -/
  entry : Bool := false
  /-- The result of a load, atomic or gather, for which an acquire waits (R156). -/
  access : Bool := false
deriving DecidableEq, Repr, Inhabited

/-- A fold load under way (R195): members not yet read, and each member's contribution (none: absent; some none:
partial). (log 39, DESIGN CHOICE) -/
structure Fold where
  id : Nat
  pend : Nat
  core : Nat
  task : Nat
  part : Nat
  group : Nat
  op : Nat
  fa : Word
  since : Nat
  unread : List Nat
  got : List (Nat × Option (Option Nat))
  /-- The packet of its request (R177). -/
  packet : Nat := 0
deriving DecidableEq, Repr, Inhabited

/-- An STG under way (R199): members not yet acknowledged, and the counts. -/
structure FoldStore where
  id : Nat
  core : Nat
  ctx : Nat
  task : Nat
  unacked : List Nat
  absent : List Nat
  part : List Nat
deriving DecidableEq, Repr, Inhabited

/-- A partition's saved state (R257), with the late results outstanding, those of its posts among them (R190).
(log 26, DESIGN CHOICE) -/
structure Saved where
  area : Nat
  rows : Nat
  cores : Table Core
  ctxs : Table Ctx
  mem : List Host.Cell
  empties : List Nat
  blocks : List Block
  dies : Table DiePart
  part : Part
  pends : List Pend := []
deriving DecidableEq, Repr, Inhabited

/-- An invalidation under way (R421): the context that waits, the address (none: every leaf), and the units, by endpoint
number with cluster TLBs from 2048 on, that have yet to acknowledge. -/
structure Inval where
  id : Nat
  core : Nat
  task : Nat
  va : Option Nat
  todo : List Nat
deriving DecidableEq, Repr, Inhabited

/-- The issuing context and the word it issues. -/
structure Cur where
  core : Nat := 0
  ctx : Nat := 0
  word : IWord := 0
deriving DecidableEq, Repr, Inhabited

/-- The device except its power tree and the schedule. -/
structure Mach where
  cur : Cur := {}
  /-- TIMEBASE (R442). -/
  now : Nat := 0
  /-- HBM, HOST, PEER, scratchpads, frames, weight buffers and accumulators by key (`Ops`); unlisted bytes are 0. -/
  mem : List Host.Cell := []
  /-- The scratchpad words whose full/empty bit is clear, by key, rising (R18). -/
  empties : List Nat := []
  /-- Stores that contexts have issued to their own window and that are not yet performed, oldest first, each with its core
  and its bytes by key (R150, R153). -/
  ownStores : List (Nat × List (Nat × Byte)) := []
  cores : Table Core := []
  ctxs : Table Ctx := []
  clusters : Table Cluster := []
  slices : Table Slice := []
  dies : Table Die := []
  dieParts : Table DiePart := []
  parts : Table Part := []
  blocks : List Block := []
  packets : List Packet := []
  /-- Pair channels closed by a failed golden send (R177). -/
  closed : List (Nat × Nat) := []
  pends : List Pend := []
  folds : List Fold := []
  foldStores : List FoldStore := []
  saved : List Saved := []
  invals : List Inval := []
  nextId : Nat := 1
  /-- Lines marked poisoned, uncorrectable in HBM, uncorrectable in a dirty L2 line (R144), lines of frames marked poisoned
  and uncorrectable there (R115, R144), uncorrectable scratchpad words and L1 lines (R137). -/
  poisoned : List Nat := []
  hbmBad : List Nat := []
  l2Bad : List Nat := []
  framePoisoned : List Nat := []
  frameBad : List Nat := []
  scratchBad : List Nat := []
  l1Bad : List (Nat × Nat) := []
  /-- Peer indices assigned and those whose links are down (R142). -/
  peers : List Nat := [0, 1, 2, 3, 4, 5, 6, 7]
  peersDown : List Nat := []
  /-- The refresh bands of the 16 stacks; 3: self-refresh, in which the stack's traffic is held (R269). -/
  bands : List Nat := List.replicate 16 0
  /-- The firmware image of this power-on, and one verified for the next (R280), as their bytes; none is the image that the
  device was made with. -/
  image : Option (List Byte) := none
  nextImage : Option (List Byte) := none
  spdm : List Byte := []
  /-- Of the window since the last tick of Isobar: the cycles in which cores of each die issued vector instructions, and the
  dies whose arrays ran an MMA (R266). -/
  vectorIssues : List Nat := [0, 0, 0, 0]
  matrixRan : List Nat := []
  /-- The counter of free values drawn. -/
  free : Nat := 0
deriving DecidableEq, Repr, Inhabited

/-- The power tree (R262 to R269). `duty` is FDUTY of each core where it is not 16.
(log 4, DESIGN CHOICE; log 33, DESIGN CHOICE; log 54, DESIGN CHOICE) -/
structure Power where
  /-- The package limit in watts (R262). -/
  limit : Nat := 3200
  duty : Table Nat := []
  /-- The cycle count of a core at the last change of its duty, and the duty before it, which a CSRD of that cycle may
  still read (R263). -/
  dutyWas : Table (Nat × Nat) := []
  /-- The clocks the dies run, in MHz (R266). -/
  clocks : List Nat := [2400, 2400, 2400, 2400]
  temps : List Nat := List.replicate 16 0
  collective : Bool := false
  leader : Bool := false
  members : List Nat := []
  /-- The clocks of the dies at the last tick before the collective ceiling (R266). -/
  own : List Nat := [2400, 2400, 2400, 2400]
  /-- The least duty and the clock that the device's own Isobar chose at the last tick (R268). -/
  chosen : Nat × Nat := (16, 2400)
  /-- The last tick of Isobar (R262). -/
  ticked : Nat := 0
  /-- What the members have sent their leader at this tick: (peer, duty, clock) (R268). -/
  reports : List (Nat × Nat × Nat) := []
  /-- The announcements awaiting their apply ticks: (tick, duty, clock); the collective ceiling; the apply ticks passed since
  the last announcement, and the last one passed (R268). -/
  announced : List (Nat × Nat × Nat) := []
  ceiling : Option Nat := none
  missed : Nat := 0
  lastTick : Nat := 0
deriving DecidableEq, Repr, Inhabited

/-- The state of the machine. -/
structure State where
  m : Mach := {}
  power : Power := {}
  /-- The turns to come, before the free schedule continues, and the count of turns taken from it. -/
  agenda : List Turn := []
  turns : Nat := 0
deriving DecidableEq, Repr, Inhabited

/-- TIMEBASE (R442). -/
abbrev State.now (s : State) : Nat := s.m.now

/-- A precise or late trap to be taken (R248): its cause, BADADDR (none: the manual states no value, and a free one is
written) and BRSRC. A walk with an entry that is `held` at its home is no trap yet, and its instruction waits (R138, R269).
(log 7, DEDUCED) -/
structure Trap where
  cause : Cause
  bad : Option Word := none
  brsrc : Word := 0
  held : Bool := false
deriving DecidableEq, Repr, Inhabited

/-- The result of an operation that may trap. -/
abbrev Res (α : Type) := Except Trap α

/-- The device at power-on (R13, R24, R275, R442): no row belongs to a partition, so every core is held in reset. -/
def State.reset : State := {}

end Sys2Proof.Machine
end

