-- ==== Sys2Proof/Machine/Mem.lean ====
section
/-!
DEFINITION. Tables, and memory as bytes by key in one canonical form: keys strictly rising, no entry equal to the
zero that an unlisted key reads as. Multi-byte quantities are little-endian (R2).
-/
namespace Sys2Proof.Machine

/-- The entry of a table, if it lists one. -/
def Table.find {α : Type} : Table α → Nat → Option α
  | [], _ => none
  | (k, v) :: t, n => if k = n then some v else if k < n then Table.find t n else none

/-- The entry of a table, or its default. -/
def Table.get {α : Type} (t : Table α) (n : Nat) (d : α) : α := (Table.find t n).getD d

/-- A table with one entry set. -/
def Table.set {α : Type} : Table α → Nat → α → Table α
  | [], n, v => [(n, v)]
  | (k, w) :: t, n, v => if k < n then (k, w) :: Table.set t n v else if k = n then (n, v) :: t else (n, v) :: (k, w) :: t

/-- A table without one entry. -/
def Table.drop {α : Type} (t : Table α) (n : Nat) : Table α := t.filter (fun e => e.1 != n)

/-- A rising list of numbers with one more, or one less. -/
def insertNat : List Nat → Nat → List Nat
  | [], n => [n]
  | k :: t, n => if k < n then k :: insertNat t n else if k = n then k :: t else n :: k :: t

def eraseNat (l : List Nat) (n : Nat) : List Nat := l.filter (· != n)

/-- The byte at a key; 0 where none is listed. (log 1, DESIGN CHOICE) -/
def Mem.get : List Host.Cell → Nat → Byte
  | [], _ => 0
  | (a, b) :: t, k => if a = k then b else Mem.get t k

/-- A cell put among the cells of other keys. -/
def Mem.place : List Host.Cell → Nat → Byte → List Host.Cell
  | [], k, v => [(k, v)]
  | (a, b) :: t, k, v => if a < k then (a, b) :: Mem.place t k v else (k, v) :: (a, b) :: t

/-- Memory with one byte written; a zero byte is not listed. -/
def Mem.set (l : List Host.Cell) (k : Nat) (v : Byte) : List Host.Cell :=
  let l := l.filter (fun c => c.1 != k)
  if v = 0 then l else Mem.place l k v

/-- All keys are at least `lo`, strictly rising, and no byte is zero. -/
def Memory.wfFrom : Nat → List Host.Cell → Bool
  | _, [] => true
  | lo, (a, b) :: t => decide (lo ≤ a) && b != 0 && Memory.wfFrom (a + 1) t

/-- The canonical form. (log 1, DESIGN CHOICE) -/
def Memory.wf (l : List Host.Cell) : Bool := Memory.wfFrom 0 l

/-- `n` bytes as a number, the lowest key least significant. -/
def Mem.read (l : List Host.Cell) (k : Nat) : Nat → Nat
  | 0 => 0
  | n + 1 => (Mem.get l k).toNat + 256 * Mem.read l (k + 1) n

/-- Memory with the low `n` bytes of a number written. -/
def Mem.write (l : List Host.Cell) (k : Nat) : Nat → Nat → List Host.Cell
  | 0, _ => l
  | n + 1, v => Mem.write (Mem.set l k (BitVec.ofNat 8 v)) (k + 1) n (v / 256)

/-- Memory with bytes written at (key, byte). -/
def Mem.writeAll (l : List Host.Cell) : List (Nat × Byte) → List Host.Cell
  | [] => l
  | (k, b) :: t => Mem.writeAll (Mem.set l k b) t

/-- Memory with `n` bytes from a key on zero. -/
def Mem.clear (l : List Host.Cell) (k n : Nat) : List Host.Cell := l.filter (fun c => !(k ≤ c.1 && c.1 < k + n))

/-- Memory with `n` bytes copied from one key to another; the ranges do not overlap. -/
def Mem.copy (l : List Host.Cell) (src dst n : Nat) : List Host.Cell :=
  Mem.writeAll (Mem.clear l dst n) ((l.filter (fun c => src ≤ c.1 && c.1 < src + n)).map (fun c => (c.1 - src + dst, c.2)))

/-- A number as its `n` low bytes, and bytes as a number. -/
def toBytes : Nat → Nat → List Byte
  | 0, _ => []
  | n + 1, v => BitVec.ofNat 8 v :: toBytes n (v / 256)

def ofBytes : List Byte → Nat
  | [] => 0
  | b :: t => b.toNat + 256 * ofBytes t

/-- The bits of a word that a mask selects replaced by those of a value. -/
def putMask (old mask v : Nat) : Nat := (old ^^^ (old &&& mask)) ||| (v &&& mask)

/-- Keys of memory: a scratchpad byte has its core-global address (R130); a physical address is its own key; then the
frame copy of a staged block (R115), the weight buffers and the accumulators (R9). -/
def scratchKey (core off : Nat) : Nat := 0xF000000000000000 + core * 0x1000000 + off
def frameKey (pa : Nat) : Nat := 0x100000000000000 + pa
def weightKey (cl off : Nat) : Nat := 0x200000000000000 + cl * 0x800000 + off
def accKey (cl tile r c : Nat) : Nat := 0x400000000000000 + cl * 0x100000 + tile * 0x10000 + 4 * (128 * r + c)

/-- The core and offset of a scratchpad key. -/
def keyCore (k : Nat) : Nat := (k - 0xF000000000000000) / 0x1000000
def keyOff (k : Nat) : Nat := k % 0x1000000

/-- The word that holds a key (R18). -/
def wordOf (k : Nat) : Nat := k - k % 8

/-- The keys of the words that cover `n` bytes from a key. -/
def wordsOf (k n : Nat) : List Nat :=
  if n = 0 then [] else (List.range ((k + n - 1) / 8 - k / 8 + 1)).map (fun i => wordOf k + 8 * i)

/-- Bits of a word as a number. -/
def field (w : Word) (lo len : Nat) : Nat := w.toNat / 2 ^ lo % 2 ^ len

/-- The number of set bits. -/
def bitCount : Nat → Nat → Nat
  | 0, _ => 0
  | n + 1, v => v % 2 + bitCount n (v / 2)

end Sys2Proof.Machine
end

