-- ==== Sys2Proof/Machine/Float.lean ====
section
/-!
DEFINITION. Number formats and rounding (R201 to R208, R212 to R218): codes are decoded to exact rationals, computed
exactly, and rounded once.
-/
namespace Sys2Proof.Machine

/-- The float element formats of R201. -/
inductive Fmt where
  | f32
  | f16
  | bf16
  | e5m2
  | e4m3
  | e3m2
  | e2m3
  | e2m1
deriving DecidableEq, Repr, Inhabited

/-- Width, mantissa bits and bias (R201). -/
def Fmt.width : Fmt → Nat
  | .f32 => 32 | .f16 => 16 | .bf16 => 16 | .e5m2 => 8 | .e4m3 => 8 | .e3m2 => 6 | .e2m3 => 6 | .e2m1 => 4
def Fmt.mant : Fmt → Nat
  | .f32 => 23 | .f16 => 10 | .bf16 => 7 | .e5m2 => 2 | .e4m3 => 3 | .e3m2 => 2 | .e2m3 => 3 | .e2m1 => 1
def Fmt.bias : Fmt → Nat
  | .f32 => 127 | .f16 => 15 | .bf16 => 127 | .e5m2 => 15 | .e4m3 => 7 | .e3m2 => 3 | .e2m3 => 1 | .e2m1 => 1

/-- Whether the format has infinities and signalling NaNs (R201). -/
def Fmt.ieee : Fmt → Bool
  | .f32 => true | .f16 => true | .bf16 => true | .e5m2 => true
  | .e4m3 => false | .e3m2 => false | .e2m3 => false | .e2m1 => false

/-- 2 to an integer power, exactly. -/
def pow2 (e : Int) : Rat := if 0 ≤ e then ((2 ^ e.toNat : Nat) : Rat) else mkRat 1 (2 ^ (-e).toNat)

/-- The largest finite magnitude (R201). -/
def Fmt.max (f : Fmt) : Rat :=
  match f with
  | .f32 => (2 - pow2 (-23)) * pow2 127
  | .f16 => 65504
  | .bf16 => (2 - pow2 (-7)) * pow2 127
  | .e5m2 => 57344
  | .e4m3 => 448
  | .e3m2 => 28
  | .e2m3 => mkRat 15 2
  | .e2m1 => 6

/-- A float value: a NaN keeps its sign, and its mantissa with the width it had; a zero keeps its sign. -/
inductive FVal where
  | nan (neg : Bool) (mant width : Nat) (signalling : Bool)
  | inf (neg : Bool)
  | fin (neg : Bool) (x : Rat)
deriving DecidableEq, Repr, Inhabited

def FVal.isNan : FVal → Bool
  | .nan _ _ _ _ => true
  | _ => false
def FVal.isSignalling : FVal → Bool
  | .nan _ _ _ s => s
  | _ => false
def FVal.neg : FVal → Bool
  | .nan n _ _ _ => n
  | .inf n => n
  | .fin n _ => n
def FVal.isInf : FVal → Bool
  | .inf _ => true
  | _ => false
def FVal.isZero : FVal → Bool
  | .fin _ x => x == 0
  | _ => false
def FVal.rat : FVal → Rat
  | .fin _ x => x
  | _ => 0

/-- Decode (R201, R202): the value of a code. -/
def decodeF (f : Fmt) (code : Nat) : FVal :=
  let m := f.mant
  let w := f.width
  let neg := decide (code / 2 ^ (w - 1) % 2 = 1)
  let e := code / 2 ^ m % 2 ^ (w - 1 - m)
  let k := code % 2 ^ m
  if f.ieee && e == 2 ^ (w - 1 - m) - 1 then
    if k = 0 then .inf neg else .nan neg k m (decide (k < 2 ^ (m - 1)))
  else if f == .e4m3 && e == 15 && k == 7 then .nan neg k m false
  else
    let a : Rat := if e = 0 then (k : Rat) * pow2 (1 - (f.bias : Int) - m)
                   else ((2 ^ m + k : Nat) : Rat) * pow2 ((e : Int) - f.bias - m)
    .fin neg (if neg then -a else a)

/-- floor of log2 of a positive rational. -/
def floorLog2 (a : Rat) : Int :=
  let e : Int := (Nat.log2 a.num.toNat : Int) - Nat.log2 a.den
  if pow2 e ≤ a then e else e - 1

/-- The code of a finite magnitude that the format holds exactly. -/
def codeOf (f : Fmt) (neg : Bool) (a : Rat) : Nat :=
  let s := if neg then 2 ^ (f.width - 1) else 0
  if a = 0 then s
  else
    let e := max (floorLog2 a) (1 - (f.bias : Int))
    let k := (a / pow2 (e - f.mant)).floor.toNat
    if k < 2 ^ f.mant then s + k else s + (e + f.bias).toNat * 2 ^ f.mant + (k - 2 ^ f.mant)

def infCode (f : Fmt) (neg : Bool) : Nat :=
  (if neg then 2 ^ (f.width - 1) else 0) + (2 ^ (f.width - 1 - f.mant) - 1) * 2 ^ f.mant
def maxCode (f : Fmt) (neg : Bool) : Nat := codeOf f neg f.max
def e4m3Nan (neg : Bool) : Nat := if neg then 0xFF else 0x7F

/-- The canonical NaN (R201). -/
def canonNan : Fmt → Nat
  | .f32 => 0x7FC00000 | .f16 => 0x7E00 | .bf16 => 0x7FC0 | .e5m2 => 0x7E | .e4m3 => 0x7F
  | .e3m2 => 0 | .e2m3 => 0 | .e2m1 => 0

/-- The flags of R210. -/
def NV : BitVec 5 := 16
def DZ : BitVec 5 := 8
def OF : BitVec 5 := 4
def UF : BitVec 5 := 2
def NX : BitVec 5 := 1

/-- Overflow (R214). -/
def overflowF (f : Fmt) (neg : Bool) (rm : Nat) (sat : Bool) : Nat :=
  let toInf : Bool := rm == 0 || rm == 4 || (rm == 2 && !neg) || (rm == 3 && neg)
  match f with
  | .e3m2 => maxCode f neg
  | .e2m3 => maxCode f neg
  | .e2m1 => maxCode f neg
  | .e4m3 => if !sat && toInf then e4m3Nan neg else maxCode f neg
  | .e5m2 => if !sat && toInf then infCode f neg else maxCode f neg
  | .f32 => if toInf then infCode f neg else maxCode f neg
  | .f16 => if toInf then infCode f neg else maxCode f neg
  | .bf16 => if toInf then infCode f neg else maxCode f neg

/-- The mode that applies to a result of `w` bits: SR only up to 16 (R212). -/
def modeFor (rm w : Nat) : Nat := if rm = 4 && 16 < w then 0 else rm

/-- The integer step of rounding: `n + rem` with `0 ≤ rem < 1` to an integer, `odd` telling whether `n` is odd
(R212, R213). -/
def roundStep (rm : Nat) (neg odd : Bool) (rem : Rat) (draw : Nat) : Bool :=
  if rem = 0 then false
  else if rm = 0 then decide (mkRat 1 2 < rem) || (decide (rem = mkRat 1 2) && odd)
  else if rm = 1 then false
  else if rm = 2 then !neg
  else if rm = 3 then neg
  else decide (65536 ≤ (rem * 65536).floor.toNat + draw)

/-- Round (R212) of an exact `x`, whose sign is `neg` if it is zero: the code and the flags. `draw` is the random number
that SR takes (R213). -/
def roundF (f : Fmt) (rm : Nat) (sat : Bool) (draw : Nat) (neg : Bool) (x : Rat) : Nat × BitVec 5 :=
  if x = 0 then (codeOf f neg 0, 0)
  else
    let neg := decide (x < 0)
    let a := if neg then -x else x
    let rm := modeFor rm f.width
    let e := max (floorLog2 a) (1 - (f.bias : Int))
    let q := pow2 (e - f.mant)
    let n := (a / q).floor.toNat
    let rem := a / q - (n : Rat)
    let up := roundStep rm neg (n % 2 == 1) rem draw
    let r := ((if up then n + 1 else n : Nat) : Rat) * q
    if f.max < r then (overflowF f neg rm sat, OF ||| NX)
    else
      let tiny := decide (r ≠ 0) && decide (r < pow2 (1 - (f.bias : Int))) && decide (rem ≠ 0)
      (codeOf f neg r, (if rem = 0 then 0 else NX) ||| (if tiny then UF else 0))

/-- The code of a NaN in a format: quieted and narrowed or widened (R215). (log 79, DESIGN CHOICE) -/
def nanCode (f : Fmt) (neg : Bool) (k w : Nat) : Nat :=
  let s := if neg then 2 ^ (f.width - 1) else 0
  match f.ieee with
  | true =>
    let k := if k / 2 ^ (w - 1) % 2 = 1 then k else k + 2 ^ (w - 1)
    let k := if w ≤ f.mant then k * 2 ^ (f.mant - w) else k / 2 ^ (w - f.mant)
    infCode f neg + k
  | false => if f == .e4m3 then e4m3Nan neg else s

/-- The code of a value in a format: special values by R215, others rounded. -/
def convertF (f : Fmt) (rm : Nat) (sat : Bool) (draw : Nat) (v : FVal) : Nat × BitVec 5 :=
  match v with
  | .fin neg x => roundF f rm sat draw neg x
  | .inf neg =>
    if f.ieee then (infCode f neg, 0)
    else if f == .e4m3 && !sat then (e4m3Nan neg, NV) else (maxCode f neg, NV)
  | .nan neg k w sig =>
    (nanCode f neg k w, if sig || (!f.ieee && f != .e4m3) then NV else 0)

/-- A value rounded to an integer of `w` bits, signed or not, saturating (R215). -/
def toInteger (w : Nat) (signed : Bool) (rm : Nat) (v : FVal) : Nat × BitVec 5 :=
  let lo : Int := if signed then -(2 ^ (w - 1) : Nat) else 0
  let hi : Int := if signed then (2 ^ (w - 1) : Nat) - 1 else (2 ^ w : Nat) - 1
  let wrap (i : Int) : Nat := (i % (2 ^ w : Nat)).toNat
  match v with
  | .nan _ _ _ _ => (0, NV)
  | .inf neg => (wrap (if neg then lo else hi), NV)
  | .fin _ x =>
    let neg := decide (x < 0)
    let a := if neg then -x else x
    let n := a.floor.toNat
    let rem := a - (n : Rat)
    let n := if roundStep (if rm = 4 then 0 else rm) neg (n % 2 == 1) rem 0 then n + 1 else n
    let i : Int := if neg then -(n : Int) else n
    if i < lo then (wrap lo, NV) else if hi < i then (wrap hi, NV)
    else (wrap i, if rem = 0 then 0 else NX)

/-- A signed or unsigned integer of `w` bits. -/
def intOf (w : Nat) (signed : Bool) (v : Nat) : Int :=
  let v := v % 2 ^ w
  if signed && decide (2 ^ (w - 1) ≤ v) then (v : Int) - (2 ^ w : Nat) else v

/-! ### Arithmetic (R216 to R218) -/

/-- The first NaN in operand order, with NV if any operand is signalling. -/
def firstNan (f : Fmt) (vs : List FVal) : Option (Nat × BitVec 5) :=
  match vs.find? FVal.isNan with
  | some (.nan neg k w _) => some (nanCode f neg k w, if vs.any FVal.isSignalling then NV else 0)
  | _ => none

def invalid (f : Fmt) : Nat × BitVec 5 := (canonNan f, NV)

/-- The sign of an exact zero sum of `a` and `b` (R212). -/
def zeroSumNeg (rm : Nat) (a b : FVal) : Bool := if a.neg == b.neg then a.neg else rm == 3

def addF (f : Fmt) (rm : Nat) (sat : Bool) (draw : Nat) (a b : FVal) : Nat × BitVec 5 :=
  match firstNan f [a, b] with
  | some r => r
  | none =>
    match a, b with
    | .inf n, .inf k => if n == k then (infCode f n, 0) else invalid f
    | .inf n, _ => (infCode f n, 0)
    | _, .inf n => (infCode f n, 0)
    | _, _ => roundF f rm sat draw (zeroSumNeg rm a b) (a.rat + b.rat)

/-- A value with its sign changed. -/
def FVal.negate : FVal → FVal
  | .nan n k w s => .nan n k w s
  | .inf n => .inf (!n)
  | .fin n x => .fin (!n) (-x)

def mulF (f : Fmt) (rm : Nat) (sat : Bool) (draw : Nat) (a b : FVal) : Nat × BitVec 5 :=
  let neg := a.neg != b.neg
  match firstNan f [a, b] with
  | some r => r
  | none =>
    if (a.isInf && b.isZero) || (a.isZero && b.isInf) then invalid f
    else if a.isInf || b.isInf then (infCode f neg, 0)
    else roundF f rm sat draw neg (a.rat * b.rat)

def divF (f : Fmt) (rm : Nat) (sat : Bool) (draw : Nat) (a b : FVal) : Nat × BitVec 5 :=
  let neg := a.neg != b.neg
  match firstNan f [a, b] with
  | some r => r
  | none =>
    if (a.isInf && b.isInf) || (a.isZero && b.isZero) then invalid f
    else if a.isInf then (infCode f neg, 0)
    else if b.isInf then (codeOf f neg 0, 0)
    else if b.isZero then (infCode f neg, DZ)
    else roundF f rm sat draw neg (a.rat / b.rat)

/-- The integer square root, bit by bit from `2 ^ i` down. -/
def isqrtFrom (n : Nat) : Nat → Nat → Nat
  | 0, r => r
  | i + 1, r => isqrtFrom n i (if (r + 2 ^ i) * (r + 2 ^ i) ≤ n then r + 2 ^ i else r)

/-- A rational with the same rounding as the square root of `x > 0`: the root cut off below 80 bits, and a half unit more
where that is inexact. -/
def sqrtRat (x : Rat) : Rat :=
  let k : Int := 80 - floorLog2 x / 2
  let y := x * pow2 (2 * k)
  let n := isqrtFrom y.floor.toNat 90 0
  (if ((n * n : Nat) : Rat) = y then (n : Rat) else (n : Rat) + mkRat 1 2) * pow2 (-k)

def sqrtF (f : Fmt) (rm : Nat) (sat : Bool) (draw : Nat) (a : FVal) : Nat × BitVec 5 :=
  match firstNan f [a] with
  | some r => r
  | none =>
    if a.isZero then (codeOf f a.neg 0, 0)
    else if a.neg then invalid f
    else if a.isInf then (infCode f false, 0)
    else roundF f rm sat draw false (sqrtRat a.rat)

/-- a × b + c with one rounding (R217). -/
def fmaF (f : Fmt) (rm : Nat) (sat : Bool) (draw : Nat) (a b c : FVal) : Nat × BitVec 5 :=
  let sig := a.isSignalling || b.isSignalling || c.isSignalling
  let pneg := a.neg != b.neg
  let pinv := (a.isInf && b.isZero) || (a.isZero && b.isInf)
  match firstNan f [a, b] with
  | some r => (r.1, if sig then NV else 0)
  | none =>
    match c with
    | .nan n k w s => (nanCode f n k w, if s then NV else 0)
    | _ =>
      if pinv then (canonNan f, NV)
      else if a.isInf || b.isInf then
        if c.isInf && c.neg != pneg then (canonNan f, NV) else (infCode f pneg, 0)
      else if c.isInf then (infCode f c.neg, 0)
      else
        let p := a.rat * b.rat
        roundF f rm sat draw (if p = 0 && pneg == c.neg then c.neg else rm == 3) (p + c.rat)

/-- a < b or equal, of values that are not NaN, with −0 below +0 if `zeros` (R218). -/
def lessF (zeros : Bool) (a b : FVal) : Bool :=
  match a, b with
  | .inf n, .inf k => n && !k
  | .inf n, _ => n
  | _, .inf k => !k
  | _, _ => decide (a.rat < b.rat) || (zeros && decide (a.rat = 0) && decide (b.rat = 0) && a.neg && !b.neg)

/-- Minimum or maximum of two codes (R218). -/
def minMaxF (f : Fmt) (wantMax : Bool) (x y : Nat) : Nat × BitVec 5 :=
  let a := decodeF f x
  let b := decodeF f y
  match firstNan f [a, b] with
  | some r => r
  | none => if wantMax then (if lessF true a b then y else x, 0) else (if lessF true b a then y else x, 0)

/-- Comparisons (R374, R428): 0 eq, 1 lt, 2 le, 3 un, 4 ne. -/
def compareF (cc : Nat) (a b : FVal) : Bool × BitVec 5 :=
  let nan := a.isNan || b.isNan
  let sig := a.isSignalling || b.isSignalling
  let lt := !nan && lessF false a b
  let eq := !nan && !lessF false a b && !lessF false b a
  let quiet : BitVec 5 := if sig then NV else 0
  let loud : BitVec 5 := if nan then NV else 0
  if cc = 0 then (eq, quiet) else if cc = 1 then (lt, loud) else if cc = 2 then (lt || eq, loud)
  else if cc = 3 then (nan, quiet) else (!eq, quiet)

/-! ### Random numbers (R213) -/

/-- One step of the generator: its new state; the draw is bits [31:16]. -/
def stepGen (g : BitVec 32) : BitVec 32 :=
  let g := g ^^^ (g <<< 13)
  let g := g ^^^ (g >>> 17)
  g ^^^ (g <<< 5)
def drawOf (g : BitVec 32) : Nat := g.toNat / 65536

/-- Whether a result of `w` bits takes a draw under a mode (R213). -/
def draws (rm w : Nat) : Bool := rm == 4 && decide (w ≤ 16)

/-- The draw for a result of `w` bits, and the generator after it. -/
def takeDraw (rm w : Nat) (g : BitVec 32) : Nat × BitVec 32 :=
  if draws rm w then (drawOf (stepGen g), stepGen g) else (0, g)

/-- Seed (R213). -/
def seedGen (fpmode : Word) (core ctx now : Nat) : BitVec 32 :=
  let g := BitVec.ofNat 32 (fpmode.toNat / 2 ^ 32)
  let sel := field fpmode 8 2
  let g := if 1 ≤ sel then g ^^^ BitVec.ofNat 32 (core * 65536) ^^^ BitVec.ofNat 32 (ctx * 4096) else g
  let g := if sel = 2 then g ^^^ BitVec.ofNat 32 now else g
  if g = 0 then 0x9E3779B9 else g

end Sys2Proof.Machine
end

