-- ==== Sys2Proof/Machine/Ops.lean ====
section
/-!
DEFINITION. The named operations over units, words, the fault queues and contexts, among them taking a trap (R248,
R253) and returning from one (R249).
-/
namespace Sys2Proof.Machine

/-! ### Topology (R8, R9, R11, R172) -/

def dieOfCore (c : Nat) : Nat := c % 64 / 16
def clusterOf (c : Nat) : Nat := c / 8
def rowOf (c : Nat) : Nat := c / 64
def sliceEnd (s : Nat) : Nat := 1024 + s
def launcherEnd (d : Nat) : Nat := 1152 + d

/-- The die at which an endpoint lies (R172, R272). -/
def dieOfEnd (e : Nat) : Nat :=
  if e < 1024 then dieOfCore e
  else if e < 1152 then (e - 1024) / 32
  else if e < 1156 then e - 1152
  else if e < 1164 then (e - 1156) % 4
  else 0

/-- The home core and frame index of a handle (R91). -/
def hHome (h : Handle) : Nat := (h.extractLsb' 22 10).toNat
def hIndex (h : Handle) : Nat := (h.extractLsb' 8 14).toNat

/-! ### Units -/

def Mach.core (m : Mach) (c : Nat) : Core := Table.get m.cores c {}
def Mach.setCore (m : Mach) (c : Nat) (v : Core) : Mach := { m with cores := Table.set m.cores c v }
def Mach.modCore (m : Mach) (c : Nat) (f : Core → Core) : Mach := m.setCore c (f (m.core c))

/-- A context at reset: the control context is live at runtime privilege (R59, R60). -/
def freshCtx (x : Nat) : Ctx := if x = 0 then { live := true, rt := true } else {}

def Mach.ctx (m : Mach) (c x : Nat) : Ctx := Table.get m.ctxs (16 * c + x) (freshCtx x)
def Mach.setCtx (m : Mach) (c x : Nat) (v : Ctx) : Mach := { m with ctxs := Table.set m.ctxs (16 * c + x) v }
def Mach.modCtx (m : Mach) (c x : Nat) (f : Ctx → Ctx) : Mach := m.setCtx c x (f (m.ctx c x))

def Mach.me (m : Mach) : Ctx := m.ctx m.cur.core m.cur.ctx
def Mach.setMe (m : Mach) (v : Ctx) : Mach := m.setCtx m.cur.core m.cur.ctx v
def Mach.modMe (m : Mach) (f : Ctx → Ctx) : Mach := m.setMe (f m.me)
def Mach.myCore (m : Mach) : Core := m.core m.cur.core

def Mach.cluster (m : Mach) (c : Nat) : Cluster := Table.get m.clusters c {}
def Mach.setCluster (m : Mach) (c : Nat) (v : Cluster) : Mach := { m with clusters := Table.set m.clusters c v }
def Mach.modCluster (m : Mach) (c : Nat) (f : Cluster → Cluster) : Mach := m.setCluster c (f (m.cluster c))

def Mach.slice (m : Mach) (c : Nat) : Slice := Table.get m.slices c {}
def Mach.modSlice (m : Mach) (c : Nat) (f : Slice → Slice) : Mach :=
  { m with slices := Table.set m.slices c (f (m.slice c)) }

def Mach.die (m : Mach) (d : Nat) : Die := Table.get m.dies d {}
def Mach.modDie (m : Mach) (d : Nat) (f : Die → Die) : Mach := { m with dies := Table.set m.dies d (f (m.die d)) }

def Mach.diePart (m : Mach) (d p : Nat) : DiePart := Table.get m.dieParts (8 * d + p) {}
def Mach.modDiePart (m : Mach) (d p : Nat) (f : DiePart → DiePart) : Mach :=
  { m with dieParts := Table.set m.dieParts (8 * d + p) (f (m.diePart d p)) }

def Mach.part (m : Mach) (p : Nat) : Part := Table.get m.parts p {}
def Mach.modPart (m : Mach) (p : Nat) (f : Part → Part) : Mach := { m with parts := Table.set m.parts p (f (m.part p)) }

def Mach.queue (m : Mach) (p q : Nat) : Queue := Table.get (m.part p).queues q {}
def Mach.modQueue (m : Mach) (p q : Nat) (f : Queue → Queue) : Mach :=
  m.modPart p (fun x => { x with queues := Table.set x.queues q (f (Table.get x.queues q {})) })

/-- An identifier not used before. -/
def Mach.fresh (m : Mach) : Mach := { m with nextId := m.nextId + 1 }

/-! ### Partitions (R275, R276) -/

/-- Whether a core's row belongs to a partition. -/
def Mach.inPart (m : Mach) (p c : Nat) : Bool := decide (c < 1024) && (m.part p).rows.testBit (rowOf c)

/-- The partition of a core, if its row belongs to one. -/
def Mach.partOf (m : Mach) (c : Nat) : Option Nat := (List.range 8).find? (fun p => m.inPart p c)

/-- The first core of a partition's lowest row. -/
def Mach.firstCore (m : Mach) (p : Nat) : Nat := 64 * ((List.range 16).find? (fun r => (m.part p).rows.testBit r)).getD 0

/-- The partition of the issuing core. -/
def Mach.myPart (m : Mach) : Nat := (m.partOf m.cur.core).getD 0

/-- The cores of a partition, in ascending COREID. -/
def Mach.coresOf (m : Mach) (p : Nat) : List Nat := (List.range 1024).filter (fun c => m.inPart p c)

/-- A word of the partition control block (R276). (log 63, DESIGN CHOICE) -/
def Mach.pcb (m : Mach) (p off : Nat) : Nat := Mem.read m.mem ((m.part p).pcb * 4096 + off) 8

/-- Whether a core answers as fenced: it is fenced or switched off, in no partition, or in one that is being reset (R179,
R271, R279). -/
def Mach.isFenced (m : Mach) (c : Nat) : Bool :=
  (m.core c).fenced || (m.core c).off ||
  (match m.partOf c with
   | some p => (m.part p).state == .resetting
   | none => true)

/-! ### Scratchpad words (R18, R21, R133) -/

def Core.scratchSize (c : Core) : Nat := 0x200000 - c.carve * 0x20000
def Mach.scratchSize (m : Mach) (c : Nat) : Nat := (m.core c).scratchSize

def Mach.read (m : Mach) (k n : Nat) : Nat := Mem.read m.mem k n
def Mach.write (m : Mach) (k n v : Nat) : Mach := { m with mem := Mem.write m.mem k n v }
def Mach.word (m : Mach) (k : Nat) : Word := BitVec.ofNat 64 (m.read k 8)

def Mach.full (m : Mach) (k : Nat) : Bool := !m.empties.contains k
def Mach.fill (m : Mach) (k : Nat) : Mach := { m with empties := eraseNat m.empties k }
def Mach.empty (m : Mach) (k : Nat) : Mach := { m with empties := insertNat m.empties k }
def Mach.fillAll (m : Mach) (ks : List Nat) : Mach := ks.foldl Mach.fill m
def Mach.emptyAll (m : Mach) (ks : List Nat) : Mach := ks.foldl Mach.empty m

/-- Clears `n` bytes of a core's scratchpad and marks their words full (R13, R28). -/
def Mach.wipe (m : Mach) (c off n : Nat) : Mach :=
  { m with mem := Mem.clear m.mem (scratchKey c off) n,
           empties := m.empties.filter (fun k => !(scratchKey c off ≤ k && k < scratchKey c off + n)) }

/-! ### Fault queues (R254, R255) and MSI-X (R274) -/

/-- Raises an MSI-X vector of a partition's function. -/
def Mach.msix (m : Mach) (p v : Nat) : Mach := m.modPart p (fun x => { x with msix := insertNat x.msix v })

/-- An entry with the fields that no rule states at free values, the first being number `n`. (log 8, DEDUCED) -/
def FqEntry.filled (e : FqEntry) (n : Nat) : FqEntry :=
  { e with core := some (e.core.getD ((Config.freeWord n).toNat % 1024)),
           ctx := some (e.ctx.getD ((Config.freeWord (n + 1)).toNat % 16)),
           bad := some (e.bad.getD (Config.freeWord (n + 2))), pc := some (e.pc.getD (Config.freeWord (n + 3))) }

/-- Queues an entry; one that finds its share full is dropped and counted (R254). (log 8, DEDUCED) -/
def Mach.post (m : Mach) (d p : Nat) (e : FqEntry) : Mach :=
  let e := e.filled m.free
  let m := { m with free := m.free + 4 }
  let q := m.diePart d p
  if (q.fq.filter (fun x => x.2.held == e.held)).length < 4096 then
    let m := m.modDiePart d p (fun q => { q with fq := q.fq ++ [(q.seq, e)], seq := (q.seq + 1) % 65536 })
    if q.fq.isEmpty then m.msix p (d + 1) else m
  else m.modDiePart d p (fun q => { q with lost := min 65535 (q.lost + 1) })

/-- Queues an entry at a core's die for its partition. (log 8, DEDUCED) -/
def Mach.postAt (m : Mach) (c : Nat) (e : FqEntry) : Mach := m.post (dieOfCore c) ((m.partOf c).getD 0) e

/-- The fault-queue entry of an error reply (R134, R179, R255): cause, address, requesting core and instruction; a request
that has exhausted its re-sends has its entry already (R177). (log 8, DEDUCED) -/
def Mach.errorEntry (m : Mach) (c : Nat) (cause : Cause) (bad pc : Word) (ctx : Option Nat := none) : Mach :=
  if cause = .retransmitExhausted then m else m.postAt c { cause := cause.code, core := c, ctx := ctx, bad := bad, pc := pc }

/-- An entry about a handle: the handle and the applying core in its PC word (R101, R255). (log 47, DEDUCED) -/
def Mach.complainHandle (m : Mach) (c : Nat) (cause : Cause) (h : Handle) (applier : Nat) : Mach :=
  m.postAt c { cause := cause.code, core := c, pc := BitVec.ofNat 64 (h.toNat + applier * 0x100000000) }

/-- An entry in every die fault queue of a partition. -/
def Mach.postAll (m : Mach) (p : Nat) (e : FqEntry) : Mach :=
  (List.range 4).foldl (fun m d => m.post d p e) m

/-- The LW address of a scratchpad key. -/
def lwOf (k : Nat) : Word := BitVec.ofNat 64 (0xFC00000000000000 + keyOff k)

/-! ### Issue -/

/-- The word being issued, as BADADDR holds it (R305). -/
def Mach.wordBad (m : Mach) : Word := m.cur.word.setWidth 64

/-- The masked window once the instruction that issues is counted in it; an EFORK that was counted before it waited for a
slot is not counted again (R74). -/
def Ctx.windowAfter (x : Ctx) : Nat :=
  match x.wait with
  | .seqSlot _ _ true => x.window
  | _ => x.window - 1

/-- The issuing instruction has issued: the address issued last (R250) and the masked window (R74) move on. -/
def Ctx.issued (x : Ctx) : Ctx := { x with last := x.pc, window := x.windowAfter, wait := .none }

/-- The instruction completes and the context goes on at `pc`. -/
def Mach.doneAt (m : Mach) (pc : Word) : Mach := m.modMe (fun x => { x.issued with pc := pc })
/-- The instruction completes in sequence. -/
def Mach.done (m : Mach) : Mach := m.doneAt (m.me.pc + 4)

/-- The instruction has not issued: its context waits. -/
def Mach.stay (m : Mach) (w : Wait) : Mach := m.modMe (fun x => { x with wait := w })

/-- The instruction has issued and its context waits for a reply; it goes on after the instruction (R67). -/
def Mach.await (m : Mach) (k : Cont) : Mach :=
  m.modMe (fun x => { x.issued with pc := x.pc + 4, wait := .reply x.pc k })

/-- An LDS has issued and waits; its masked window, if one is open, counts it when its value returns (R160, R388). -/
def Mach.awaitSync (m : Mach) (id : Nat) : Mach :=
  m.modMe (fun x => { x with last := x.pc, pc := x.pc + 4, wait := .sync id })

/-- What a context waited for after issue has come. -/
def Ctx.waited (x : Ctx) : Ctx :=
  { x with wait := .none, window := match x.wait with | .sync _ => x.window - 1 | _ => x.window }

/-! ### Traps (R248, R249, R253) -/

/-- Whether a context is at level 1 (R59). -/
def levelOf (x : Nat) : Nat := if x = 11 then 1 else 0

/-- Trap entry in context `x` of core `c` (R248). (log 7, DEDUCED) -/
def Mach.enterTrap (m : Mach) (c x : Nat) (t : Trap) (pc : Word) : Mach :=
  let v := m.ctx c x
  let f := scratchKey c (v.wp + 1776)
  let bad := t.bad.getD (Config.freeWord m.free)
  let m := { m with free := if t.bad.isNone then m.free + 1 else m.free }
  let status := (if v.rt then 1 else 0) + 2 * v.window + 256 * levelOf x
  let m := m.write f 8 pc.toNat
  let m := m.write (f + 8) 8 t.cause.code
  let m := m.write (f + 16) 8 bad.toNat
  let m := m.write (f + 24) 8 t.brsrc.toNat
  let m := m.write (f + 32) 8 status
  let m := { m with scratchBad := m.scratchBad.filter (fun k => !(f ≤ k && k < f + 40)) }
  m.setCtx c x { v with trappc := pc, cause := BitVec.ofNat 64 t.cause.code, badaddr := bad, brsrc := t.brsrc,
                        window := 0, rt := true, trapped := true, wait := .none,
                        pc := BitVec.ofNat 64 (m.pcb ((m.partOf c).getD 0) 16) }

/-- The recoverable translation causes of a task (R140, R253). -/
def recoverable : Cause → Bool
  | .fetchXlate => true
  | .loadXlate => true
  | .storeXlate => true
  | _ => false

/-- The tickets of the held tasks of a die and partition. -/
def Mach.tickets (m : Mach) (d p : Nat) : List Nat :=
  ((m.cores.filter (fun e => m.inPart p e.1 && dieOfCore e.1 == d)).flatMap (fun e => e.2.holds)).map (·.ticket)

/-- The next ticket from `t` on that names no held task; at most 4,096 are held on a die (R253). -/
def nextTicket (taken : List Nat) : Nat → Nat → Nat
  | 0, t => t
  | n + 1, t => if taken.contains t then nextTicket taken n ((t + 1) % 65536) else t

/-- The task of context `x` becomes Held: a hold record, a ticket, an entry, and the context is free (R253), its registers as at
reset. (log 66, DESIGN CHOICE) -/
def Mach.hold (m : Mach) (c x : Nat) (t : Trap) (pc : Word) : Mach :=
  let d := dieOfCore c
  let p := (m.partOf c).getD 0
  let k := nextTicket (m.tickets d p) 4096 (m.diePart d p).ticket
  let v := m.ctx c x
  let m := m.modDiePart d p (fun q => { q with ticket := (k + 1) % 65536 })
  let m := m.modCore c (fun r => { r with holds := r.holds ++ [{ ticket := k, ctx := { v with pc := pc, wait := .none } }] })
  let m := m.setCtx c x (freshCtx x)
  m.post d p { cause := t.cause.code, core := c, ctx := x, held := true, ticket := k, bad := t.bad, pc := pc }

/-- A precise fault of context `x` at `pc`: held if it is a recoverable translation fault of a helper and a hold record
is free, otherwise trapped (R248, R253). -/
def Mach.raise (m : Mach) (c x : Nat) (t : Trap) (pc : Word) : Mach :=
  if recoverable t.cause && decide (0 < x) && decide (x < 11) &&
      decide ((m.core c).holds.length + (m.core c).resumed.length < 16) then m.hold c x t pc
  else m.enterTrap c x t pc

/-- Stage 4 of R305: a runtime-only encoding at task privilege. -/
def Mach.needRuntime (m : Mach) : Res Unit :=
  if m.me.rt then .ok () else .error { cause := .privileged, bad := m.wordBad }

/-- Return from the trap entry (R249); a window that the saved status does not reopen goes on (R74). (log 48, DEDUCED) -/
def Mach.returnFromTrap (m : Mach) : Res Mach :=
  let k := scratchKey m.cur.core (m.me.wp + 1808)
  let st := m.word k
  if m.scratchBad.contains k then .error { cause := .scratchUncorrectable, bad := lwOf k }
  else if 64 < field st 1 7 || field st 9 55 ≠ 0 then .error { cause := .reservedField }
  else .ok (m.modMe (fun x => { x.issued with
    trapped := false, rt := st.getLsbD 0, pc := x.trappc,
    window := if field st 1 7 = 0 then x.windowAfter else field st 1 7 }))

/-! ### Workspace pool (R59, R104, R363) -/

def Core.poolBase (c : Core) : Nat := field c.wspool 0 21
def Core.poolCount (c : Core) : Nat := field c.wspool 32 16
def Core.frameAt (c : Core) (i : Nat) : Nat := c.poolBase + 2048 * i

/-- The number of the pool frame at an LW offset, if it is one. -/
def Core.frameNo (c : Core) (off : Nat) : Option Nat :=
  if c.poolBase ≤ off && (off - c.poolBase) % 2048 = 0 && (off - c.poolBase) / 2048 < c.poolCount then
    some ((off - c.poolBase) / 2048)
  else none

/-- The lowest free pool frame: not the shadow, not the control context's, not taken, and not one that the control context
captured and left (R59, R76, R98). -/
def Mach.freeFrame (m : Mach) (c : Nat) : Option Nat :=
  let r := m.core c
  (List.range (r.poolCount - 1)).find? (fun i => !r.used.contains i && Table.get r.pins i 0 == 0 && some i != r.frameNo (m.ctx c 0).wp)

/-- The lowest free helper (R76). -/
def Mach.freeHelper (m : Mach) (c : Nat) : Option Nat :=
  (List.range 10).map (· + 1) |>.find? (fun x => !(m.ctx c x).live)

def nextGen (g : BitVec 8) : BitVec 8 := if g = 255 then 1 else g + 1

/-- Releases a pool frame: its generation advances (R104). The shadow stays reserved. -/
def Mach.releaseFrame (m : Mach) (c i : Nat) : Mach :=
  m.modCore c (fun r => { r with used := eraseNat r.used i, pins := Table.set r.pins i 0,
                                 gens := Table.set r.gens i (nextGen (Table.get r.gens i 0)) })

/-- Whether a live or held task runs on a pool frame. -/
def Mach.frameLive (m : Mach) (c i : Nat) : Bool :=
  let r := m.core c
  let off := r.frameAt i
  (List.range 12).any (fun x => (m.ctx c x).live && (m.ctx c x).wp == off) ||
  (r.holds ++ r.resumed).any (fun h => h.ctx.wp == off) || r.spill.any (fun e => e.1 == i)

/-- A task on frame `i` has ended: the frame is released unless pinned (R104). -/
def Mach.frameEnded (m : Mach) (c i : Nat) : Mach :=
  if Table.get (m.core c).pins i 0 = 0 then m.releaseFrame c i else m

/-- A by-reference closure frame was freed: its outer pin is given up if the generation matches (R104). -/
def Mach.unpinFrame (m : Mach) (c off : Nat) (g : BitVec 8) : Mach :=
  match (m.core c).frameNo off with
  | none => m
  | some i =>
    if Table.get (m.core c).gens i 0 = g then
      let n := Table.get (m.core c).pins i 0 - 1
      let m := m.modCore c (fun r => { r with pins := Table.set r.pins i n })
      if n = 0 && (m.core c).used.contains i && !m.frameLive c i then m.releaseFrame c i else m
    else m

/-! ### Stores to scratchpad words (R137, R150, R153) -/

/-- A store of bytes at a scratchpad home: words covered whole are good again, and an uncorrectable word written in part stays
so (R137). (log 74, DESIGN CHOICE) -/
def Mach.storeScratch (m : Mach) (bytes : List (Nat × Byte)) : Mach :=
  let whole := m.scratchBad.filter (fun k => (List.range 8).all (fun i => bytes.any (fun b => b.1 == k + i)))
  { m with mem := Mem.writeAll m.mem bytes, scratchBad := m.scratchBad.filter (fun k => !whole.contains k) }

/-- Whether a scratchpad key lies in a frame of its core: in the workspace pool or under a live context's WP.
(log 61, DEDUCED) -/
def Mach.inFrame (m : Mach) (c k : Nat) : Bool :=
  let r := m.core c
  (r.poolBase ≤ keyOff k && keyOff k < r.poolBase + 2048 * r.poolCount) ||
  (List.range 12).any (fun x => (m.ctx c x).live && (m.ctx c x).wp ≤ keyOff k && keyOff k < (m.ctx c x).wp + 2048)

/-- The first `n` stores of core `c` to its own window that are not yet performed are performed. (log 61, DEDUCED) -/
def Mach.performOwn (m : Mach) (c : Nat) : Nat → Mach
  | 0 => m
  | n + 1 =>
    match m.ownStores.find? (fun w => w.1 == c) with
    | none => m
    | some w => ({ m with ownStores := m.ownStores.eraseP (fun w => w.1 == c) }.storeScratch w.2).performOwn c n

/-- Every store of core `c` to its own window is performed, in program order (R153). (log 61, DEDUCED) -/
def Mach.settleOwn (m : Mach) (c : Nat) : Mach := m.performOwn c (m.ownStores.filter (fun w => w.1 == c)).length

/-- A context's store to its own window: performed at one instant for every observer, later than its issue or, in a frame, where
register reads look, at once (R150, R153). (log 61, DEDUCED) -/
def Mach.storeOwn (m : Mach) (c : Nat) (bytes : List (Nat × Byte)) : Mach :=
  if bytes.any (fun b => m.inFrame c b.1) then (m.settleOwn c).storeScratch bytes
  else { m with ownStores := m.ownStores ++ [(c, bytes)] }

/-! ### Late results outstanding (R19, R69) -/

/-- Whether a task of a core has a late result outstanding, join words included (R69). -/
def Mach.outstanding (m : Mach) (c task : Nat) : Bool :=
  m.pends.any (fun p => p.core == c && p.task == task && !p.quiet)

/-- A new late result of the issuing task: its destination words become empty (R19); `access` tells a load, atomic or gather
(R156). -/
def Mach.late (m : Mach) (words : List Nat) (l : Late) (access : Bool := false) : Mach :=
  let p : Pend := { id := m.nextId, core := m.cur.core, ctx := m.cur.ctx, task := m.me.task, words := words,
                    wasFull := words.filter m.full, late := l, access := access }
  { (m.emptyAll words).fresh with pends := m.pends ++ [p] }

def Mach.dropPend (m : Mach) (id : Nat) : Mach := { m with pends := m.pends.filter (fun p => p.id != id) }
def Mach.findPend (m : Mach) (id : Nat) : Option Pend := m.pends.find? (fun p => p.id == id)

/-- Changes the context that runs a task, live or held. -/
def Mach.modTask (m : Mach) (c task : Nat) (f : Ctx → Ctx) : Mach :=
  match (List.range 12).find? (fun x => (m.ctx c x).live && (m.ctx c x).task == task) with
  | some x => m.modCtx c x f
  | none =>
    m.modCore c (fun r => { r with
      holds := r.holds.map (fun h => if h.ctx.task = task then { h with ctx := f h.ctx } else h),
      resumed := r.resumed.map (fun h => if h.ctx.task = task then { h with ctx := f h.ctx } else h) })

/-- The live context number of a task. -/
def Mach.ctxOf (m : Mach) (c task : Nat) : Option Nat :=
  (List.range 12).find? (fun x => (m.ctx c x).live && (m.ctx c x).task == task)

end Sys2Proof.Machine
end

