-- ==== Sys2Proof/Machine/Xlate.lean ====
section
/-!
DEFINITION. Address classes (R130), translation (R138 to R142), the slice map (R147) and MemCheck (R333).
-/
namespace Sys2Proof.Machine

/-- The kinds of access that translate (R140). -/
inductive Kind where
  | fetch
  | load
  | store
  | atomic
  | engineRead
  | engineWrite
deriving DecidableEq, Repr, Inhabited

/-! ### Entries (R139) -/

def pteValid (e : Word) : Bool := e.getLsbD 0
def pteTable (e : Word) : Bool := e.getLsbD 1
def pteRd (e : Word) : Bool := e.getLsbD 2
def pteW (e : Word) : Bool := e.getLsbD 3
def pteX (e : Word) : Bool := e.getLsbD 4
def ptePk (e : Word) : Bool := e.getLsbD 5
def pteMt (e : Word) : Nat := field e 8 2
def pteCc (e : Word) : Nat := field e 10 2
def pteSz (e : Word) : Bool := e.getLsbD 52
def ptePa (e : Word) : Nat := field e 12 40 * 4096

/-- The block size of a parkable page (R108). -/
def pteBlock (e : Word) : Nat := 0x4000 * 4 ^ field e 6 2

/-- The page size of a leaf at a level (R138). -/
def pageSize (level : Nat) (sz : Bool) : Nat :=
  (if level = 2 then 0x40000000 else if level = 1 then 0x200000 else 0x1000) * (if sz then 16 else 1)

/-- The cause of an invalid entry (R140). -/
def xlateCause : Kind → Cause
  | .fetch => .fetchXlate
  | .load => .loadXlate
  | .store => .storeXlate
  | .atomic => .storeXlate
  | .engineRead => .engineXlate
  | .engineWrite => .engineXlate

/-- The permission a leaf fails, if any (R140). -/
def permCause (k : Kind) (e : Word) : Option Cause :=
  match k with
  | .fetch => if pteX e then none else some .fetchPerm
  | .load => if pteRd e then none else some .loadPerm
  | .store => if pteW e then none else some .storePerm
  | .atomic => if pteRd e && pteW e && !(pteMt e == 2 && pteCc e == 2) then none else some .atomicPerm
  | .engineRead => if pteRd e then none else some .loadPerm
  | .engineWrite => if pteW e then none else some .storePerm

/-- The end of HBM (R142), and whether a physical address lies in a partition's HBM range (R276). (log 50, PRESUMED) -/
def hbmEnd : Nat := 0xC000000000
/-- Whether a physical address lies in the HBM range of a partition (R276, R277). (log 63, DESIGN CHOICE) -/
def Mach.inHbm (m : Mach) (p pa : Nat) : Bool := decide (pa < hbmEnd) && m.pcb p 40 ≤ pa && pa < m.pcb p 48

/-- The memory type that the region of a physical address calls for (R142, R143); 3 for no region. (log 50, PRESUMED) -/
def regionType (pa : Nat) : Nat :=
  let r := pa / 2 ^ 48
  if r = 0 then 0 else if r = 1 then 2 else if r ≤ 9 then 1 else 3

/-- Whether a leaf is corrupt (R140): reserved bits, types, alignment, range, parkable conditions. -/
def leafCorrupt (level : Nat) (e : Word) : Bool :=
  let size := pageSize level (pteSz e)
  let pa := ptePa e
  field e 53 11 != 0 || decide (3 ≤ level) || pteCc e == 3 || pteMt e == 3 || pteMt e != regionType pa || pa % size != 0 ||
  (pteMt e == 0 && decide (hbmEnd < pa + size)) || (ptePk e && (field e 6 2 == 3 || decide (size < pteBlock e)))

/-- The index of a virtual address at a level (R138). -/
def vaIndex (level va : Nat) : Nat := if level = 4 then va / 2 ^ 48 % 256 else va / 2 ^ (12 + 9 * level) % 512

/-- The 128-byte line of a physical address. -/
def lineOf (pa : Nat) : Nat := pa / 128

/-- The cause that a read of a line of backing memory finds (R143, R144). -/
def Mach.lineBad (m : Mach) (pa : Nat) : Option Cause :=
  let l := lineOf pa
  if m.poisoned.contains l then some .poisonConsumed
  else if m.l2Bad.contains l then some .l2Uncorrectable
  else if m.hbmBad.contains l && regionType pa != 1 then some (if regionType pa = 2 then .hostAbort else .hbmUncorrectable)
  else none

/-- What a read of a line of backing memory finds, and the machine with the line marked (R144). -/
def Mach.readBad (m : Mach) (pa : Nat) : Option Cause × Mach :=
  let l := lineOf pa
  match m.lineBad pa with
  | some .l2Uncorrectable => (some .l2Uncorrectable, { m with poisoned := insertNat m.poisoned l, l2Bad := eraseNat m.l2Bad l })
  | some .hbmUncorrectable => (some .hbmUncorrectable, { m with poisoned := insertNat m.poisoned l, hbmBad := eraseNat m.hbmBad l })
  | e => (e, m)

/-- Whether a new home still waits for the retired slice's writeback of a line, or for the stores to it that the retired
slice has yet to perform at a peer (R148). (log 36, DEDUCED) -/
def Mach.lineHeld (m : Mach) (pa : Nat) : Bool :=
  m.slices.any (fun s => s.2.retired && (s.2.unwritten.contains (lineOf pa) ||
    s.2.peerStores.any (fun w => w.bytes.any (fun b => lineOf b.1 == lineOf pa))))

/-- The stack of an HBM address, and whether its traffic is held for its temperature (R142, R269). -/
def stackOf (pa : Nat) : Nat := pa / 0xC00000000
def Mach.stackHeld (m : Mach) (pa : Nat) : Bool :=
  regionType pa == 0 && decide (pa < hbmEnd) && m.bands.getD (stackOf pa) 0 == 3

/-- Whether accesses to a physical address wait at its home (R148, R269). -/
def Mach.memHeld (m : Mach) (pa : Nat) : Bool := m.lineHeld pa || m.stackHeld pa

/-- Why a translation gives no address: the cause; the physical address of an entry whose line reads bad, which the reading
marks (R144); and whether the walk has come to an entry that is held at its home, in which case it waits (R138, R269). -/
structure Miss where
  cause : Cause
  entry : Option Nat := none
  held : Bool := false
deriving DecidableEq, Repr, Inhabited

/-- The trap of a translation that an instruction makes (R140). -/
def Miss.trap (e : Miss) (va : Word) : Trap := { cause := e.cause, bad := va, held := e.held }

/-- The line of a table entry that read bad is marked (R144). -/
def Mach.marked (m : Mach) (entry : Option Nat) : Mach :=
  match entry with
  | some pa => (m.readBad pa).2
  | none => m

/-- A walk for an access of the issuing instruction to `va` has met an entry in a bad line: the line is marked, and the access
has an error reply (R134, R144). (log 49, DEDUCED) -/
def Mach.walkReply (m : Mach) (va : Word) (e : Miss) : Mach :=
  (m.marked e.entry).errorEntry m.cur.core e.cause va m.me.pc (some m.cur.ctx)

/-- One table walk from a table at `t` down `level` (R138, R140): a leaf, or why there is none. An entry in a line that reads
bad ends the walk with the cause that any read of it finds (R144). (log 49, DEDUCED) -/
def Mach.walkFrom (m : Mach) (p va : Nat) (k : Kind) : Nat → Nat → Except Miss Leaf
  | level, t =>
    if !m.inHbm p t then .error { cause := .pageTableCorrupt }
    else
      let i := vaIndex level va
      if m.memHeld (t + 8 * i) then .error { cause := xlateCause k, held := true }
      else match m.lineBad (t + 8 * i) with
      | some c => .error { cause := c, entry := t + 8 * i }
      | none =>
        let e : Word := BitVec.ofNat 64 (m.read (t + 8 * i) 8)
        if !pteValid e then .error { cause := xlateCause k }
        else if pteTable e then
          if field e 53 11 != 0 || field e 2 10 != 0 || pteSz e then .error { cause := .pageTableCorrupt }
          else
            match level with
            | 0 => .error { cause := .pageTableCorrupt }
            | n + 1 => m.walkFrom p va k n (ptePa e)
        else if leafCorrupt level e then .error { cause := .pageTableCorrupt }
        else
          let g : Word := BitVec.ofNat 64 (m.read (t + 8 * (i - i % 16)) 8)
          if pteSz e && !(pteValid g && !pteTable g && pteSz g) then .error { cause := .pageTableCorrupt }
          else
            match permCause k e with
            | some c => .error { cause := c }
            | none =>
              let size := pageSize level (pteSz e)
              .ok { va := va - va % size, size := size, pte := e }

/-- Whether a partition's control block is held at its home (R269, R276). -/
def Mach.pcbHeld (m : Mach) (p : Nat) : Bool := m.memHeld ((m.part p).pcb * 4096)

/-- The walk of a partition's table from its root (R138, R276). -/
def Mach.walk (m : Mach) (p va : Nat) (k : Kind) : Except Miss Leaf :=
  if m.pcbHeld p then .error { cause := xlateCause k, held := true } else m.walkFrom p va k 4 (m.pcb p 0)

def Leaf.covers (l : Leaf) (va : Nat) : Bool := l.va ≤ va && va < l.va + l.size

/-- A TLB with one more leaf; when it is full the oldest leaf goes (R141). (log 12, DESIGN CHOICE) -/
def tlbAdd (cap : Nat) (t : List Leaf) (l : Leaf) : List Leaf :=
  if t.contains l then t else (if cap ≤ t.length then t.drop 1 else t) ++ [l]

/-- Whether a leaf of a cluster's TLB is covered by an invalidation that core `c` has acknowledged and the cluster has yet to
perform: the core takes it no more (R421). -/
def Mach.staleLeaf (m : Mach) (c : Nat) (l : Leaf) : Bool :=
  m.invals.any (fun v => m.partOf v.core == m.partOf c && v.todo.contains (2048 + clusterOf c) && !v.todo.contains c &&
    (match v.va with | some a => l.covers a | none => true))

/-- Finds the leaf for a virtual address in the core's TLB, then its cluster's, then by a walk (R141, R421). -/
def Mach.lookup (m : Mach) (c va : Nat) (k : Kind) : Except Miss (Leaf × Mach) :=
  match (m.core c).tlb.filter (fun l => l.covers va) with
  | _ :: _ :: _ => .error { cause := .tlbMultihit }
  | [l] => .ok (l, m)
  | [] =>
    let near := (m.cluster (clusterOf c)).tlb.filter (fun l => l.covers va)
    match near.filter (fun l => !m.staleLeaf c l) with
    | _ :: _ :: _ => .error { cause := .tlbMultihit }
    | [l] => .ok (l, m.modCore c (fun r => { r with tlb := tlbAdd 256 r.tlb l }))
    | [] =>
      match m.walk ((m.partOf c).getD 0) va k with
      | .error e => .error e
      | .ok l =>
        let m := m.modCore c (fun r => { r with tlb := tlbAdd 256 r.tlb l })
        .ok (l, if near.isEmpty then m.modCluster (clusterOf c) (fun r => { r with tlb := tlbAdd 4096 r.tlb l }) else m)

/-- Translate (R140): the physical address, the leaf's entry, and the machine with its TLBs updated. -/
def Mach.translate (m : Mach) (c va : Nat) (k : Kind) : Except Miss (Nat × Word × Mach) :=
  match m.lookup c va k with
  | .error e => .error e
  | .ok (l, m) =>
    match permCause k l.pte with
    | some e => .error { cause := e }
    | none => .ok (ptePa l.pte + (va - l.va), l.pte, m)

/-- Whether a core's translation of an address waits for an entry held at its home. -/
def Mach.walkHeld (m : Mach) (c : Nat) (va : Word) : Bool :=
  match m.lookup c va.toNat .load with
  | .error e => e.held
  | .ok _ => false

/-- A precise fault of the issuing instruction, which is the one issued last (R250); it waits, unissued, for a walk that waits
(R66, R269). -/
def Mach.trapMe (m : Mach) (t : Trap) : Mach :=
  if t.held then m.stay (.walk (t.bad.getD 0))
  else (m.modMe (fun x => { x with last := x.pc })).raise m.cur.core m.cur.ctx t m.me.pc

/-- What an instruction leaves: its effect, or the state before it with the trap taken. -/
def Mach.settle (m : Mach) : Res Mach → Mach
  | .ok t => t
  | .error t => m.trapMe t

/-! ### The slice map (R143, R147) -/

/-- The die of a physical address. -/
def dieOfPa (pa : Nat) : Nat :=
  if pa / 2 ^ 48 = 0 then pa / 0xC00000000 / 4 % 4 else (pa / 2 ^ 14 % 4) ^^^ (pa / 2 ^ 16 % 4)

/-- The exclusive or of the nine 5-bit chunks of [51:7]. -/
def sliceHash (g : Nat) : Nat := (List.range 9).foldl (fun x i => x ^^^ (g / 2 ^ (7 + 5 * i) % 32)) 0

/-- The package number of the home slice of a physical address under tables `map` of the dies, hashed in units of `u`
bytes: every byte of a unit has the home of the unit's first (R109, R147). -/
def sliceBy (map : Nat → List Nat) (pa u : Nat) : Nat :=
  let g := pa - pa % u
  dieOfPa g * 32 + (map (dieOfPa g)).getD (sliceHash g) 0

/-- The home slice under the current tables. -/
def Mach.sliceOf (m : Mach) (pa u : Nat) : Nat := sliceBy (fun d => (m.die d).map) pa u

/-- The copy of a die's table that a core or a launcher holds, by endpoint number (R147, R172). -/
def Mach.mapCopy (m : Mach) (unit d : Nat) : MapCopy :=
  if unit < 1024 then Table.get (m.core unit).maps d {} else Table.get (m.die (unit - 1152)).maps d {}

/-- The home slice as a holder hashes it. -/
def Mach.sliceFor (m : Mach) (unit pa u : Nat) : Nat := sliceBy (fun d => (m.mapCopy unit d).map) pa u

/-- A holder's copy of a die's table replaced. -/
def Mach.setMap (m : Mach) (unit d : Nat) (c : MapCopy) : Mach :=
  if unit < 1024 then m.modCore unit (fun r => { r with maps := Table.set r.maps d c })
  else m.modDie (unit - 1152) (fun r => { r with maps := Table.set r.maps d c })

/-- A holder takes the table that a die has published (R147, R148). -/
def Mach.takeMap (m : Mach) (unit d : Nat) : Mach := m.setMap unit d { gen := (m.die d).mapGen, map := (m.die d).map }

/-- The unit by which a page is hashed. -/
def hashUnit (pte : Word) : Nat := if ptePk pte then pteBlock pte else 128

/-! ### MemCheck (R130, R132, R142, R333) -/

/-- Where a checked access goes: the own window, another core's window, or a physical address with its entry; one that
`failed` has its error reply, and reads zero and stores nothing (R134, R144). -/
inductive Place where
  | local (key : Nat)
  | remote (core key : Nat)
  | global (pa : Nat) (pte : Word)
  | failed
deriving DecidableEq, Repr, Inhabited

def classOf (a : Word) : Nat := field a 56 8
def isGv (a : Word) : Bool := classOf a == 0x00
def isLw (a : Word) : Bool := classOf a == 0xFC
def isCg (a : Word) : Bool := classOf a == 0xF0
def isFa (a : Word) : Bool := classOf a == 0xF8

/-- The offset of an LW, CG or FA address, and the core of a CG address. -/
def offOf (a : Word) : Nat := field a 0 21
def coreOf (a : Word) : Nat := field a 24 10

/-- Whether the must-be-zero bits of an address of its class are zero (R130). -/
def classOk (a : Word) : Bool :=
  isGv a || (isLw a && field a 21 35 == 0) || (isCg a && field a 34 22 == 0 && field a 21 3 == 0)

/-- The peer of a physical address is not assigned or its links are down (R142). (log 50, PRESUMED) -/
def Mach.peerGone (m : Mach) (pa : Nat) : Bool :=
  regionType pa == 1 && (!m.peers.contains (pa / 2 ^ 48 - 2) || m.peersDown.contains (pa / 2 ^ 48 - 2))

/-- The own window for an access of a kind: any but a store comes after every store of the core's contexts there (R153).
(log 61, DEDUCED) -/
def Mach.ownPlace (m : Mach) (c : Nat) (a : Word) (k : Kind) : Place × Mach :=
  (.local (scratchKey c (offOf a)), if k = .store then m else m.settleOwn c)

/-- MemCheck, by a core. A CG address of its own core lies in its own window, in program order with its LW accesses
(R130, R153). (log 49, DEDUCED) -/
def Mach.memCheck (m : Mach) (a : Word) (n : Nat) (k : Kind) : Res (Place × Mach) :=
  let c := m.cur.core
  if !classOk a then .error { cause := .addressClass, bad := a }
  else if a.toNat % n ≠ 0 then .error { cause := .misalignedData, bad := a }
  else if isLw a then
    if m.scratchSize c ≤ offOf a then .error { cause := .windowBounds, bad := a }
    else .ok (m.ownPlace c a k)
  else if isCg a then
    if !m.inPart m.myPart (coreOf a) then .error { cause := .partitionViolation, bad := a }
    else if coreOf a = c && decide (offOf a < m.scratchSize c) then .ok (m.ownPlace c a k)
    else .ok (.remote (coreOf a) (scratchKey (coreOf a) (offOf a)), m)
  else
    match m.translate c a.toNat k with
    | .error e => if e.entry.isSome then .ok (.failed, m.walkReply a e) else .error (e.trap a)
    | .ok (pa, pte, m) =>
      if m.peerGone pa then .error { cause := .peerUnreachable, bad := a } else .ok (.global pa pte, m)

/-- PolicyHash (R146) and the class of a load (R26): 0 stream, 1 normal, 2 keep. -/
def policyHash (va : Nat) : Nat :=
  (va / 2 ^ 7 % 65536) ^^^ (va / 2 ^ 23 % 65536) ^^^ (va / 2 ^ 39 % 65536) ^^^ (va / 2 ^ 55 % 2)

def policyClass (policy : Word) (cc va : Nat) : Nat :=
  if cc = 1 then 0
  else if policyHash va < field policy 16 16 then 2
  else if field policy 0 16 < policyHash va then 0
  else 1

end Sys2Proof.Machine
end

