-- ==== Sys2Proof/Machine/Shape.lean ====
section
/-!
DEFINITION. Shape records (R222 to R224, R226), bank formats (R29, R135) and where elements lie. A record is the 384-bit
number of its 48 bytes.
-/
namespace Sys2Proof.Machine

/-- `len` bits of a number from bit `lo`. -/
def nbits (r lo len : Nat) : Nat := r / 2 ^ lo % 2 ^ len

/-- A number of `w` bits as a signed integer. -/
def signed (w v : Nat) : Int := if 2 ^ (w - 1) ≤ v then (v : Int) - (2 ^ w : Nat) else v

def recBase (r : Nat) : Word := BitVec.ofNat 64 (nbits r 0 64)
def recFmt (r : Nat) : Nat := nbits r 64 5
def recLsz (r : Nat) : Nat := nbits r 72 2
def recDir (r : Nat) : Bool := r.testBit 80
def recFe (r : Nat) : Bool := r.testBit 81
def recDims (r : Nat) : Nat := nbits r 88 3
def recExtent (r d : Nat) : Nat := nbits r (128 + 16 * d) 16
def recStride (r d : Nat) : Int := signed 32 (nbits r (224 + 32 * d) 32)

/-- The six words of a record as its number. -/
def recOf (ws : List Word) : Nat := ofBytes (ws.flatMap (fun w => toBytes 8 w.toNat))

/-- Whether a zero bit of a record is set (R222). -/
def recReserved (r : Nat) : Bool :=
  nbits r 69 3 != 0 || nbits r 74 6 != 0 || nbits r 82 6 != 0 || nbits r 91 37 != 0 || nbits r 208 16 != 0

/-- Plain formats are addressed by bytes, indexed ones by element number (R223). -/
def indexed (f : Nat) : Bool := decide (f = 6) || decide (f = 7) || decide (f = 8) || decide (10 ≤ f)

/-- Bits of an element of a format; RAW elements have 2^LSZ bytes (R135, R223). -/
def elemBits (f lsz : Nat) : Nat :=
  match f with
  | 0 => 8 * 2 ^ lsz
  | 1 => 32 | 2 => 16 | 3 => 16 | 4 => 8 | 5 => 8 | 6 => 6 | 7 => 6 | 8 => 4 | 9 => 8 | 10 => 4
  | 11 => 8 | 12 => 6 | 13 => 4 | 14 => 4 | 15 => 8 | _ => 4

/-- Elements and bytes of a unit of an indexed format, and units in a bank (R135). -/
def unitElems (f : Nat) : Nat :=
  match f with
  | 6 => 4 | 7 => 4 | 8 => 2 | 10 => 2 | 11 => 48 | 12 => 48 | 13 => 48 | 14 => 128 | 15 => 256 | 16 => 256 | _ => 1
def unitBytes (f : Nat) : Nat :=
  match f with
  | 6 => 3 | 7 => 3 | 8 => 1 | 10 => 1 | 11 => 56 | 12 => 44 | 13 => 32 | 14 => 80 | 15 => 264 | 16 => 136 | _ => 1
def bankUnits (f : Nat) : Nat :=
  match f with
  | 6 => 10922 | 7 => 10922 | 8 => 32768 | 10 => 32768 | 11 => 585 | 12 => 744 | 13 => 1024 | 14 => 409
  | 15 => 124 | 16 => 240 | _ => 32768

/-- Elements of a block that shares a scale (R204 to R206); 0: none. -/
def blockElems (f : Nat) : Nat :=
  match f with
  | 11 => 16 | 12 => 16 | 13 => 16 | 14 => 8 | 15 => 32 | 16 => 32 | _ => 0

/-- Whether LSZ suits the format (R223). -/
def lszOk (f lsz : Nat) : Bool :=
  if f = 0 then true else if indexed f then lsz == 0 else 8 * 2 ^ lsz == elemBits f 0

/-- The extents and strides of the dimensions that iterate. -/
def recAxes (r : Nat) : List (Nat × Int) := (List.range (min 5 (recDims r))).map (fun d => (recExtent r d, recStride r d))

/-- The number of elements. -/
def recCount (r : Nat) : Nat := (recAxes r).foldl (fun n a => n * a.1) 1

/-- The indices of the k-th element in iteration order, dimension 0 first (R222). -/
def indicesFrom : List (Nat × Int) → Nat → List Nat
  | [], _ => []
  | (e, _) :: t, k => (k % max 1 e) :: indicesFrom t (k / max 1 e)
def recIndices (r k : Nat) : List Nat := indicesFrom (recAxes r) k

/-- The offset of the k-th element: the sum of index times stride. -/
def offsetFrom : List (Nat × Int) → Nat → Int
  | [], _ => 0
  | (e, s) :: t, k => ((k % max 1 e : Nat) : Int) * s + offsetFrom t (k / max 1 e)
def recOffset (r k : Nat) : Int := offsetFrom (recAxes r) k

/-- The least and greatest offset. -/
def recMin (r : Nat) : Int := (recAxes r).foldl (fun n a => n + min 0 (((a.1 : Int) - 1) * a.2)) 0
def recMax (r : Nat) : Int := (recAxes r).foldl (fun n a => n + max 0 (((a.1 : Int) - 1) * a.2)) 0

/-- All distinct offsets. -/
def offsetsOf : List (Nat × Int) → List Int
  | [] => [0]
  | (e, s) :: t => ((offsetsOf t).flatMap (fun o => (List.range e).map (fun (i : Nat) => o + (i : Int) * s))).eraseDups

/-- The number of the first element of BASE's unit, in its bank (R223). -/
def firstElem (r : Nat) : Nat :=
  if isGv (recBase r) then 0 else offOf (recBase r) % 32768 / unitBytes (recFmt r) * unitElems (recFmt r)

/-- Where an element lies: the bytes from BASE's address modulo its bank (scratchpad) or from BASE (GV) to the unit's
first byte, the unit number in the bank, and the bit within the unit. -/
structure Spot where
  addr : Word
  unit : Nat
  elem : Nat
  bit : Nat
deriving DecidableEq, Repr, Inhabited

/-- The spot of the element at an offset, from base `b` (R223). For plain formats the unit is the element itself. -/
def spotAt (r : Nat) (b : Word) (o : Int) : Spot :=
  let f := recFmt r
  if !indexed f then { addr := BitVec.ofInt 64 ((b.toNat : Int) + o), unit := 0, elem := 0, bit := 0 }
  else
    let n := ((firstElem r : Int) + o).toNat
    let u := unitElems f
    if isGv b then
      { addr := b + BitVec.ofNat 64 (n / u * unitBytes f), unit := n / u, elem := n % u,
        bit := n % u * elemBits f 0 }
    else
      let bank := offOf b / 32768 + n / (u * bankUnits f)
      let k := n % (u * bankUnits f)
      { addr := b - BitVec.ofNat 64 (offOf b) + BitVec.ofNat 64 (bank * 32768 + k / u * unitBytes f), unit := k / u,
        elem := k % u, bit := k % u * elemBits f 0 }

def recSpot (r k : Nat) : Spot := spotAt r (recBase r) (recOffset r k)

/-- Bytes that an element with bits from `bit` of its unit touches. -/
def Spot.byte (s : Spot) : Word := s.addr + BitVec.ofNat 64 (s.bit / 8)
def spanBytes (f lsz : Nat) (s : Spot) : Nat := (s.bit % 8 + elemBits f lsz + 7) / 8

/-- The scratchpad banks that a record named by core `c` touches, each with its core: of an element, those of its first and its
last byte (R223, R224). (log 28, DEDUCED) -/
def recBanks (c r : Nat) : List (Nat × Nat) :=
  let b := recBase r
  ((offsetsOf (recAxes r)).flatMap (fun o =>
    let s := spotAt r b o
    [s.byte, s.byte + BitVec.ofNat 64 (spanBytes (recFmt r) (recLsz r) s - 1)].filterMap (fun a =>
      if field a 34 30 = field b 34 30 then some (if isCg b then coreOf a else c, field a 0 24 / 32768) else none))).eraseDups

/-- SHAPE_OVERLAP (R224): dimensions by ascending stride, each at least the span of those before. -/
def insertAxis (a : Nat × Int) : List (Nat × Int) → List (Nat × Int)
  | [] => [a]
  | b :: t => if a.2.natAbs ≤ b.2.natAbs then a :: b :: t else b :: insertAxis a t
def overlapFrom : Nat → List (Nat × Int) → Bool
  | _, [] => false
  | span, (e, s) :: t => decide (s.natAbs < span) || overlapFrom (s.natAbs * (e - 1) + span) t
def recOverlap (r : Nat) : Bool :=
  overlapFrom (if indexed (recFmt r) then 1 else elemBits (recFmt r) (recLsz r) / 8)
    (((recAxes r).filter (fun a => decide (1 < a.1))).foldr insertAxis [])

/-- FE = 1 on a destination: dimension 0 covers whole words and runs begin at word boundaries; a run that goes on in the next
bank leaves no part of a word at the end of the last (R226). -/
def recWholeWords (r : Nat) : Bool :=
  let f := recFmt r
  let one : Int := if indexed f then 1 else elemBits f (recLsz r) / 8
  let bank := unitElems f * bankUnits f
  recStride r 0 == one && recExtent r 0 * elemBits f (recLsz r) % 64 == 0 &&
  (offsetsOf ((recAxes r).drop 1)).all (fun o =>
    let s := spotAt r (recBase r) o
    let n := ((firstElem r : Int) + o).toNat
    (s.addr.toNat * 8 + s.bit) % 64 == 0 &&
    (!indexed f || blockElems f != 0 || bank * elemBits f 0 % 64 == 0 || n / bank == (n + recExtent r 0 - 1) / bank))

/-- The scratchpad banks whose BANKFMT the check reads, with their cores: those that exist, of another core only where that core
answers the issuing core (R29, R224). (log 28, DEDUCED) -/
def Mach.readBanks (m : Mach) (c r : Nat) : List (Nat × Nat) :=
  (recBanks c r).filter (fun k => (!isCg (recBase r) || (!m.isFenced k.1 && m.partOf k.1 == m.partOf c)) &&
    decide (k.2 < m.scratchSize k.1 / 32768))

/-- The LW offset after the last byte of the element of an indexed record with the greatest number (R223, R224). -/
def recEnd (r : Nat) : Nat :=
  let f := recFmt r
  let n := ((firstElem r : Int) + recMax r).toNat
  let u := unitElems f
  let k := n % (u * bankUnits f)
  (offOf (recBase r) / 32768 + n / (u * bankUnits f)) * 32768 + k / u * unitBytes f + (k % u * elemBits f 0 + elemBits f 0 + 7) / 8

/-- The checks of R224 in their order, for a record named by core `c`: `ok` tells which classes the command allows,
`dest` whether the record is a destination. (log 80, DESIGN CHOICE) -/
def Mach.checkRecord (m : Mach) (c r : Nat) (ok : Word → Bool) (dest : Bool) : Option Cause :=
  let f := recFmt r
  let b := recBase r
  let empty := recCount r == 0
  if recReserved r then some .reservedField
  else if recDims r == 0 || decide (5 < recDims r) || decide (0x10 < f) || !lszOk f (recLsz r) ||
      (indexed f && !empty && decide ((firstElem r : Int) + recMin r < 0)) then some .shapeExtent
  else if !ok b || !classOk b || (recFe r && isGv b) then some .addressClass
  else if isLw b && !empty &&
      (decide ((offOf b : Int) + (if indexed f then 0 else recMin r) < 0) ||
       (decide ((m.scratchSize c : Int) < (if indexed f then (recEnd r : Int)
          else (offOf b : Int) + recMax r + ((elemBits f (recLsz r) / 8 : Nat) : Int))))) then some .windowBounds
  else if (if indexed f then !isGv b && (offOf b % 32768 % unitBytes f != 0 || decide (bankUnits f ≤ offOf b % 32768 / unitBytes f))
           else b.toNat % (elemBits f (recLsz r) / 8) != 0) || (recFe r && dest && !recWholeWords r) then
    some .shapeAlign
  else if !isGv b && !empty &&
      (m.readBanks c r).any (fun k => (m.core k.1).bankfmt.getD k.2 f != f) then some .bankFormatMismatch
  else if dest && recOverlap r then some .shapeOverlap
  else none

end Sys2Proof.Machine
end

