-- ==== Sys2Proof/Machine/Operands.lean ====
section
/-!
DEFINITION. Operand reads and writes of the register classes (R14, R16, R18, R20, R22) and the stream ports v12 to v15
(R187, R408, R409). Registers are the words of the issuing context's frame.
-/
namespace Sys2Proof.Machine

/-- The key of a frame offset of the issuing context. -/
def Mach.regKey (m : Mach) (off : Nat) : Nat := scratchKey m.cur.core (m.me.wp + off)

/-- Check of a word read through an operand field (R22, R137). -/
def Mach.needWord (m : Mach) (k : Nat) : Res Unit :=
  if !m.full k then .error { cause := .hazardRead, bad := m.wordBad }
  else if m.scratchBad.contains k then .error { cause := .scratchUncorrectable, bad := lwOf k }
  else .ok ()

/-- `needWord` of each word in turn. -/
def Mach.needWords (m : Mach) : List Nat → Res Unit
  | [] => .ok ()
  | k :: t => match m.needWord k with | .ok () => m.needWords t | .error e => .error e

/-- A register write of `n` bytes: the word is full, and if it is written whole its check symbols are fresh (R20, R137); a write
of part of an uncorrectable word leaves it so. (log 74, DESIGN CHOICE) -/
def Mach.putReg (m : Mach) (k n v : Nat) : Mach :=
  { (m.write k n v).fill (wordOf k) with scratchBad := if 8 ≤ n then eraseNat m.scratchBad (wordOf k) else m.scratchBad }

/-! ### w registers -/

def Mach.wKey (m : Mach) (n : BitVec 5) : Nat := m.regKey (8 * n.toNat)

/-- The value of w[n]; w0 is zero. -/
def Mach.w (m : Mach) (n : BitVec 5) : Word := if n = 0 then 0 else m.word (m.wKey n)

def Mach.readW (m : Mach) (n : BitVec 5) : Res Word :=
  if n = 0 then .ok 0 else (m.needWord (m.wKey n)).map (fun _ => m.word (m.wKey n))

/-- w[n] written in the pipeline; w0 discards. -/
def Mach.writeW (m : Mach) (n : BitVec 5) (v : Word) : Mach := if n = 0 then m else m.putReg (m.wKey n) 8 v.toNat

/-- The destination words of a late result to w[n]. -/
def Mach.lateW (m : Mach) (n : BitVec 5) : List Nat := if n = 0 then [] else [m.wKey n]

/-! ### m registers -/

def Mach.mKey (m : Mach) (n : BitVec 3) : Nat := m.regKey (1280 + 2 * n.toNat)

def Mach.mask (m : Mach) (n : BitVec 3) : BitVec 16 := if n = 0 then 0xFFFF else BitVec.ofNat 16 (m.read (m.mKey n) 2)

def Mach.readM (m : Mach) (n : BitVec 3) : Res (BitVec 16) :=
  if n = 0 then .ok 0xFFFF else (m.needWord (wordOf (m.mKey n))).map (fun _ => m.mask n)

def Mach.writeM (m : Mach) (n : BitVec 3) (v : BitVec 16) : Mach := if n = 0 then m else m.putReg (m.mKey n) 2 v.toNat

/-! ### k and sh registers -/

def Mach.kKey (m : Mach) (n : BitVec 3) : Nat := m.regKey (1296 + 4 * n.toNat)

def Mach.k (m : Mach) (n : BitVec 3) : Handle := BitVec.ofNat 32 (m.read (m.kKey n) 4)

def Mach.readK (m : Mach) (n : BitVec 3) : Res Handle := (m.needWord (wordOf (m.kKey n))).map (fun _ => m.k n)

def Mach.writeK (m : Mach) (n : BitVec 3) (v : Handle) : Mach := m.putReg (m.kKey n) 4 v.toNat

def Mach.shKeys (m : Mach) (n : BitVec 2) : List Nat := (List.range 6).map (fun i => m.regKey (1328 + 48 * n.toNat + 8 * i))

def Mach.readSh (m : Mach) (n : BitVec 2) : Res (List Word) :=
  (m.needWords (m.shKeys n)).map (fun _ => (m.shKeys n).map m.word)

/-! ### v registers -/

/-- The 64 bytes of a vector register; lane i is bits [32i+31:32i] (R14). -/
abbrev V := BitVec 512

def lane (v : V) (i : Nat) : BitVec 32 := v.extractLsb' (32 * i) 32

/-- A vector from its 16 lanes. -/
def lanesOf (f : Nat → BitVec 32) : V :=
  BitVec.ofNat 512 ((List.range 16).foldr (fun i n => (f i).toNat + 2 ^ 32 * n) 0)

/-- The active lanes of `x`, the other lanes of `y` (R424). -/
def blend (mask : BitVec 16) (x y : V) : V := lanesOf (fun i => if mask.getLsbD i then lane x i else lane y i)

def Mach.vKey (m : Mach) (n : BitVec 4) : Nat := m.regKey (256 + 64 * n.toNat)
def Mach.vKeys (m : Mach) (n : BitVec 4) : List Nat := (List.range 8).map (fun i => m.vKey n + 8 * i)

/-- The image of v[n] in the frame. -/
def Mach.vimage (m : Mach) (n : BitVec 4) : V := BitVec.ofNat 512 (m.read (m.vKey n) 64)
def Mach.putImage (m : Mach) (n : BitVec 4) (v : V) : Mach :=
  { (m.write (m.vKey n) 64 v.toNat).fillAll (m.vKeys n) with
    scratchBad := m.scratchBad.filter (fun k => !(m.vKeys n).contains k) }

/-- The state of the port of v[n]. -/
def Mach.port (m : Mach) (n : BitVec 4) : Port := if n.toNat < 12 then .unbound else m.me.ports.getD (n.toNat - 12) .unbound
/-- Whether v[n] is a write-bound port. -/
def Mach.writeBound (m : Mach) (n : BitVec 4) : Bool :=
  match m.port n with
  | .stream _ true _ => true
  | _ => false
def Mach.setPort (m : Mach) (n : BitVec 4) (p : Port) : Mach :=
  if n.toNat < 12 then m else m.modMe (fun x => { x with ports := x.ports.set (n.toNat - 12) p })

/-- The (lane, offset) pairs of the elements a pop or push of a record reaches (R409). -/
def portLanes (rec : List Word) (next : Nat) : List (Nat × Nat) :=
  let r := recOf rec
  ((List.range 16).filter (fun i => next + i < recCount r)).map (fun i => (i, offOf (recSpot r (next + i)).byte))

/-- The words that a pop with FE = 1 waits for (R409). -/
def Mach.portWait (m : Mach) (n : BitVec 4) : Option Nat :=
  match m.port n with
  | .stream rec false next =>
    if recFe (recOf rec) then
      ((portLanes rec next).map (fun p => wordOf (scratchKey m.cur.core p.2))).find? (fun k => !m.full k)
    else none
  | _ => none

/-- The first word that the stream operands of an instruction wait for. -/
def Mach.streamWait (m : Mach) (srcs : List (BitVec 4)) : Option Nat := srcs.findSome? m.portWait

/-- The local window holds every element reached (R133, R137); `reading` tells a pop from a push. -/
def Mach.portCheck (m : Mach) (reading : Bool) : List (Nat × Nat) → Res Unit
  | [] => .ok ()
  | (_, o) :: t =>
    let k := scratchKey m.cur.core o
    if m.scratchSize m.cur.core < o + 4 then .error { cause := .windowBounds, bad := lwOf k }
    else if reading && m.scratchBad.contains (wordOf k) then .error { cause := .scratchUncorrectable, bad := lwOf k }
    else m.portCheck reading t

/-- The port of v[n] after 16 elements. -/
def portNext (rec : List Word) (write : Bool) (next : Nat) : Port :=
  if recCount (recOf rec) ≤ next + 16 then .unbound else .stream rec write (next + 16)

/-- Operand read of v[n] (R408, R409, R187). -/
def Mach.readV (m : Mach) (n : BitVec 4) : Res (V × Mach) :=
  match m.port n with
  | .unbound => (m.needWords (m.vKeys n)).map (fun _ => (m.vimage n, m))
  | .stream _ true _ => .error { cause := .streamDirection }
  | .stream rec false next =>
    let ls := portLanes rec next
    (m.portCheck true ls).map (fun _ =>
      let v := lanesOf (fun i => match ls.lookup i with
        | some o => BitVec.ofNat 32 (m.read (scratchKey m.cur.core o) 4)
        | none => 0)
      (v, (m.putImage n v).setPort n (portNext rec false next)))
  | .payload bytes => .ok (BitVec.ofNat 512 (ofBytes bytes), (m.putImage n (BitVec.ofNat 512 (ofBytes bytes))).setPort n .unbound)

/-- The operand reads of one instruction: each register once, in field order. -/
def Mach.readVs (m : Mach) : List (BitVec 4) → Res (List (BitVec 4 × V) × Mach)
  | [] => .ok ([], m)
  | n :: t =>
    match m.readVs t with
    | .error e => .error e
    | .ok (vs, m) =>
      if t.contains n then .ok (vs, m)
      else match m.readV n with
        | .error e => .error e
        | .ok (v, m) => .ok ((n, v) :: vs, m)

/-- The value read for a field. -/
def valOf (vs : List (BitVec 4 × V)) (n : BitVec 4) : V := (vs.lookup n).getD 0

/-- Whether v[d] may be a destination beside sources `srcs` (R408, R409). -/
def Mach.destOk (m : Mach) (d : BitVec 4) (srcs : List (BitVec 4)) : Res Unit :=
  match m.port d with
  | .stream _ false _ => .error { cause := .streamDirection }
  | .stream rec true next =>
    if srcs.contains d then .error { cause := .streamDirection }
    else m.portCheck false (portLanes rec next)
  | _ => .ok ()

/-- One lane stored by a push. -/
def Mach.pushLane (m : Mach) (k : Nat) (full : Bool) (x : BitVec 32) : Mach :=
  let m := m.write k 4 x.toNat
  if full then m.fill (wordOf k) else m

/-- The lanes of a push, as (lane, key). -/
def Mach.pushKeys (m : Mach) (d : BitVec 4) : List (Nat × Nat) :=
  match m.port d with
  | .stream rec true next => (portLanes rec next).map (fun p => (p.1, scratchKey m.cur.core p.2))
  | _ => []
def Mach.pushFull (m : Mach) (d : BitVec 4) : Bool :=
  match m.port d with
  | .stream rec true _ => recFe (recOf rec)
  | _ => false

/-- The port of a destination after its write: a push moves on, a payload is discarded. -/
def Mach.portWritten (m : Mach) (d : BitVec 4) : Mach :=
  match m.port d with
  | .stream rec true next => m.setPort d (portNext rec true next)
  | .payload _ => m.setPort d .unbound
  | _ => m

/-- v[d] written in the pipeline, pushing where it is a write-bound port (R20, R409). -/
def Mach.writeV (m : Mach) (d : BitVec 4) (v : V) : Mach :=
  let ks := m.pushKeys d
  let full := m.pushFull d
  let m := m.putImage d v
  let m := ks.foldl (fun m p => m.pushLane p.2 full (lane v p.1)) m
  m.portWritten d

/-- A late result to v[d]: its words empty, its push reserved (R19, R409). -/
def Mach.lateV (m : Mach) (d : BitVec 4) (l : Late) (access : Bool := false) : Mach :=
  let ks := m.pushKeys d
  let full := m.pushFull d
  let m := (m.late (m.vKeys d) l access).portWritten d
  { m with pends := m.pends.map (fun p => if p.id + 1 = m.nextId then { p with push := ks, pushFull := full } else p) }

/-- The words of the source registers that are no bound port are full: a pop never raises HAZARD_READ (R409). -/
def Mach.needVs (m : Mach) : List (BitVec 4) → Res Unit
  | [] => .ok ()
  | n :: t =>
    match m.needVs t, (match m.port n with | .unbound => m.needWords (m.vKeys n) | _ => .ok ()) with
    | .error e, _ => .error e
    | .ok (), r => r

/-- The words of w registers are full. -/
def Mach.needWs (m : Mach) : List (BitVec 5) → Res Unit
  | [] => .ok ()
  | n :: t => match m.readW n with | .ok _ => m.needWs t | .error e => .error e

/-- The operand words of an instruction with vector sources, a mask and scalar sources (R305 stage 6). -/
def Mach.needOperands (m : Mach) (srcs : List (BitVec 4)) (mk : BitVec 3) (ws : List (BitVec 5)) : Res Unit :=
  match m.needVs srcs with
  | .error e => .error e
  | .ok () =>
    match m.readM mk with
    | .error e => .error e
    | .ok _ => m.needWs ws

/-- What a precise fault of an instruction on a parkable page takes back: nothing where no operand is a bound port. -/
def Mach.undoOf (m : Mach) (vs : List (BitVec 4)) : Undo :=
  if vs.all (fun n => m.port n == .unbound) then {}
  else { ports := m.me.ports,
         images := (vs.filter (fun n => m.port n != .unbound)).flatMap (fun n =>
           (m.vKeys n).map (fun k => (k, m.word k, m.full k))) }

/-- An instruction with vector sources `srcs` and perhaps a vector destination: the operand words come first (R305), then
STREAM_DIRECTION, then the wait for the elements of a pop, then `r` (R409). -/
def Mach.popping (m : Mach) (dest : Option (BitVec 4)) (srcs : List (BitVec 4)) (operands : Res Unit) (r : Res Mach) : Mach :=
  let first : Res Unit :=
    match operands, dest with
    | .error e, _ => .error e
    | .ok (), some d => m.destOk d srcs
    | .ok (), none => .ok ()
  match first with
  | .error t => m.trapMe t
  | .ok () =>
    if srcs.any m.writeBound then
      m.trapMe { cause := .streamDirection }
    else
      match m.streamWait srcs with
      | some k => m.stay (.stream k)
      | none => m.settle r

end Sys2Proof.Machine
end

