-- ==== Sys2Proof/Machine/Flags.lean ====
section
/-!
DEFINITION. FPFLAGS (R210, R211), FPMODE (R209) and the generator (R213), and FOLDSTAT (R198).
-/
namespace Sys2Proof.Machine

/-- Rounding mode and saturation of the issuing context (R209). -/
def Mach.rm (m : Mach) : Nat := field m.me.fpmode 0 3
def Mach.sat (m : Mach) : Bool := m.me.fpmode.getLsbD 3

/-- Flags raised at issue (R211), with the generator as the draws left it. -/
def Mach.flagged (m : Mach) (fl : BitVec 5) (g : BitVec 32) : Mach :=
  m.modMe (fun x => { x with fpflags := x.fpflags ||| fl, gen := g })

/-- Flags raised by a late result of a task (R211). -/
def Mach.lateFlags (m : Mach) (c task : Nat) (fl : BitVec 5) : Mach :=
  if fl = 0 then m else m.modTask c task (fun x => { x with fpflags := x.fpflags ||| fl })

/-- The value written to FPFLAGS clears the bits written as 1 (R211). -/
def clearFlags (old : BitVec 5) (v : Word) : BitVec 5 := old &&& ~~~ v.setWidth 5

/-- FOLDSTAT after the counts of a fold: absent and partial members (R195, R198, R199). -/
def foldCount (old : Word) (absent part : List Nat) : Word :=
  let a := min 65535 (field old 0 16 + absent.length)
  let p := min 65535 (field old 16 16 + part.length)
  let first : Nat := (absent ++ part).foldl min 1023
  let top := if old.getLsbD 42 then field old 32 11 else if (absent ++ part).isEmpty then field old 32 11 else first + 1024
  BitVec.ofNat 64 (a + p * 2 ^ 16 + top * 2 ^ 32)

end Sys2Proof.Machine
end

