-- ==== Sys2Proof/Machine/Net.lean ====
section
/-!
DEFINITION. Packets: send slots, pair channels, resequencing, re-sends and replies (R172 to R180). A packet whose
`answers` is 0 asks for a reply and stands until the reply is consumed.
-/
namespace Sys2Proof.Machine

/-- Whether a packet has been consumed by its destination. -/
def Packet.consumed (p : Packet) : Bool := p.phase == .done

/-- The lowest send slot of an endpoint and plane that is free (R176). -/
def Mach.freeSlot (m : Mach) (src : Nat) (plane : Bool) : Option Nat :=
  let used := (m.packets.filter (fun p => p.src == src && p.reply == plane)).filterMap (·.slot)
  (List.range 32).find? (fun n => !used.contains n)

/-- The first packet of an endpoint and plane that waits for a slot, and is not held behind a re-send (R149, R176). -/
def Mach.firstWaiting (m : Mach) (src : Nat) (plane : Bool) : Option Packet :=
  m.packets.find? (fun p => p.src == src && p.reply == plane && p.phase == .waiting && p.heldBy == 0)

/-- Changes one packet. -/
def Mach.modPacket (m : Mach) (id : Nat) (f : Packet → Packet) : Mach :=
  { m with packets := m.packets.map (fun p => if p.id = id then f p else p) }

def Mach.packet (m : Mach) (id : Nat) : Option Packet := m.packets.find? (fun p => p.id == id)

/-- A packet enters its send slot, if one is free (R176). -/
def Mach.launch (m : Mach) (src : Nat) (plane : Bool) : Mach :=
  match m.firstWaiting src plane, m.freeSlot src plane with
  | some p, some n => m.modPacket p.id (fun p => { p with slot := some n, phase := .flying, sends := 1 })
  | _, _ => m

/-- The sends after which a packet of a closed pair channel completes at its sender's next timer (R177). -/
def closedSends : Nat := 17

/-- The line that a request to a slice concerns. -/
def Body.lineAt : Body → Option Nat
  | .mem _ a _ _ => some (lineOf a)
  | .park _ _ base _ _ _ => some (lineOf base)
  | .probe base _ _ => some (lineOf base)
  | _ => none

/-- Whether a request was sent again after a remap reply and has not been accepted since (R149). -/
def Mach.remapping (m : Mach) (q : Packet) : Bool :=
  q.remaps != 0 && (q.phase != .done || m.packets.any (fun r => r.answers == q.id && (match r.body with | .remap _ _ _ => true | _ => false)))

/-- The re-sent request of the same endpoint, to the same line, behind which a request to a slice is held (R149); 0: none. -/
def Mach.behindResend (m : Mach) (p : Packet) : Nat :=
  if p.answers == 0 && decide (1024 ≤ p.dst) then
    ((m.packets.find? (fun q => decide (q.id < p.id) && q.src == p.src && q.answers == 0 && q.body.lineAt.isSome && q.body.lineAt == p.body.lineAt &&
      m.remapping q)).map (·.id)).getD 0
  else 0

/-- The generation under which a sender hashed a request to an endpoint (R147): slices alone are found by a map. -/
def Mach.genFor (m : Mach) (src dst : Nat) : Nat :=
  if decide (1024 ≤ dst) && decide (dst < 1152) && (decide (src < 1024) || decide (1152 ≤ src)) then
    (m.mapCopy src ((dst - 1024) / 32)).gen
  else 0

/-- A new packet, last on its pair channel (R147, R149, R152, R176). -/
def Mach.inject (m : Mach) (p : Packet) : Mach :=
  let p := { p with id := m.nextId, mapGen := m.genFor p.src p.dst }
  let p := { p with heldBy := m.behindResend p }
  if m.closed.contains (p.src, p.dst) && p.answers == 0 then
    { m.fresh with packets := m.packets ++ [{ p with phase := .lost, sends := closedSends }] }
  else { m.fresh with packets := m.packets ++ [p] }.launch p.src p.reply

/-- A request of the issuing task. -/
def Mach.request (m : Mach) (dst : Nat) (b : Body) : Mach :=
  m.inject { id := 0, src := m.cur.core, dst := dst, body := b, core := m.cur.core, task := m.me.task, ctxs := [m.cur.ctx],
             pc := m.me.pc }

/-- The requests held behind a re-send are held no more, but for another re-send to their line before them (R149). -/
def Mach.unhold (m : Mach) (id : Nat) : Mach :=
  let held := m.packets.filter (fun q => q.heldBy == id && id != 0)
  let rest : Mach := { m with packets := m.packets.filter (fun q => q.id != id) }
  held.foldl (fun m q => m.launch q.src q.reply)
    { m with packets := m.packets.map (fun q => if q.heldBy = id && id != 0 then { q with heldBy := rest.behindResend q } else q) }

/-- A packet leaves; the next one waiting takes its slot. -/
def Mach.retire (m : Mach) (id : Nat) : Mach :=
  match m.packet id with
  | none => m
  | some p => ({ m with packets := m.packets.filter (fun q => q.id != id) }.launch p.src p.reply).unhold id

/-- The first packet of a pair channel and plane that its destination has not consumed (R152, R176). -/
def Mach.head (m : Mach) (src dst : Nat) (plane : Bool) : Option Packet :=
  m.packets.find? (fun p => p.src == src && p.dst == dst && p.reply == plane && !p.consumed)

/-- Whether no request of a core to a home is still on its way: what an agent of the core then does there is in order on the
pair channel (R107, R152). -/
def Mach.quiet (m : Mach) (c dst : Nat) : Bool := (m.head c dst false).isNone

/-! ### The environment store (R93, R94) -/

def Core.envBase (c : Core) : Nat := field c.envcfg 0 21
def Core.envCount (c : Core) : Nat := field c.envcfg 32 16

/-- The key of environment store frame `i` of a core. -/
def Mach.envKey (m : Mach) (c i : Nat) : Nat := scratchKey c ((m.core c).envBase + 96 * i)

/-- The control word of the frame at a key, and its bit MOVED (R94). -/
def Mach.ctl (m : Mach) (k : Nat) : Word := m.word (k + 8)
def ctlMoved (w : Word) : Bool := w.getLsbD 46

/-! ### Forwarding after a migration (R259, R260) -/

/-- Whether a forwarding entry covers a scratchpad offset, and a frame. -/
def Forward.covers (f : Forward) (off : Nat) : Bool := f.extents.any (fun x => x.1 ≤ off && off < x.1 + x.2)
def Forward.coversFrame (f : Forward) (i : Nat) : Bool := f.env0 ≤ i && i < f.env0 + f.envn
/-- Whether a forwarding entry of core `dst` takes a request that reaches it; `again` tells one that another core forwarded
there (R260). (log 22, DEDUCED) -/
def Forward.takes (f : Forward) (dst : Nat) (again : Bool) (b : Body) : Bool :=
  match b with
  | .mem op k _ _ => (match op with | .foldStore _ => false | _ => f.covers (keyOff k))
  | .handle .cancel _ _ => false
  | .handle .restart _ _ => false
  | .handle _ h _ => f.coversFrame (hIndex h)
  | .apply h _ _ _ => f.coversFrame (hIndex h)
  | .message g _ => f.chmask.testBit g.chan
  | .wake e => (again || hHome e.h == dst) && f.coversFrame (hIndex e.h)
  | _ => false

/-- Whether it covers a word of the 64 bytes of a fold; a member's part of an STG that is held then goes on as a store of those
words (R390). (log 21, DEDUCED) -/
def Forward.coversFold (f : Forward) (off : Nat) : Bool := (List.range 8).any (fun i => f.covers (off + 8 * i))
/-- Whether it takes a member's part of an STG that was held for it. (log 21, DEDUCED) -/
def Forward.takesFold (f : Forward) : Body → Bool
  | .mem (.foldStore _) k _ _ => f.coversFold (keyOff k)
  | _ => false

/-- Whether a MIGR under way at a core holds a request: what its forwarding entry will take, and the part of an STG that
falls within its extents (R259, R390). (log 21, DEDUCED) -/
def Mach.migrHolds (m : Mach) (dst : Nat) (again : Bool) (b : Body) : Bool :=
  (m.core dst).migrations.any (fun g => g.held.isNone && (g.fwd.takes dst again b || g.fwd.takesFold b))

/-- Whether a request is a message: a channel stops accepting a core's own messages too (R259). -/
def Body.isMessage : Body → Bool
  | .message _ _ => true
  | _ => false

/-- Whether its destination holds a packet for a migration. (log 21, DEDUCED) -/
def Mach.heldBack (m : Mach) (p : Packet) : Bool :=
  p.answers == 0 && (p.src != p.dst || p.body.isMessage) && m.migrHolds p.dst (p.via != 0) p.body

/-- Whether a core was holding a packet when the entry of a migration was installed (R259). -/
def Mach.wasHeld (m : Mach) (p : Packet) : Bool := (m.core p.dst).migrations.any (fun g => (g.held.getD []).contains p.id)

/-- A scratchpad key at the same offset of core `d`. -/
def keyAt (d k : Nat) : Nat := scratchKey d (keyOff k)

/-- A request as it is sent on to core `d`: addresses in a scratchpad name the same offsets there, and of a member's part of an
STG the words that the entry covers go. (log 21, DEDUCED) -/
def Forward.sent (f : Forward) : Body → Body
  | .mem (.store bs) k va pk => .mem (.store (bs.map (fun b => (keyAt f.dest b.1, b.2)))) (keyAt f.dest k) va pk
  | .mem (.foldStore bs) k va pk =>
    .mem (.store ((bs.filter (fun b => f.covers (keyOff b.1))).map (fun b => (keyAt f.dest b.1, b.2)))) (keyAt f.dest k) va pk
  | .mem op k va pk => .mem op (keyAt f.dest k) va pk
  | b => b

/-- The words of a member's part of an STG that the entry does not cover are stored where they are. (log 21, DEDUCED) -/
def Mach.keepRest (m : Mach) (f : Forward) : Body → Mach
  | .mem (.foldStore bs) _ _ _ => m.storeScratch (bs.filter (fun b => !f.covers (keyOff b.1)))
  | _ => m

/-- A handle passes the checks of R92 at core `c` up to that of MOVED, and its frame is so marked. (log 37, DEDUCED) -/
def Mach.movedAt (m : Mach) (c : Nat) (h : Handle) : Bool :=
  let k := m.envKey c (hIndex h)
  h.extractLsb' 0 8 != 0 && decide (hIndex h < (m.core c).envCount) && !m.scratchBad.contains (k + 8) && ctlMoved (m.ctl k)

/-- The frame that a handle operation or application reaches at core `c` is marked MOVED. -/
def Mach.movedHere (m : Mach) (c : Nat) : Body → Bool
  | .handle _ h _ => m.movedAt c h
  | .apply h _ _ _ => m.movedAt c h
  | _ => true

/-- Whether an operation on a handle that core `c` began, or sends on, is on its way to a core to which frames have moved: what
the core does there in its own step comes after it (R106, R107). (log 37, DEDUCED) -/
def Mach.handlesFlying (m : Mach) (c : Nat) : Bool :=
  m.packets.any (fun p => p.answers == 0 && !p.consumed &&
    (match p.body with | .handle _ _ _ => true | .apply _ _ _ _ => true | _ => false) &&
    ((p.via != 0 && p.core == c) || (p.src == c && (m.core c).forwards.any (fun f => f.dest == p.dst && f.envn != 0))))

/-- The forwarding entry that takes a request at its destination; of several, the oldest (R106, R260). (log 22, DEDUCED) -/
def Mach.forwardFor (m : Mach) (p : Packet) : Option Forward :=
  if p.answers ≠ 0 || 1024 ≤ p.dst || m.isFenced p.dst || !m.movedHere p.dst p.body || !(p.src != p.dst || m.wasHeld p) then none
  else (m.core p.dst).forwards.find? (fun f => f.takes p.dst (p.via != 0) p.body || (m.wasHeld p && f.takesFold p.body))

/-- Whether a request counts as a store, atomic, arrive, message or apply. -/
def Body.released : Body → Bool
  | .mem op _ _ _ =>
    match op with
    | .load _ => false
    | .loadLine => false
    | .sync _ => false
    | _ => true
  | .message _ _ => true
  | .apply _ _ _ _ => true
  | _ => false

/-- Whether a REPLY waits at its destination for stores, atomics and arrives of its sender that were sent there before it, on
the request plane (R162, R405). -/
def Mach.messageWaits (m : Mach) (p : Packet) : Bool :=
  p.reply && p.answers == 0 && m.packets.any (fun q => q.src == p.src && q.dst == p.dst && !q.reply && !q.consumed &&
    decide (q.id < p.id) && (match q.body with | .mem op a va pk => (Body.mem op a va pk).released | _ => false))

/-- Whether a packet has reached its destination, which can take it as far as migrations and the order of messages go. -/
def Mach.ready (m : Mach) (p : Packet) : Bool := (p.phase == .arrived || p.phase == .held) && !m.heldBack p && !m.messageWaits p

/-- That packet, if it is ready and its destination does not forward it. -/
def Mach.next (m : Mach) (src dst : Nat) (plane : Bool) : Option Packet :=
  match m.head src dst plane with
  | some p => if m.ready p && (m.forwardFor p).isNone then some p else none
  | none => none

/-- A reply that has reached its destination and is next on its channel (R178). -/
def Mach.arrivedReply (m : Mach) (id : Nat) : Option Packet :=
  match m.packet id with
  | some p =>
    if p.answers ≠ 0 && m.next p.src p.dst true == some p then some p else none
  | none => none

/-- A request is consumed and answered (R177, R179). -/
def Mach.answer (m : Mach) (p : Packet) (b : Body) : Mach :=
  let m := m.modPacket p.id (fun q => { q with phase := .done, slot := if q.reply then none else q.slot })
  let m := match b with | .remap _ _ _ => m | _ => m.unhold p.id
  m.inject { id := 0, src := p.dst, dst := p.src, reply := true, body := b, core := p.core, task := p.task,
             also := p.also, answers := p.id }

/-- A reply is consumed: it and its request leave. -/
def Mach.settleReply (m : Mach) (p : Packet) : Mach := (m.retire p.id).retire p.answers

/-- Whether a retired slice answers a duplicate of a request it has performed from its reply cache: an atomic only (R149). -/
def Body.keepsReply : Body → Bool
  | .mem (.amo _ _ _ _) _ _ _ => true
  | .mem (.cas _ _ _) _ _ _ => true
  | .mem _ _ _ _ => false
  | .park _ _ _ _ _ _ => false
  | .probe _ _ _ => false
  | _ => true

/-- The remap reply of a slice (R149). -/
def Mach.remapBody (m : Mach) (dst : Nat) : Body :=
  .remap ((dst - 1024) / 32) (m.die ((dst - 1024) / 32)).mapGen (m.die ((dst - 1024) / 32)).map

/-- A reply that is sent again with its request (R179), or the remap reply that stands for it once the slice has been
retired (R149). -/
def Mach.resentReply (m : Mach) (p q : Packet) : Packet :=
  if decide (1024 ≤ p.dst) && decide (p.dst < 1152) && (m.slice (p.dst - 1024)).retired && !p.body.keepsReply then
    { q with phase := .flying, body := m.remapBody p.dst }
  else { q with phase := .flying }

/-- Another send of a packet (R177): the 15th re-send waits for the golden period; a request already performed is
answered from the reply cache (R179). -/
def Mach.resend (m : Mach) (p : Packet) : Mach :=
  if 15 ≤ p.sends then m
  else
    let m := m.modPacket p.id (fun q => { q with sends := q.sends + 1,
                                                 nackedLast := false,
                                                 phase := if q.phase == .lost || q.phase == .nacked then .flying else q.phase })
    { m with packets := m.packets.map (fun q => if q.answers = p.id && q.phase == .lost then m.resentReply p q else q) }

/-! Requests sent on (R260) -/

/-- A request that a forwarding entry takes is sent on to its core, on the pair channel of the core it has reached, and the
entry's life begins anew; it is answered when the reply to that comes (R106, R260). (log 37, DEDUCED) -/
def Mach.sendOn (m : Mach) (p : Packet) (f : Forward) : Mach :=
  let m := m.modCore p.dst (fun r => { r with forwards := r.forwards.map (fun g => if g = f then { g with used := m.now } else g) })
  let m := m.modPacket p.id (fun q => { q with phase := .done, noticed := true, slot := if q.reply then none else q.slot })
  let m := (m.unhold p.id).keepRest f p.body
  m.inject { id := 0, src := p.dst, dst := f.dest, reply := p.reply, body := f.sent p.body, core := p.core, task := p.task,
             also := p.also, ctxs := p.ctxs, pc := p.pc, via := p.id }

/-- The packet that has come first of those next on their channels that a forwarding entry takes (R259, R390). -/
def Mach.firstToSendOn (m : Mach) : Option (Packet × Forward) :=
  m.packets.foldl (fun best p =>
    if p.answers == 0 && m.head p.src p.dst p.reply == some p && m.ready p then
      match m.forwardFor p, best with
      | some f, none => some (p, f)
      | some f, some (q, g) => if p.came < q.came then some (p, f) else some (q, g)
      | none, _ => best
    else best) none

/-- At most `n` requests are sent on. (log 37, DEDUCED) -/
def Mach.forwardAll (m : Mach) : Nat → Mach
  | 0 => m
  | n + 1 =>
    match m.firstToSendOn with
    | some (p, f) => (m.sendOn p f).forwardAll n
    | none => m

/-- The first reply to a request sent on that has come back to the core that sent it on, with the request that it answers. -/
def Mach.firstToRelay (m : Mach) : Option (Packet × Packet) :=
  m.packets.findSome? (fun r =>
    if r.answers == 0 then none
    else match m.packet r.answers with
      | some q => if q.via != 0 && m.arrivedReply r.id == some r then some (r, q) else none
      | none => none)

/-- At most `n` replies go back through the core that sent their requests on (R260). (log 37, DEDUCED) -/
def Mach.relayAll (m : Mach) : Nat → Mach
  | 0 => m
  | n + 1 =>
    match m.firstToRelay with
    | some (r, q) =>
      let m := m.settleReply r
      (match m.packet q.via with | some p => m.answer p r.body | none => m).relayAll n
    | none => m

/-- The packets that carry a request on from core to core (R260). -/
def Mach.carriers (m : Mach) : Nat → Nat → List Nat
  | 0, _ => []
  | n + 1, id =>
    match m.packets.find? (fun q => q.via == id && id != 0 && q.answers == 0) with
    | some q => q.id :: m.carriers n q.id
    | none => []

/-- Whether a request that was held has been performed where it was sent on to, or has ended (R259). -/
def Mach.sentDone (m : Mach) (id : Nat) : Bool :=
  match m.packet id with
  | none => true
  | some p => p.consumed && m.packets.all (fun q => q.via != id || q.consumed)

/-- An LDS request waits at a home no more, wherever it was sent on to (R260, R385). -/
def Mach.dropWaiter (m : Mach) (who : Nat) : Mach :=
  let ids := who :: m.carriers m.packets.length who
  let sent := (m.packets.filter (fun q => (ids.drop 1).contains q.id || (ids.drop 1).contains q.answers)).map (·.id)
  sent.foldl Mach.retire
    { m with cores := m.cores.map (fun e => (e.1, { e.2 with waiters := e.2.waiters.filter (fun w => !ids.contains w.1) })) }

/-- Whether a request to a core finds only an expired forwarding entry there (R260). -/
def Mach.forwardGone (m : Mach) (p : Packet) : Bool :=
  p.src != p.dst && (m.core p.dst).expired.any (fun f => f.takes p.dst (p.via != 0) p.body)

/-- Whether the destination's queue can take a packet that is next on its channel (R80, R124, R385). -/
def Mach.deckRoom (m : Mach) (c : Nat) : Bool :=
  let r := m.core c
  (r.spill.isEmpty && decide (r.deque.length < 64)) ||
  (match r.spill with | (_, es) :: _ => decide (es.length < 64) | [] => false) || (m.freeFrame c).isSome

/-- Whether a destination can take a packet that is next on its channel (R177). (log 18, DEDUCED) -/
def Mach.canTake (m : Mach) (p : Packet) : Bool :=
  if (m.isFenced p.dst && decide (p.dst < 1024)) || (m.forwardFor p).isSome then true
  else
    match p.body with
    | .apply _ _ _ _ => m.deckRoom p.dst
    | .wake _ => m.forwardGone p || decide ((m.core p.dst).wakes.length < 64)
    | .mem (.sync _) k _ _ => m.forwardGone p || m.full k || decide ((m.core p.dst).waiters.length < 64)
    | _ => true

/-- The die's fault queue of an endpoint, for the partition of the core a packet concerns. -/
def Mach.postEnd (m : Mach) (e c : Nat) (x : FqEntry) : Mach := m.post (dieOfEnd e) ((m.partOf c).getD 0) x

/-! ### What fences wait for (R156) -/

/-- Whether every earlier store, atomic, message and apply of context `x`, and of the task it runs, is acknowledged; a
resumed task may have issued some in another context. -/
def Mach.releasedAll (m : Mach) (c x task : Nat) : Bool :=
  !m.packets.any (fun p => p.answers == 0 && p.core == c && decide (p.src = c) && p.seq == 0 &&
      (p.task == task || p.also.contains task || p.ctxs.contains x) && p.body.released) &&
  !m.foldStores.any (fun f => f.core == c && (f.task == task || f.ctx == x)) &&
  !(m.core c).combine.any (fun e => e.tasks.contains task || e.ctxs.contains x)

/-- The slice of a PEER line's local home holds stores of a context, or of an engine of its core, not yet performed at the
peer's home (R156, R170). (log 60, DEDUCED) -/
def Mach.peerHeld (m : Mach) (c x task : Nat) : Bool :=
  m.slices.any (fun s => s.2.peerStores.any (fun w =>
    w.who.core == c && (w.who.tasks.isEmpty || w.who.tasks.contains task || w.who.ctxs.contains x)))

/-- Whether a late result is one that an acquire waits for: a load, atomic, fold load or barrier arrival (R156). -/
def Pend.acquired (p : Pend) : Bool :=
  !p.quiet && (match p.late with | .value _ _ => p.access | .parts _ => p.access | .token load => load | .join _ => false)

/-- Whether every earlier load, atomic, fold load and barrier arrival of a context and of the task it runs has returned. -/
def Mach.acquiredAll (m : Mach) (c x task : Nat) : Bool :=
  !m.pends.any (fun p => p.core == c && (p.task == task || p.ctx == x) && p.acquired)

/-! ### Stores to GV: the own L1 and the write-combining buffer (R145, R153) -/

/-- Bytes written into an L1 line or combining entry at offsets. -/
def patch (data : List Byte) : List (Nat × Byte) → List Byte
  | [] => data
  | (i, b) :: t => patch (data.set i b) t

/-- A late result that will allocate no line for which `which` holds. -/
def Pend.unfilled (which : Nat → Bool) (p : Pend) : Pend :=
  match p.late with
  | .parts q => { p with late := .parts { q with fill := q.fill.filter (fun f => !which f.1) } }
  | _ => p

/-- The lines on their way to a core for which `which` holds will not be allocated. -/
def Mach.unfill (m : Mach) (c : Nat) (which : Nat → Bool) : Mach :=
  { m with pends := m.pends.map (fun p => if p.core = c then p.unfilled which else p) }

/-- Updates a core's valid L1 line, and keeps a line still on its way from being allocated. -/
def Mach.storeL1 (m : Mach) (c line : Nat) (bytes : List (Nat × Byte)) : Mach :=
  (m.modCore c (fun r => { r with l1 := r.l1.map (fun l => if l.line = line then { l with data := patch l.data bytes } else l) })).unfill
    c (· == line)

/-- Invalidates a core's copy of a line (R145). -/
def Mach.dropL1 (m : Mach) (c line : Nat) : Mach :=
  (m.storeL1 c line []).modCore c (fun r => { r with l1 := r.l1.filter (fun l => l.line != line) })

/-- The slice endpoint that homes a physical address for a core or launcher, hashed in units of `u` bytes. -/
def Mach.homeEnd (m : Mach) (unit pa u : Nat) : Nat := sliceEnd (m.sliceFor unit pa u)

/-- Drains the first combining entry of a core (R145). (log 11, DESIGN CHOICE) -/
def Mach.drainOne (m : Mach) (c : Nat) : Mach :=
  match (m.core c).combine with
  | [] => m
  | e :: t =>
    let m := m.modCore c (fun r => { r with combine := t })
    let pa := e.line * 128
    m.inject { id := 0, src := c, dst := m.homeEnd c pa 128,
               body := .mem (.store (e.bytes.map (fun b => (pa + b.1, b.2)))) pa e.va false,
               core := c, task := e.tasks.headD 0, also := e.tasks.drop 1, ctxs := e.ctxs, pc := e.pc }

/-- Drains the first `n` entries. -/
def Mach.drain (m : Mach) (c : Nat) : Nat → Mach
  | 0 => m
  | n + 1 => (m.drainOne c).drain c n

def Mach.drainAll (m : Mach) (c : Nat) : Mach := m.drain c (m.core c).combine.length

/-- Drains every entry up to and including the last one of a line (R153). -/
def Mach.drainLine (m : Mach) (c line : Nat) : Mach :=
  m.drain c ((m.core c).combine.length - ((m.core c).combine.reverse.takeWhile (fun e => e.line != line)).length)

/-- One byte set in a combining entry. -/
def mergeBytes (old new : List (Nat × Byte)) : List (Nat × Byte) :=
  old.filter (fun b => !new.any (fun n => n.1 == b.1)) ++ new

/-- A number added at the end of a list that lacks it. -/
def addOnce (l : List Nat) (n : Nat) : List Nat := if l.contains n then l else l ++ [n]

/-- A store of the issuing context joins the newest entry, or takes a new one (R145, R153). (log 11, DESIGN CHOICE) -/
def Mach.combineStore (m : Mach) (c line : Nat) (va : Word) (bytes : List (Nat × Byte)) : Mach :=
  let task := m.me.task
  let x := m.cur.ctx
  let fresh (r : Core) : Combine :=
    { line := line, va := va, bytes := bytes, tasks := [task], ctxs := [x], since := r.cycles, pc := m.me.pc }
  match (m.core c).combine.getLast? with
  | some e =>
    if e.line = line then
      m.modCore c (fun r => { r with combine := r.combine.dropLast ++
        [{ e with bytes := mergeBytes e.bytes bytes, tasks := addOnce e.tasks task, ctxs := addOnce e.ctxs x }] })
    else
      let m := if 8 ≤ (m.core c).combine.length then m.drainOne c else m
      m.modCore c (fun r => { r with combine := r.combine ++ [fresh r] })
  | none => m.modCore c (fun r => { r with combine := r.combine ++ [fresh r] })

end Sys2Proof.Machine
end

