-- ==== Sys2Proof/Machine/Home.lean ====
section
/-!
DEFINITION. Operations on memory performed at its home: scratchpad words at their core, GV lines at their slice, with
the data errors of R137 and R144 and the frames of resident parkable blocks (R115).
-/
namespace Sys2Proof.Machine

/-! ### Read-modify-write (R336, R357) -/

/-- The lesser and the greater, signed or unsigned, of `n`-byte values. -/
def amoLess (n : Nat) (sg : Bool) (a b : Nat) : Bool := decide (intOf (8 * n) sg a < intOf (8 * n) sg b)

/-- The new value of an AMO: 0 add, 1 and, 2 or, 3 xor, 4 min, 5 max, 6 swap. -/
def amoNew (op n : Nat) (sg : Bool) (old x : Nat) : Nat :=
  match op with
  | 0 => (old + x) % 2 ^ (8 * n)
  | 1 => old &&& x
  | 2 => old ||| x
  | 3 => old ^^^ x
  | 4 => if amoLess n sg x old then x else old
  | 5 => if amoLess n sg old x then x else old
  | _ => x

/-- The join word after an ARRIVE, if its count is not zero (R341). -/
def arriveWord (v : Word) : Option Word := if field v 0 63 = 0 then none else some (v - 1)

/-! ### Bad data in GV lines (R144) -/

/-- The parkable block that holds a physical address and has a directory entry. -/
def Mach.blockAt (m : Mach) (pa : Nat) : Option Block := m.blocks.find? (fun b => b.base ≤ pa && pa < b.base + b.size)

def Mach.modBlock (m : Mach) (slice base : Nat) (f : Block → Block) : Mach :=
  { m with blocks := m.blocks.map (fun b => if b.slice = slice && b.base = base then f b else b) }

/-- Whether a block's data is served from its frame (R115). -/
def Block.served (b : Block) : Bool := b.state == .resident || b.state == .lingering

/-- What a read of a line of a frame finds, and the machine with the line marked (R115, R144). -/
def Mach.readFrameBad (m : Mach) (pa : Nat) : Option Cause × Mach :=
  let l := lineOf pa
  if m.framePoisoned.contains l then (some .poisonConsumed, m)
  else if m.frameBad.contains l then
    (some .l2Uncorrectable, { m with framePoisoned := insertNat m.framePoisoned l, frameBad := eraseNat m.frameBad l })
  else (none, m)

/-- The marks after a store of `n` distinct bytes of a line of backing memory for `w`, whom the entry names (R144, R255). A
store of part of a line whose dirty copy is uncorrectable leaves it so. (log 8, DEDUCED; log 70, DESIGN CHOICE) -/
def Mach.storeBad (m : Mach) (pa n : Nat) (w : Requester) : Mach :=
  let l := lineOf pa
  if 128 ≤ n then
    { m with poisoned := eraseNat m.poisoned l, l2Bad := eraseNat m.l2Bad l,
             hbmBad := if regionType pa == 2 then m.hbmBad else eraseNat m.hbmBad l }
  else if m.hbmBad.contains l && regionType pa == 0 && !m.poisoned.contains l then
    ({ m with poisoned := insertNat m.poisoned l, hbmBad := eraseNat m.hbmBad l }).post (dieOfPa pa) ((m.partOf w.core).getD 0)
      { cause := Cause.hbmUncorrectable.code, core := w.core, ctx := w.ctxs.head?, bad := BitVec.ofNat 64 pa,
        pc := if w.ctxs.isEmpty && w.pc == 0 then none else some w.pc }
  else m

/-- The marks after a store of `n` distinct bytes of a line of a frame (R144). -/
def Mach.storeFrameBad (m : Mach) (pa n : Nat) : Mach :=
  if 128 ≤ n then { m with framePoisoned := eraseNat m.framePoisoned (lineOf pa), frameBad := eraseNat m.frameBad (lineOf pa) }
  else m

/-! ### PEER memory (R143, R159, R166, R167) -/

/-- The bytes of a line, from physical address `base`, with stores laid over it in order. -/
def overlay (base : Nat) (data : List Byte) (stores : List PeerStore) : List Byte :=
  stores.foldl (fun d w => patch d ((w.bytes.filter (fun b => decide (base ≤ b.1) && decide (b.1 < base + 128))).map (fun b => (b.1 - base, b.2)))) data

/-- A PEER line as its local home slice serves it to core `c`: the copy held for that core, or what the peer returns, under
the stores that the peer's home has yet to perform. (log 60, DEDUCED) -/
def Mach.peerLine (m : Mach) (s line c : Nat) : List Byte :=
  let data := match (m.slice s).copies.find? (fun x => x.line == line && x.cores.contains c) with
    | some x => x.data
    | none => toBytes 128 (m.read (128 * line) 128)
  overlay (128 * line) data (m.slice s).peerStores

/-- The slice's copy of a PEER line is held for one more core; a line that it does not hold for that core is fetched.
(log 60, DEDUCED) -/
def Mach.holdCopy (m : Mach) (s line c : Nat) : Mach :=
  let cores := ((m.slice s).copies.find? (fun x => x.line == line)).elim [] (·.cores)
  if cores.contains c then m
  else
    let copy : PeerCopy := { line := line, data := toBytes 128 (m.read (128 * line) 128), cores := insertNat cores c }
    m.modSlice s (fun x => { x with copies := x.copies.filter (fun y => y.line != line) ++ [copy] })

/-- The slice gives up its copy of a PEER line. -/
def Mach.dropCopy (m : Mach) (s line : Nat) : Mach :=
  m.modSlice s (fun x => { x with copies := x.copies.filter (fun y => y.line != line) })

/-- The slices' copies of PEER lines are held for a core's requests no more (R156). (log 60, DEDUCED) -/
def Mach.dropCopies (m : Mach) (c : Nat) : Mach :=
  { m with slices := m.slices.map (fun e => (e.1, { e.2 with
      copies := (e.2.copies.map (fun x => { x with cores := eraseNat x.cores c })).filter (fun x => !x.cores.isEmpty) })) }

/-- The oldest PEER store that a slice holds is performed at the peer's home, or reported where the peer has become
unreachable (R134, R167). (log 60, DEDUCED) -/
def Mach.peerPerform (m : Mach) (s : Nat) : Mach :=
  match (m.slice s).peerStores with
  | [] => m
  | w :: t =>
    let m := m.modSlice s (fun x => { x with peerStores := t,
                                             copies := x.copies.map (fun y => { y with data := overlay (128 * y.line) y.data [w] }) })
    if w.bytes.any (fun b => m.peerGone b.1) then m.errorEntry w.who.core .peerUnreachable w.who.va w.who.pc w.who.ctxs.head?
    else { m with mem := Mem.writeAll m.mem w.bytes }

/-- The first `n` PEER stores of a slice performed at the peer's home. -/
def Mach.peerFlush (m : Mach) (s : Nat) : Nat → Mach
  | 0 => m
  | n + 1 => (m.peerPerform s).peerFlush s n

/-- The stores to PEER memory that the line's slice holds reach the peer first; then an atomic is performed at the peer's
home, and the slice's copy is given up (R153, R159). (log 60, DEDUCED) -/
def Mach.atPeer (m : Mach) (pa : Nat) : Mach :=
  let s := m.sliceOf pa 128
  (m.peerFlush s (m.slice s).peerStores.length).dropCopy s (lineOf pa)

/-! ### Scratchpad homes -/

/-- The (key, byte) pairs of an `n`-byte value. -/
def bytesAt (k n v : Nat) : List (Nat × Byte) := (List.range n).zip (toBytes n v) |>.map (fun p => (k + p.1, p.2))

/-- A scratchpad operation at its home, checks passed: the reply, or none while an LDS waits. An ARRIVE on a count of zero
changes nothing, and its issuing core reports it (R341). -/
def Mach.performScratch (m : Mach) (op : MemOp) (k : Nat) : Option (Body × Mach) :=
  let bad (n : Nat) : Bool := (wordsOf k n).any (fun w => m.scratchBad.contains w)
  match op with
  | .load n => if bad n then some (.failed .scratchUncorrectable false, m) else some (.data (m.read k n), m)
  | .loadLine => some (.line (toBytes 128 (m.read k 128)), m)
  | .store bs => some (.ack, m.storeScratch bs)
  | .foldStore bs => some (.ack, m.storeScratch bs)
  | .setFull v => some (.ack, (m.storeScratch (bytesAt k 8 v.toNat)).fill k)
  | .setEmpty => some (.ack, m.empty k)
  | .sync take =>
    if !m.full k then none
    else if bad 8 then some (.failed .scratchUncorrectable false, m)
    else some (.data (m.read k 8), if take then m.empty k else m)
  | .amo f n sg x =>
    if bad n then some (.failed .scratchUncorrectable false, m)
    else some (.data (m.read k n), m.write k n (amoNew f n sg (m.read k n) x))
  | .cas n x y =>
    if bad n then some (.failed .scratchUncorrectable false, m)
    else some (.data (m.read k n), if m.read k n = x then m.write k n y else m)
  | .arrive =>
    if bad 8 then some (.failed .scratchUncorrectable false, m)
    else match arriveWord (m.word k) with
      | none => some (.failed .fullEmptyMisuse false, m)
      | some v => some (.ack, let m := m.write k 8 v.toNat; if field v 0 63 = 0 then m.fill k else m)
  | .storeMask mask v full =>
    let t := m.storeScratch (bytesAt k 8 (putMask (m.read k 8) mask v))
    let t := if mask = 2 ^ 64 - 1 then t else { t with scratchBad := m.scratchBad }
    some (.ack, if full then t.fill k else t)

/-- The bytes that an operation reaches from its address. -/
def MemOp.span : MemOp → Nat
  | .load n => n
  | .loadLine => 128
  | .store bs => bs.length
  | .foldStore bs => bs.length
  | .setFull _ => 8
  | .setEmpty => 8
  | .sync _ => 8
  | .amo _ n _ _ => n
  | .cas n _ _ => n
  | .arrive => 8
  | .storeMask _ _ _ => 8

/-- A remote access as it is performed at the core it has reached (R134, R179, R260). -/
def Mach.performCore (m : Mach) (h : Nat) (op : MemOp) (k : Nat) (gone : Bool) : Option (Body × Mach) :=
  if m.isFenced h then some (.failed .coreFenced false, m)
  else if gone then some (.failed .forwardExpired false, m)
  else if m.scratchSize h ≤ keyOff k then some (.failed .windowBounds false, m)
  else m.performScratch op k

/-! ### Slice homes -/

/-- A GV access to a PEER line at its local home slice: a load is served from the slice's copy, a store waits there for the
peer's home, and an atomic is performed at the peer's home (R143, R159, R167). (log 60, DEDUCED) -/
def Mach.performPeer (m : Mach) (op : MemOp) (pa : Nat) (w : Requester) : Body × Mach :=
  let s := m.sliceOf pa 128
  let reading (f : Mach → Body × Mach) : Body × Mach :=
    match m.readBad pa with
    | (some e, m) => (.failed e false, m)
    | (none, m) => f m
  let store (bs : List (Nat × Byte)) : Body × Mach :=
    (.ack, (m.storeBad pa bs.length w).modSlice s (fun x => { x with peerStores := x.peerStores ++ [{ bytes := bs, who := w }] }))
  match op with
  | .load n => reading (fun m => (.data (ofBytes (((m.peerLine s (lineOf pa) w.core).drop (pa % 128)).take n)), m.holdCopy s (lineOf pa) w.core))
  | .loadLine => reading (fun m => (.line (m.peerLine s (lineOf pa) w.core), m.holdCopy s (lineOf pa) w.core))
  | .store bs => store bs
  | .storeMask mask v _ =>
    let new := putMask (ofBytes (((m.peerLine s (lineOf pa) w.core).drop (pa % 128)).take 8)) mask v
    store ((bytesAt pa 8 new).filter (fun b => mask / 2 ^ (8 * (b.1 - pa)) % 256 != 0))
  | .amo f n sg x =>
    reading (fun m =>
      let m := m.atPeer pa
      (.data (m.read pa n), m.write pa n (amoNew f n sg (m.read pa n) x)))
  | .cas n x y =>
    reading (fun m =>
      let m := m.atPeer pa
      (.data (m.read pa n), if m.read pa n = x then m.write pa n y else m))
  | _ => (.failed .addressClass false, m)

/-- An access to HBM or HOST memory at its home slice, or in the frame of a staged block of any memory (R113, R115, R144). -/
def Mach.performLine (m : Mach) (op : MemOp) (pa : Nat) (w : Requester) (blk : Option Block) : Body × Mach :=
  let frame := blk.isSome
  let key (a : Nat) : Nat := if frame then frameKey a else a
  let dirty (m : Mach) : Mach :=
    match blk with
    | some b => m.modBlock b.slice b.base (fun b => { b with dirty := insertNat b.dirty (lineOf pa) })
    | none => m
  let reading (f : Mach → Body × Mach) : Body × Mach :=
    match if frame then m.readFrameBad pa else m.readBad pa with
    | (some e, m) => (.failed e false, m)
    | (none, m) => f m
  let store (bs : List (Nat × Byte)) : Body × Mach :=
    let m := if frame then m.storeFrameBad pa bs.length else m.storeBad pa bs.length w
    (.ack, dirty { m with mem := Mem.writeAll m.mem (bs.map (fun b => (key b.1, b.2))) })
  match op with
  | .load n => reading (fun m => (.data (m.read (key pa) n), m))
  | .loadLine => reading (fun m => (.line (toBytes 128 (m.read (key pa) 128)), m))
  | .store bs => store bs
  | .storeMask mask v _ => store (bytesAt pa 8 (putMask (m.read (key pa) 8) mask v))
  | .amo f n sg x =>
    reading (fun m => (.data (m.read (key pa) n), dirty (m.write (key pa) n (amoNew f n sg (m.read (key pa) n) x))))
  | .cas n x y =>
    reading (fun m => (.data (m.read (key pa) n), if m.read (key pa) n = x then dirty (m.write (key pa) n y) else m))
  | _ => (.failed .addressClass false, m)

/-- Whether a page maps HBM outside the range of a partition (R277). -/
def Mach.outOfRange (m : Mach) (p pa : Nat) : Bool := regionType pa == 0 && !m.inHbm p pa

/-- A GV access as it is performed at a slice, by a requester of a partition (R113, R115, R142, R277); `pk` tells a parkable
page. -/
def Mach.performSlice (m : Mach) (op : MemOp) (pa : Nat) (w : Requester) (pk : Bool) : Body × Mach :=
  let blk := if pk then (m.blockAt pa).filter Block.served else none
  if m.outOfRange ((m.partOf w.core).getD 0) pa then (.failed .partitionViolation false, m)
  else if pk && blk.isNone then (.failed .blockAbsent true, m)
  else if m.peerGone pa then (.failed .peerUnreachable false, m)
  else if regionType pa == 1 && blk.isNone then m.performPeer op pa w
  else m.performLine op pa w blk

/-- A core's fetches and a launcher, whose accesses are answered at once, take the newest table where theirs
names a retired slice, as a remap reply would have them do (R148, R149). -/
def Mach.remapped (m : Mach) (unit pa u : Nat) : Mach :=
  if (m.slice (m.sliceFor unit pa u)).retired then m.takeMap unit (dieOfPa (pa - pa % u)) else m

/-! ### LDS requests waiting at their home (R385) -/

/-- A local LDS whose word turns out uncorrectable is the precise fault of its instruction: its destination words are as before
(R137, R385). -/
def Mach.syncFault (m : Mach) (p : Pend) (k : Nat) : Mach :=
  let m := (m.fillAll p.wasFull).dropPend p.id
  match m.ctxOf p.core p.task with
  | some x => m.raise p.core x { cause := .scratchUncorrectable, bad := lwOf k } (m.ctx p.core x).last
  | none => m

/-- One waiting request served if its word is full; at a core that answers as fenced it is refused (R179, R271).
(log 32, DEDUCED) -/
def Mach.serveOne (m : Mach) (w : Nat × Nat × Bool) : Bool × Mach :=
  let (who, k, take) := w
  if m.isFenced (keyCore k) then
    match m.packet who with
    | some p => (true, m.answer p (.failed .coreFenced false))
    | none => (false, m)
  else if !m.full k then (false, m)
  else
    let bad := m.scratchBad.contains k
    let v := m.read k 8
    let m1 := if take && !bad then m.empty k else m
    match m.packet who with
    | some p => (true, m1.answer p (if bad then .failed .scratchUncorrectable false else .data v))
    | none =>
      match m1.findPend who with
      | some p =>
        (true, if bad then m1.syncFault p k
               else { m1 with pends := m1.pends.map (fun p => if p.id = who then { p with late := .value v 0 } else p) })
      | none => (true, m1)

/-- Waiting requests served in their arrival order; those left keep waiting. -/
def Mach.serveList (m : Mach) : List (Nat × Nat × Bool) → List (Nat × Nat × Bool) × Mach
  | [] => ([], m)
  | w :: t =>
    let (served, m) := m.serveOne w
    let (rest, m) := m.serveList t
    (if served then rest else w :: rest, m)

/-- Every LDS request whose word has become full is served (R385). -/
def Mach.serve (m : Mach) : Mach :=
  (m.cores.filter (fun e => !e.2.waiters.isEmpty)).foldl (fun m e =>
    let (rest, m) := m.serveList e.2.waiters
    m.modCore e.1 (fun r => { r with waiters := rest })) m

end Sys2Proof.Machine
end

