-- ==== Sys2Proof/Machine/Handles.lean ====
section
/-!
DEFINITION. Closures: handles and environment store frames (R91 to R107), and the deque (R79, R80).
-/
namespace Sys2Proof.Machine

/-! ### Handles (R91) and frames (R94) -/

def hGen (h : Handle) : BitVec 8 := h.extractLsb' 0 8
def mkHandle (core index : Nat) (gen : BitVec 8) : Handle :=
  BitVec.ofNat 32 (core * 2 ^ 22 + index * 2 ^ 8 + gen.toNat)

/-! The fields of a control word (R94). -/

def ctlRefs (w : Word) : Nat := field w 0 16
def ctlFlight (w : Word) : Nat := field w 16 16
def ctlGen (w : Word) : BitVec 8 := w.extractLsb' 32 8
def ctlOnce (w : Word) : Bool := w.getLsbD 40
def ctlByref (w : Word) : Bool := w.getLsbD 41
def ctlRt (w : Word) : Bool := w.getLsbD 42
def ctlNm1 (w : Word) : Nat := field w 43 3
def ctlOgen (w : Word) : BitVec 8 := w.extractLsb' 56 8

/-- A control word with new counts, and with a new generation. -/
def setCounts (w : Word) (refs flight : Nat) : Word := w &&& ~~~(0xFFFFFFFF : Word) ||| BitVec.ofNat 64 (refs + 65536 * flight)
def setGen (w : Word) (g : BitVec 8) : Word := w &&& ~~~(0xFF00000000 : Word) ||| (g.setWidth 64 <<< 32)

/-- A frame is free (R95). -/
def ctlFree (w : Word) : Bool := ctlRefs w == 0 && ctlFlight w == 0 && !ctlMoved w

/-- The lowest free frame of a core's store (R95); one whose control word is uncorrectable is not known to be free. -/
def Mach.freeEnv (m : Mach) (c : Nat) : Option Nat :=
  (List.range (m.core c).envCount).find? (fun i => ctlFree (m.ctl (m.envKey c i)) && !m.scratchBad.contains (m.envKey c i + 8))

/-- The key of the uncorrectable control word that a search for the lowest free frame reads, if it reads one (R137). -/
def Mach.badEnv (m : Mach) (c : Nat) : Option Nat :=
  (((List.range (m.core c).envCount).map (fun i => m.envKey c i + 8)).find? (fun k =>
    m.scratchBad.contains k || ctlFree (m.word k))).filter m.scratchBad.contains

/-- Whether counts free a frame by reference whose OUTER is uncorrectable (R104, R137). -/
def Mach.outerBad (m : Mach) (k refs flight : Nat) : Bool :=
  refs == 0 && flight == 0 && ctlByref (m.ctl k) && m.scratchBad.contains (k + 16)

/-- New counts of a frame; it is freed when both are zero, and the frame that it is by reference to unpinned if OUTER can be
read (R95, R104). (log 71, DESIGN CHOICE) -/
def Mach.putCounts (m : Mach) (c k refs flight : Nat) : Mach :=
  let w := m.ctl k
  if refs = 0 && flight = 0 then
    let m := m.write (k + 8) 8 (setGen (setCounts w 0 0) (nextGen (ctlGen w))).toNat
    if ctlByref w && !m.scratchBad.contains (k + 16) then m.unpinFrame c (field (m.word (k + 16)) 0 21) (ctlOgen w) else m
  else m.write (k + 8) 8 (setCounts w refs flight).toNat

/-- The live forwarding entry of a core that covers an environment store index; of several, the oldest (R106, R260).
(log 22, DEDUCED; log 37, DEDUCED) -/
def Mach.forwardOf (m : Mach) (c i : Nat) : Option Forward :=
  (m.core c).forwards.find? (fun f => f.env0 ≤ i && i < f.env0 + f.envn)

/-- The checks of R92 from core `c` on, following live forwarding entries: the core and the frame's key. A chain of live
entries visits a core once, and there are 1,024. -/
def Mach.frameOf (m : Mach) (h : Handle) : Nat → Nat → Except Cause (Nat × Nat)
  | 0, _ => .error .forwardExpired
  | n + 1, c =>
    if m.isFenced c then .error .applyTargetFenced
    else if hGen h = 0 || (m.core c).envCount ≤ hIndex h then .error .staleHandle
    else
      let k := m.envKey c (hIndex h)
      if m.scratchBad.contains (k + 8) then .error .scratchUncorrectable
      else if ctlMoved (m.ctl k) then
        match m.forwardOf c (hIndex h) with
        | some f => m.frameOf h n f.dest
        | none => .error .forwardExpired
      else if ctlGen (m.ctl k) ≠ hGen h then .error .staleHandle
      else .ok (c, k)

/-- The forwarding entries that an operation on a handle passes take their life anew (R260). (log 37, DEDUCED) -/
def Mach.touchFrom (m : Mach) (h : Handle) : Nat → Nat → Mach
  | 0, _ => m
  | n + 1, c =>
    if m.movedAt c h then
      match m.forwardOf c (hIndex h) with
      | some f =>
        (m.modCore c (fun r => { r with forwards := r.forwards.map (fun g => if g = f then { g with used := m.now } else g) })).touchFrom
          h n f.dest
      | none => m
    else m
/-- A forwarding entry that an operation on the handle, begun at core `a`, uses takes its life anew (R260). (log 37, DEDUCED) -/
def Mach.touch (m : Mach) (h : Handle) (a : Nat := hHome h) : Mach := m.touchFrom h 1024 a

/-- New counts of the frame of a handle, at core `c` and key `k`, by an operation begun at core `a`. -/
def Mach.putAt (m : Mach) (h : Handle) (c k refs flight : Nat) (a : Nat := hHome h) : Mach :=
  (m.putCounts c k refs flight).touch h a

/-- The checks of R92 for an applier in partition `p`, at the home or at the core `a` to which the operation was forwarded. -/
def Mach.live (m : Mach) (p : Nat) (h : Handle) (a : Nat := hHome h) : Except Cause (Nat × Nat) :=
  if !m.inPart p (hHome h) then .error .partitionViolation else m.frameOf h 1024 a

/-- TakeApplication (R92, R99, R103), by an applier of privilege `rt`. -/
def Mach.takeApp (m : Mach) (p : Nat) (h : Handle) (rt : Bool) (a : Nat := hHome h) : Except Cause Mach :=
  match m.live p h a with
  | .error e => .error e
  | .ok (c, k) =>
    let w := m.ctl k
    if ctlRt w && !rt then .error .privileged
    else if ctlRefs w = 0 then .error (if ctlOnce w then .onceReused else .staleHandle)
    else if ctlFlight w = 65535 then .error .refcountOverflow
    else .ok (m.putAt h c k (if ctlOnce w then ctlRefs w - 1 else ctlRefs w) (ctlFlight w + 1) a)

/-- ReturnApplication (R118): the flight is given up, and a once closure's reference restored unless the count is full,
which is reported. -/
def Mach.untakeApp (m : Mach) (p : Nat) (h : Handle) (applier : Nat) (a : Nat := hHome h) : Mach :=
  match m.live p h a with
  | .error _ => m
  | .ok (c, k) =>
    let w := m.ctl k
    if ctlOnce w && ctlRefs w == 65535 then
      (m.putAt h c k (ctlRefs w) (ctlFlight w - 1) a).complainHandle c .refcountOverflow h applier
    else m.putAt h c k (if ctlOnce w then ctlRefs w + 1 else ctlRefs w) (ctlFlight w - 1) a

/-- A flight given up without a dispatch (R185); an uncorrectable OUTER of a frame that it frees is reported (R134, R137). -/
def Mach.dropFlight (m : Mach) (p : Nat) (h : Handle) (a : Nat := hHome h) : Mach :=
  match m.live p h a with
  | .error _ => m
  | .ok (c, k) =>
    let n := m.putAt h c k (ctlRefs (m.ctl k)) (ctlFlight (m.ctl k) - 1) a
    if m.outerBad k (ctlRefs (m.ctl k)) (ctlFlight (m.ctl k) - 1) then n.complainHandle c .scratchUncorrectable h c else n

/-- DUPK and DROPK (R99, R365). -/
def Mach.dupRef (m : Mach) (p : Nat) (h : Handle) (a : Nat := hHome h) : Except Cause Mach :=
  match m.live p h a with
  | .error e => .error e
  | .ok (c, k) =>
    let w := m.ctl k
    if ctlRefs w = 0 then .error .staleHandle
    else if ctlRefs w = 65535 then .error .refcountOverflow
    else .ok (m.putAt h c k (ctlRefs w + 1) (ctlFlight w) a)

def Mach.dropRef (m : Mach) (p : Nat) (h : Handle) (a : Nat := hHome h) : Except Cause Mach :=
  match m.live p h a with
  | .error e => .error e
  | .ok (c, k) =>
    let w := m.ctl k
    if ctlRefs w = 0 then .error .staleHandle
    else if m.outerBad k (ctlRefs w - 1) (ctlFlight w) then .error .scratchUncorrectable
    else .ok (m.putAt h c k (ctlRefs w - 1) (ctlFlight w) a)

/-- A reference that nobody waits for is given up; a word of the frame that cannot be read is reported (R134, R137). -/
def Mach.unref (m : Mach) (p : Nat) (h : Handle) (applier : Nat) (a : Nat := hHome h) : Mach :=
  match m.dropRef p h a with
  | .ok m => m
  | .error .scratchUncorrectable => m.complainHandle a .scratchUncorrectable h applier
  | .error _ => m

/-- The reference that CHBIND takes (R99, R103). -/
def Mach.bindRef (m : Mach) (p : Nat) (h : Handle) (rt : Bool) (a : Nat := hHome h) : Except Cause Mach :=
  match m.live p h a with
  | .error e => .error e
  | .ok (c, k) =>
    let w := m.ctl k
    if ctlRt w && !rt then .error .privileged
    else if ctlOnce w then .error .channelBindConflict
    else if ctlRefs w = 0 then .error .staleHandle
    else if ctlRefs w = 65535 then .error .refcountOverflow
    else .ok (m.putAt h c k (ctlRefs w + 1) (ctlFlight w) a)

/-- A waiter's flight becomes a reference (R127): the cause if the count is full. -/
def Mach.flightToRef (m : Mach) (p : Nat) (h : Handle) (a : Nat := hHome h) : Option Cause × Mach :=
  match m.live p h a with
  | .error e => (some e, m)
  | .ok (c, k) =>
    let w := m.ctl k
    if ctlRefs w = 65535 then (some .refcountOverflow, m.putAt h c k (ctlRefs w) (ctlFlight w - 1) a)
    else (none, m.putAt h c k (ctlRefs w + 1) (ctlFlight w - 1) a)

/-! ### The deque (R79, R80) -/

/-- Takes a pool frame for a spill. -/
def Mach.takeFrame (m : Mach) (c i : Nat) : Mach := m.modCore c (fun r => { r with used := insertNat r.used i })

/-- Adds at the newest end; none when a spill finds no free frame. (log 37, DEDUCED) -/
def Mach.pushNewest (m : Mach) (c : Nat) (e : Entry) : Option Mach :=
  let r := m.core c
  if r.deque.length < 64 then some (m.modCore c (fun r => { r with deque := r.deque ++ [e] }))
  else
    match m.freeFrame c with
    | none => none
    | some i => some ((m.takeFrame c i).modCore c (fun r =>
        { r with spill := r.spill ++ [(i, r.deque.take 32)], deque := r.deque.drop 32 ++ [e] }))

/-- Adds at the oldest end; none when a new spill frame finds no free frame. -/
def Mach.pushOldest (m : Mach) (c : Nat) (e : Entry) : Option Mach :=
  let r := m.core c
  let fresh : Option Mach :=
    match m.freeFrame c with
    | none => none
    | some i => some ((m.takeFrame c i).modCore c (fun r => { r with spill := (i, [e]) :: r.spill }))
  match r.spill with
  | [] => if r.deque.length < 64 then some (m.modCore c (fun r => { r with deque := e :: r.deque })) else fresh
  | (i, es) :: t =>
    if es.length < 64 then some (m.modCore c (fun r => { r with spill := (i, e :: es) :: t })) else fresh

/-- Refills an empty hardware part from the newest spill frame, which returns to the pool. (log 37, DEDUCED) -/
def Mach.refill (m : Mach) (c : Nat) : Mach :=
  let r := m.core c
  match r.deque, r.spill.getLast? with
  | [], some (i, es) => m.modCore c (fun r => { r with deque := es, spill := r.spill.dropLast, used := eraseNat r.used i })
  | _, _ => m

/-- The first entry that passes, and the others. (log 38, DEDUCED) -/
def takeFirst (ok : Entry → Bool) : List Entry → Option (Entry × List Entry)
  | [] => none
  | e :: t =>
    if ok e then some (e, t)
    else match takeFirst ok t with
      | some (x, t) => some (x, e :: t)
      | none => none

/-- The last entry that passes, and the others. (log 38, DEDUCED) -/
def takeLast (ok : Entry → Bool) (l : List Entry) : Option (Entry × List Entry) :=
  match takeFirst ok l.reverse with
  | some (x, t) => some (x, t.reverse)
  | none => none

/-- The same over a chain of spill frames; a frame left empty returns to the pool. -/
def takeSpill (pick : List Entry → Option (Entry × List Entry)) :
    List (Nat × List Entry) → Option (Entry × List (Nat × List Entry) × List Nat)
  | [] => none
  | (i, es) :: t =>
    match pick es with
    | some (x, []) => some (x, t, [i])
    | some (x, es) => some (x, (i, es) :: t, [])
    | none =>
      match takeSpill pick t with
      | some (x, t, f) => some (x, (i, es) :: t, f)
      | none => none

/-- Whether the dispatcher may take an entry: its queue is not pre-empted (R246). (log 38, DEDUCED) -/
def Mach.mayTake (m : Mach) (c : Nat) (e : Entry) : Bool :=
  match e.tag with
  | none => true
  | some q => (m.queue ((m.partOf c).getD 0) q).state != .preempted

/-- Removes at the newest end, passing over entries of pre-empted queues. -/
def Mach.popNewest (m : Mach) (c : Nat) : Option (Entry × Mach) :=
  let r := m.core c
  match takeLast (m.mayTake c) r.deque with
  | some (e, t) => some (e, (m.modCore c (fun r => { r with deque := t })).refill c)
  | none =>
    match takeSpill (takeLast (m.mayTake c)) r.spill.reverse with
    | some (e, t, f) => some (e, m.modCore c (fun r => { r with spill := t.reverse, used := r.used.filter (fun i => !f.contains i) }))
    | none => none

/-- Removes at the oldest end, likewise. -/
def Mach.popOldest (m : Mach) (c : Nat) : Option (Entry × Mach) :=
  let r := m.core c
  match takeSpill (takeFirst (m.mayTake c)) r.spill with
  | some (e, t, f) => some (e, m.modCore c (fun r => { r with spill := t, used := r.used.filter (fun i => !f.contains i) }))
  | none =>
    match takeFirst (m.mayTake c) r.deque with
    | some (e, t) => some (e, (m.modCore c (fun r => { r with deque := t })).refill c)
    | none => none

end Sys2Proof.Machine
end

