-- ==== Sys2Proof/Machine/Tasks.lean ====
section
/-!
DEFINITION. Tasks: their start (R23, R105), their end (R63, R369), and the dispatcher's sources (R76, R77).
-/
namespace Sys2Proof.Machine

/-- A context with no task: its scope-C registers stand (R24). -/
def endedCtx (x : Nat) (v : Ctx) : Ctx :=
  { freshCtx x with policy := v.policy, foldstat := v.foldstat, cause := v.cause, badaddr := v.badaddr,
                    brsrc := v.brsrc, trappc := v.trappc }

/-- A fresh workspace in the frame at an LW offset (R23). -/
def Mach.freshFrame (m : Mach) (c off : Nat) : Mach :=
  let k := scratchKey c off
  { m with mem := Mem.clear (Mem.clear m.mem k 1520) (k + 1648) 8,
           empties := m.empties.filter (fun e => !(k ≤ e && e < k + 2048)),
           scratchBad := m.scratchBad.filter (fun e => !(k ≤ e && e < k + 1520) && e != k + 1648) }

/-- A word of a closure frame as its home reads it: zero where it is uncorrectable (R134, R137). -/
def Mach.frameWord (m : Mach) (k : Nat) : Word := if m.scratchBad.contains k then 0 else m.word k

/-- The captured words of a frame, those beyond NM1 zero. -/
def Mach.captures (m : Mach) (k n : Nat) : List Word := (List.range n).map (fun i => m.frameWord (k + 24 + 8 * i))

/-- Dispatch of an entry into context `x` of core `c`, on the frame at `off` (R105). A handle that the checks of R92 no longer
pass is dispatched from the frame at its HOME as it stands there, and a FLIGHT of 0 stays 0. An
uncorrectable word of the frame is a trap at the entry where the frame is the own core's, and reads zero with an entry where it
is another's (R134, R137). (log 58, DESIGN CHOICE; log 71, DESIGN CHOICE) -/
def Mach.startTask (m : Mach) (now c x off : Nat) (e : Entry) : Mach :=
  let home := (m.live ((m.partOf c).getD 0) e.h).toOption.getD (hHome e.h, m.envKey (hHome e.h) (hIndex e.h))
  let k := home.2
  let w := m.ctl k
  let spoilt := (([k, k + 8, k + 16] ++ (List.range (ctlNm1 w + 1)).map (fun i => k + 24 + 8 * i)).filter
    (fun a => m.scratchBad.contains a)).head?
  let entry := m.frameWord k
  let outer := m.frameWord (k + 16)
  let caps := m.captures k (ctlNm1 w + 1)
  let r := m.core home.1
  let dangling := ctlByref w && (match r.frameNo (field outer 0 21) with
    | some i => Table.get r.gens i 0 != ctlOgen w
    | none => true)
  let w7 : Word :=
    if ctlByref w && !dangling then
      (if hHome e.h = c then 0xFC00000000000000 else BitVec.ofNat 64 (scratchKey (hHome e.h) 0)) + BitVec.ofNat 64 (field outer 0 21)
    else 0
  let m := m.freshFrame c off
  let f := scratchKey c off
  let m := m.write (f + 8) 8 e.args.w1.toNat
  let m := m.write (f + 16) 8 e.args.w2.toNat
  let m := m.write (f + 24) 8 e.args.w3.toNat
  let m := m.write (f + 56) 8 w7.toNat
  let m := ((List.range 8).zip caps).foldl (fun m p => m.write (f + 64 + 8 * p.1) 8 p.2.toNat) m
  let m := m.putAt e.h home.1 k (ctlRefs (m.ctl k)) (ctlFlight (m.ctl k) - 1)
  let v := m.ctx c x
  let m := { m.fresh with nextId := m.nextId + 1 }
  let m := m.setCtx c x { endedCtx x v with
    live := true, task := m.nextId, rt := ctlRt w, wp := off, pc := entry, tag := e.tag, since := now, pin := e.pin,
    gen := seedGen 0 c x now }
  match spoilt with
  | some a =>
    if home.1 = c then m.enterTrap c x { cause := .scratchUncorrectable, bad := lwOf a } entry
    else m.postAt c { cause := Cause.scratchUncorrectable.code, core := c, ctx := x, bad := BitVec.ofNat 64 a }
  | none => if dangling then m.enterTrap c x { cause := .danglingFrame, bad := e.h.setWidth 64 } entry else m

/-- The payload port of a handler task (R187). -/
def Mach.givePayload (m : Mach) (c x ch : Nat) (e : Entry) : Mach :=
  m.modCtx c x (fun v => { v with slot := some ch, ports := v.ports.set 3 (.payload e.payload) })

/-- An unpin on the pair channel to the block's slice, after the stores that wait to be combined (R125, R152). -/
def Mach.sendUnpin (m : Mach) (c : Nat) (p : Nat × Nat) : Mach :=
  (m.drainAll c).inject { id := 0, src := c, dst := sliceEnd p.1, body := .unpin p.2, core := c }

/-- What a task gives up at any end: its pin and its channel slot (R63, R125, R187). -/
def Mach.giveUp (m : Mach) (c : Nat) (v : Ctx) : Mach :=
  let m := match v.pin with | some p => m.sendUnpin c p | none => m
  match v.slot with
  | some ch => m.modCore c (fun r => { r with chans := r.chans.modify ch (fun k => { k with running := k.running - 1 }) })
  | none => m

/-- The task of context `x` ends (R63, R369): its frame is the one that WP names then. (log 68, DESIGN CHOICE) -/
def Mach.endTask (m : Mach) (c x : Nat) : Mach :=
  let v := m.ctx c x
  let m := (m.giveUp c v).setCtx c x (endedCtx x v)
  if x = 11 then m
  else match (m.core c).frameNo v.wp with
    | some i => m.frameEnded c i
    | none => m

/-! ### Dispatcher (R76, R77) -/

/-- The first entry that passes among those before the first whose application is still to be taken at its home (R101). -/
def takeSettled (ok : Entry → Bool) (l : List Entry) : Option (Entry × List Entry) :=
  (takeFirst ok (l.takeWhile (fun e => e.check == 0))).map (fun r => (r.1, r.2 ++ l.dropWhile (fun e => e.check == 0)))

/-- Whether a channel has a held arrival that the dispatcher may take. -/
def Mach.chanWork (m : Mach) (c : Nat) (ch : Nat) : Bool :=
  match (m.core c).chans[ch]? with
  | some k => !k.cfg.getLsbD 11 && (takeSettled (m.mayTake c) k.held).isSome
  | none => false

/-- The pending level-0 channel to serve next: lowest priority number, then rotation (R77). -/
def Mach.nextChan (m : Mach) (c : Nat) : Option Nat :=
  let r := m.core c
  (List.range 8).findSome? (fun p =>
    let start := r.served.getD p 7 + 1
    ((List.range 8).map (fun i => (start + i) % 8)).find? (fun ch =>
      field ((r.chans.getD ch {}).cfg) 12 3 == p && m.chanWork c ch))

/-- Whether the deque holds an entry the dispatcher may take. -/
def Mach.dequeWork (m : Mach) (c : Nat) : Bool :=
  (m.core c).deque.any (m.mayTake c) || (m.core c).spill.any (fun f => f.2.any (m.mayTake c))

/-- The wake to take next. -/
def Mach.wakeWork (m : Mach) (c : Nat) : Bool := (m.core c).wakes.any (m.mayTake c)

/-- The source of the next dispatch (R76, R77): 0 to 3, or none; in a partition that is being saved, only source 0
(R257). (log 38, DEDUCED; log 76, DESIGN CHOICE) -/
def Mach.source (m : Mach) (c : Nat) : Option Nat :=
  let r := m.core c
  if !r.resumed.isEmpty then some 0
  else if (m.part ((m.partOf c).getD 0)).state == .switching then none
  else if (m.freeFrame c).isNone then none
  else if 16 ≤ r.dequeCount && m.dequeWork c then some 3
  else if 4 ≤ r.wakeCount && (m.nextChan c).isSome then some 2
  else if m.wakeWork c then some 1
  else if (m.nextChan c).isSome then some 2
  else if m.dequeWork c then some 3
  else none

/-! ### Stealing domains (R81, R82) -/

/-- Whether core `d` lies in the stealing domain of core `c`, which its partition clips. -/
def Mach.inDomain (m : Mach) (c d : Nat) : Bool :=
  m.partOf d == m.partOf c &&
  (match (m.core c).stealdom with
   | 1 => clusterOf c == clusterOf d
   | 2 => rowOf c == rowOf d && dieOfCore c == dieOfCore d
   | 3 => dieOfCore c == dieOfCore d
   | 4 => true
   | _ => false)

/-- The victims of core `c`, in cyclic COREID order after `last`. (log 35, DEDUCED) -/
def Mach.victims (m : Mach) (c last : Nat) : List Nat :=
  ((List.range 1024).map (fun i => (last + 1 + i) % 1024)).filter (fun d => d != c && m.inDomain c d)

/-- The counters after a dispatch from a source (R77). -/
def Core.counted (r : Core) (src : Nat) : Core :=
  { r with wakeCount := if src = 1 then r.wakeCount + 1 else 0,
           dequeCount := if src = 1 || src = 2 then r.dequeCount + 1 else 0 }

/-- Dispatches an entry into the lowest free helper and frame. (log 37, DEDUCED) -/
def Mach.dispatchEntry (m : Mach) (now c : Nat) (e : Entry) : Mach :=
  match m.freeHelper c, m.freeFrame c with
  | some x, some i => (m.takeFrame c i).startTask now c x ((m.core c).frameAt i) e
  | _, _ => m

/-- Whether the home of an entry's handle can perform its dispatch now: at another core the dispatch follows every request
before it on the pair channel, those that have been sent on included, and a migration there holds it (R105, R107, R152, R390).
(log 37, DEDUCED; log 38, DEDUCED) -/
def Mach.homeReady (m : Mach) (c : Nat) (e : Entry) : Bool :=
  !(m.movedAt (hHome e.h) e.h && m.handlesFlying c) &&
  (hHome e.h == c || (m.quiet c (hHome e.h) && !m.migrHolds (hHome e.h) false (.handle .take e.h true)))

/-- One dispatch from sources 0 to 3 (R76). (log 38, DEDUCED) -/
def Mach.dispatchOne (m : Mach) (now c : Nat) : Mach :=
  match m.freeHelper c, m.source c with
  | some x, some 0 =>
    match (m.core c).resumed with
    | h :: t => ((m.modCore c (fun r => ({ r with resumed := t }).counted 0))).setCtx c x h.ctx
    | [] => m
  | some _, some 1 =>
    match takeFirst (m.mayTake c) (m.core c).wakes with
    | some (e, t) =>
      if m.homeReady c e then (m.modCore c (fun r => ({ r with wakes := t }).counted 1)).dispatchEntry now c e else m
    | none => m
  | some x, some 2 =>
    match m.nextChan c with
    | some ch =>
      let k := (m.core c).chans.getD ch {}
      match takeSettled (m.mayTake c) k.held with
      | some (e, t) =>
        if m.homeReady c e then
          let m := m.modCore c (fun r => { (r.counted 2) with
            chans := r.chans.set ch { k with held := t, running := k.running + 1 },
            served := r.served.set (field k.cfg 12 3) ch })
          (m.dispatchEntry now c e).givePayload c x ch e
        else m
      | none => m
    | none => m
  | some _, some 3 =>
    match m.popNewest c with
    | some (e, t) => if m.homeReady c e then (t.modCore c (fun r => r.counted 3)).dispatchEntry now c e else m
    | none => m
  | _, _ => m

end Sys2Proof.Machine
end

