-- ==== Sys2Proof/Machine/Fetch.lean ====
section
/-!
DEFINITION. Fetch (R131, R140, R141, R250) and the choice of the context that issues in a core cycle (R68, R263).
-/
namespace Sys2Proof.Machine

/-- Whether a core cycle is admitted for issue (R263). -/
def admitted (cycle duty : Nat) : Bool :=
  let j := cycle % 16
  decide (j * duty / 16 < (j + 1) * duty / 16)

/-- FDUTY of a core. -/
def Power.dutyOf (p : Power) (c : Nat) : Nat := Table.get p.duty c 16

/-- Completed phases of the core's team (R86). -/
def Mach.phaseOf (m : Mach) (c : Nat) : Option Nat :=
  (Table.find (m.part ((m.partOf c).getD 0)).teams (field (m.core c).teamid 0 16)).map (·.phase)

/-- Free slots of a sequencer (R229): at most four sequences wait or run. -/
def Mach.seqRoom (m : Mach) (c : Nat) (mtx : Bool) : Bool :=
  decide ((if mtx then (m.cluster (clusterOf c)).seqs.length else (m.core c).seqs.length) < 4)

/-- Whether what a context waits for has come, for the waits that precede issue. -/
def Mach.waitOver (m : Mach) (c x : Nat) (v : Ctx) : Bool :=
  match v.wait with
  | .none => true
  | .marker => !m.outstanding c v.task
  | .walk va => !m.walkHeld c va
  | .fence acq rel sys =>
    (!acq || m.acquiredAll c x v.task) && (!rel || (m.releasedAll c x v.task && !(sys && m.peerHeld c x v.task)))
  | .sendSlot => decide ((m.core c).sendq < 16)
  | .seqSlot copy mtx _ => (!copy || m.seqRoom c false) && (!mtx || m.seqRoom c true)
  | .barrier p => m.phaseOf c != some p
  | .sync _ => false
  | .stream k => m.full k
  | .reply _ _ => false

/-- An instruction cache with one more line; when it is full the oldest line goes. (log 12, DESIGN CHOICE) -/
def icacheAdd (t : List (Nat × List Byte)) (l : Nat × List Byte) : List (Nat × List Byte) :=
  (if 512 ≤ t.length then t.drop 1 else t) ++ [l]

/-- The word at a physical address, through the instruction cache (R141); none while the line is held at its home (R148,
R269). A line that cannot be read is fetched as zeros and reported as a load's error reply is (R134, R144, R277); an absent
parkable block is fetched from its backing memory. (log 49, DEDUCED) -/
def Mach.fetchWord (m : Mach) (c x pa : Nat) (pte va : Word) : Option IWord × Mach :=
  let line := lineOf pa
  let take (data : List Byte) : IWord := BitVec.ofNat 32 (ofBytes ((data.drop (pa % 128)).take 4))
  match (m.core c).icache.lookup line with
  | some data => (some (take data), m)
  | none =>
    let blk := if ptePk pte then (m.blockAt pa).filter Block.served else none
    if m.memHeld pa then (none, m)
    else
      let m := m.remapped c pa (hashUnit pte)
      let w : Requester := { core := c, ctxs := [x], va := va, pc := va }
      let r : Body × Mach :=
        if m.outOfRange ((m.partOf c).getD 0) pa then (.failed .partitionViolation false, m)
        else if regionType pa == 1 && blk.isNone then m.performPeer .loadLine (128 * line) w
        else m.performLine .loadLine (128 * line) w blk
      match r.1 with
      | .line data => (some (take data), r.2.modCore c (fun k => { k with icache := icacheAdd k.icache (line, data) }))
      | .failed e _ => (some 0, r.2.errorEntry c e va va x)
      | _ => (some 0, r.2)

/-- Fetch at a context's PC: the word, if it has come, or the fault; a bad line that the walk meets is as one fetched from.
(log 49, DEDUCED) -/
def Mach.fetch (m : Mach) (c x : Nat) (pc : Word) : Except Miss (Option IWord × Mach) :=
  if !isGv pc then .error { cause := .addressClass }
  else if field pc 0 2 ≠ 0 then .error { cause := .misalignedPc }
  else
    match m.translate c pc.toNat .fetch with
    | .error e =>
      if e.held then .ok (none, m)
      else if e.entry.isSome then .ok (some 0, (m.marked e.entry).errorEntry c e.cause pc pc x)
      else .error e
    | .ok (pa, pte, m) =>
      if m.peerGone pa then .error { cause := .peerUnreachable } else .ok (m.fetchWord c x pa pte pc)

/-- The instructions that wait at an implicit switch marker before anything else (R63, R249, R27, R339); an AWAIT or AWAITV
waits once it is known to go on to its park (`Mach.parksAfter`). -/
def implicitMarker (i : Instr) : Bool :=
  match i with
  | .endTask => true
  | .applyTail _ _ => true
  | .rte => true
  | .cswr _ n => n == 0
  | _ => false

/-- END, which waits for the stores of its task as well (R285). (log 72, DEDUCED) -/
def endsTask (i : Instr) : Bool :=
  match i with
  | .endTask => true
  | _ => false

/-- Whether an instruction of the issuing context acts on a handle of its own core whose frame has moved (R92, R106); those of
an EFORK's lists, and those that a port gives, are not looked at. (log 37, DEDUCED) -/
def Mach.usesMoved (m : Mach) (i : Instr) : Bool :=
  let moved (h : Handle) : Bool := hHome h == m.cur.core && m.movedAt m.cur.core h
  let lanes (v : BitVec 4) : Bool := m.port v != .unbound || (List.range 16).any (fun n => moved (lane (m.vimage v) n))
  match i with
  | .apply k _ => moved (m.k k)
  | .applyTail k _ => moved (m.k k)
  | .applyv v _ => lanes v
  | .spawn k _ => moved (m.k k)
  | .start k _ => moved (m.k k)
  | .dupk k => moved (m.k k)
  | .dropk k => moved (m.k k)
  | .kinfo k _ => moved (m.k k)
  | .chbind _ k _ _ => moved (m.k k)
  | .await k _ => moved (m.k k)
  | .awaitv v _ _ _ => lanes v
  | .efork _ _ _ => true
  | _ => false

/-- The instructions before which the stores of a core's contexts to their own window may still be outstanding: those on
registers alone, accesses to memory, which see to their own order, fences, and CPY, whose records are registers (R153, R156).
Every other instruction comes after those stores, EFORK with its scan of the lists among them (R368). (log 61, DEDUCED) -/
def defersStores (i : Instr) : Bool :=
  match i with
  | .add _ _ _ => true
  | .sub _ _ _ => true
  | .and _ _ _ => true
  | .or _ _ _ => true
  | .xor _ _ _ => true
  | .shl _ _ _ => true
  | .shr _ _ _ => true
  | .sha _ _ _ => true
  | .slt _ _ _ => true
  | .sltN64 _ _ _ => true
  | .min _ _ _ => true
  | .minN64 _ _ _ => true
  | .max _ _ _ => true
  | .maxN64 _ _ _ => true
  | .sel _ _ _ _ => true
  | .addi _ _ _ => true
  | .andi _ _ _ => true
  | .ori _ _ _ => true
  | .xori _ _ _ => true
  | .slti _ _ _ => true
  | .shlImm _ _ _ => true
  | .shrImm _ _ _ => true
  | .shaImm _ _ _ => true
  | .mul _ _ _ => true
  | .mulh _ _ _ => true
  | .mulhN64 _ _ _ => true
  | .clz _ _ => true
  | .popc _ _ => true
  | .ext _ _ _ _ => true
  | .extI64 _ _ _ _ => true
  | .ins _ _ _ _ => true
  | .lic _ _ _ => true
  | .licZ _ _ _ => true
  | .beq _ _ _ => true
  | .bne _ _ _ => true
  | .blt _ _ _ => true
  | .bge _ _ _ => true
  | .blo _ _ _ => true
  | .bhs _ _ _ => true
  | .bma _ _ => true
  | .bmn _ _ => true
  | .ldN _ _ _ _ => true
  | .ldI _ _ _ _ => true
  | .st _ _ _ _ => true
  | .lds _ _ _ => true
  | .ldsC _ _ _ => true
  | .stf _ _ _ => true
  | .sete _ _ => true
  | .amoAdd _ _ _ _ _ => true
  | .amoAnd _ _ _ _ _ => true
  | .amoOr _ _ _ _ _ => true
  | .amoXor _ _ _ _ _ => true
  | .amoMin _ _ _ _ _ => true
  | .amoMax _ _ _ _ _ => true
  | .amoSwap _ _ _ _ _ => true
  | .cas _ _ _ _ _ => true
  | .fence _ _ => true
  | .pref _ _ _ => true
  | .vld _ _ _ _ => true
  | .vst _ _ _ _ => true
  | .vgath _ _ _ _ _ => true
  | .vscat _ _ _ _ _ => true
  | .cpy _ _ _ => true
  | _ => false

/-- The vector registers that a vector load or store names, whose ports it pops or pushes (R409). (log 61, DEDUCED) -/
def portsOf (i : Instr) : List (BitVec 4) :=
  match i with
  | .vld v _ _ _ => [v]
  | .vst v _ _ _ => [v]
  | .vgath v _ x _ _ => [v, x]
  | .vscat v _ x _ _ => [v, x]
  | _ => []

/-- The machine as the instruction `i` of context `x` of core `c`, of word `w`, finds it: pops and pushes come after the core's
stores to its own window (R153, R409). (log 61, DEDUCED) -/
def Mach.before (m : Mach) (c x : Nat) (w : IWord) (i : Instr) : Mach :=
  let m : Mach := { m with cur := { core := c, ctx := x, word := w } }
  let streams := (portsOf i).any (fun v => match m.port v with | .stream _ _ _ => true | _ => false)
  if defersStores i && !streams then m else m.settleOwn c

/-- Whether a task has a store that its home has not acknowledged, other than an STG or an ARRIVE (R285, R341, R419); the
control context has no end to wait for. (log 72, DEDUCED) -/
def Mach.storing (m : Mach) (c x task : Nat) : Bool :=
  x != 0 && ((m.core c).combine.any (fun e => e.tasks.contains task) ||
    m.packets.any (fun p => p.answers == 0 && p.core == c && p.src == c && p.seq == 0 &&
      (p.task == task || p.also.contains task) && (match p.body with
        | .mem (.foldStore _) _ _ _ => false
        | .mem .arrive _ _ _ => false
        | .mem op a va pk => (Body.mem op a va pk).released
        | _ => false)))

/-- What a core issues in a cycle: the context, the operation, and the word. -/
structure Pick where
  ctx : Nat
  instr : Instr
  word : IWord
deriving DecidableEq, Repr

/-- Whether a task has a late result outstanding that a write-bound port will push: the push comes before the task's next
access, and before the binding ends (R408, R409). (log 44, DEDUCED) -/
def Mach.pushing (m : Mach) (c task : Nat) : Bool := m.pends.any (fun p => p.core == c && p.task == task && !p.push.isEmpty)

/-- What context `x` would issue; a context that meets a marker with results outstanding waits (R69), and so does one whose
operation on a handle would pass an earlier one sent on to a core to which the frame has moved (R107).
(log 37, DEDUCED; log 72, DEDUCED) -/
def Mach.candidate (m : Mach) (c x : Nat) : Option Pick × Mach :=
  let v := m.ctx c x
  if !v.live || !m.waitOver c x v || m.pushing c v.task then (none, m)
  else
    match m.fetch c x v.pc with
    | .error e => (some { ctx := x, instr := .fetchFault e.cause v.pc, word := 0 }, m)
    | .ok (none, m) => (none, m)
    | .ok (some w, m) =>
      let wait := m.setCtx c x { v with wait := .marker }
      if w.getLsbD 31 && m.outstanding c v.task then (none, wait)
      else
        match decode w with
        | .error _ => (some { ctx := x, instr := .illegalEncoding w, word := w }, m)
        | .ok i =>
          if (implicitMarker i && m.outstanding c v.task) || (endsTask i && m.storing c x v.task) then (none, wait)
          else if m.handlesFlying c && ({ m with cur := { core := c, ctx := x, word := w } } : Mach).usesMoved i then (none, m)
          else (some { ctx := x, instr := i, word := w }, m)

/-- The first context of a list that can issue. -/
def Mach.firstOf (m : Mach) (c : Nat) : List Nat → Option Pick × Mach
  | [] => (none, m)
  | x :: t =>
    match m.candidate c x with
    | (some p, m) => (some p, m)
    | (none, m) => m.firstOf c t

/-- Contexts 0 to 10 in cyclic order after `last`. -/
def afterLast (last : Nat) : List Nat := (List.range 11).map (fun i => (last + 1 + i) % 11)

/-- The choice of R68. -/
def Mach.choose (m : Mach) (c : Nat) : Option Pick × Mach :=
  if (m.ctx c 11).live then m.candidate c 11
  else
    match m.firstOf c (afterLast (m.core c).last) with
    | (some p, m) => (some p, m.modCore c (fun r => { r with last := p.ctx }))
    | (none, m) => (none, m)

/-- Whether a context waits before its instruction issues (R66, R67): for results, a fence, a slot, a phase, or the
words of a stream. Such a context was not Ready, and its instruction has not issued. -/
def Mach.unissued (m : Mach) (c x : Nat) : Bool :=
  match (m.ctx c x).wait with
  | .marker => true
  | .walk _ => true
  | .fence _ _ _ => true
  | .sendSlot => true
  | .seqSlot _ _ _ => true
  | .barrier _ => true
  | .stream _ => true
  | .none => false
  | .sync _ => false
  | .reply _ _ => false

/-- The choice made again in the same cycle, Last as it was before, once the context chosen was found not Ready (R68). -/
def Mach.again (m : Mach) (c last : Nat) : Option Pick × Mach := (m.modCore c (fun r => { r with last := last })).choose c

/-- The instructions that the vector unit issues (R266). (log 33, DESIGN CHOICE) -/
def usesVectors (i : Instr) : Bool :=
  match i with
  | .vld _ _ _ _ => true
  | .vst _ _ _ _ => true
  | .vgath _ _ _ _ _ => true
  | .vscat _ _ _ _ _ => true
  | .vaddInt _ _ _ _ _ => true
  | .vsubInt _ _ _ _ _ => true
  | .vmulInt _ _ _ _ _ => true
  | .vminInt _ _ _ _ _ => true
  | .vmaxInt _ _ _ _ _ => true
  | .vshl _ _ _ _ _ => true
  | .vshr _ _ _ _ _ => true
  | .vcmpInt _ _ _ _ _ _ => true
  | .vaddFloat _ _ _ _ _ => true
  | .vsubFloat _ _ _ _ _ => true
  | .vmulFloat _ _ _ _ _ => true
  | .vminFloat _ _ _ _ _ => true
  | .vmaxFloat _ _ _ _ _ => true
  | .vcmpFloat _ _ _ _ _ _ => true
  | .vfma _ _ _ _ _ _ => true
  | .vand _ _ _ _ => true
  | .vor _ _ _ _ => true
  | .vxor _ _ _ _ => true
  | .vsel _ _ _ _ => true
  | .vperm _ _ _ _ => true
  | .vbcast _ _ _ => true
  | .vextN32 _ _ _ => true
  | .vextI32 _ _ _ => true
  | .vins _ _ _ => true
  | .vcvt _ _ _ _ _ => true
  | .vred _ _ _ _ _ => true
  | .vscan _ _ _ _ _ => true
  | .vdot _ _ _ _ _ _ => true
  | .vsf _ _ _ _ => true
  | _ => false

/-- A cycle in which core `c` issued instruction `i`, in the counts of its die (R266). (log 33, DESIGN CHOICE) -/
def Mach.issuedCycle (m : Mach) (c : Nat) (i : Instr) : Mach :=
  if usesVectors i then { m with vectorIssues := m.vectorIssues.modify (dieOfCore c) (· + 1) } else m

/-! ### TASKLIM (R65, R66) -/

/-- A cycle more on the count of every task of a core. -/
def Mach.countTasks (m : Mach) (c : Nat) : Mach :=
  ((List.range 12).drop 1).foldl (fun m x =>
    if (m.ctx c x).live then m.modCtx c x (fun v => { v with count := v.count + 1 }) else m) m

/-- Whether a context's instruction has issued and its reply is awaited, or it runs its trap entry. -/
def Ctx.defers (v : Ctx) : Bool :=
  (match v.wait with | .reply _ _ => true | _ => false) || (v.rt && v.trapped)

/-- Whether a task has reached its limit and has not yet been told (R66). -/
def Mach.overrunDue (m : Mach) (c x : Nat) : Bool :=
  let v := m.ctx c x
  let lim := field (m.core c).tasklim 0 32
  decide (0 < x) && v.live && lim != 0 && decide (lim ≤ v.count) && !v.overran

/-- The overrun that a core raises in a cycle, if any. -/
def Mach.overrun (m : Mach) (c : Nat) : Option Pick :=
  (List.range 12).findSome? (fun x =>
    let v := m.ctx c x
    if !m.overrunDue c x then none
    else if !v.deferred then some { ctx := x, instr := .taskOverrun c x, word := 0 }
    else if v.defers then none
    else some { ctx := x, instr := .deferredTaskOverrun c x, word := 0 })

/-- Whether a core is running: in a partition that runs, powered and not fenced (R246, R257, R271, R275). -/
def Mach.running (m : Mach) (c : Nat) : Bool :=
  !m.isFenced c &&
  (match (m.part ((m.partOf c).getD 0)).state with
   | .running => true
   | .switching => true
   | _ => false)

/-- The overruns of tasks that wait for a reply or run their trap entry are deferred, which takes no cycle (R66). -/
def Mach.deferOverruns (m : Mach) (c : Nat) : Mach :=
  (List.range 12).foldl (fun m x =>
    let v := m.ctx c x
    let syncs := match v.wait with | .sync _ => true | _ => false
    if m.overrunDue c x && v.defers && !syncs then m.modCtx c x (fun v => { v with deferred := true }) else m) m

/-- One core cycle up to the choice of what issues (R68, R263). -/
def Mach.cycle (m : Mach) (c duty : Nat) : Option Pick × Mach :=
  if !m.running c then (none, m)
  else
    let m := ((m.modCore c (fun r => { r with cycles := r.cycles + 1 })).countTasks c).deferOverruns c
    match m.overrun c with
    | some p => (some p, m)
    | none => if admitted (m.core c).cycles duty then m.choose c else (none, m)

end Sys2Proof.Machine
end

