-- ==== Sys2Proof/Machine/Alu.lean ====
section
/-!
DEFINITION. Integer arithmetic, comparison, shifts, multiply and divide, bit fields and LIC (R308 to R312).
-/
namespace Sys2Proof.Machine

/-- A pipeline operation on two registers (R20, R22). -/
def Mach.alu2 (m : Mach) (d a b : BitVec 5) (f : Word → Word → Word) : Mach :=
  m.settle (do
    let x ← m.readW a
    let y ← m.readW b
    .ok (m.writeW d (f x y)).done)

/-- A pipeline operation on one register. -/
def Mach.alu1 (m : Mach) (d a : BitVec 5) (f : Word → Word) : Mach :=
  m.settle (do
    let x ← m.readW a
    .ok (m.writeW d (f x)).done)

/-- A division: DIVIDE_BY_ZERO before any effect, else a late result (R364, R404). -/
def Mach.divide (m : Mach) (d a b : BitVec 5) (f : Word → Word → Word) : Mach :=
  m.settle (do
    let x ← m.readW a
    let y ← m.readW b
    if y = 0 then .error { cause := .divideByZero }
    else .ok (m.late (m.lateW d) (.value (f x y).toNat 0)).done)

/-- A machine-only effect. -/
def State.onMach (s : State) (f : Mach → Mach) : Host.Outcome State Fault Refusal := .next { s with m := f s.m }

def ofBool (b : Bool) : Word := if b then 1 else 0
def signExtend (n : Nat) (x : BitVec n) : Word := x.signExtend 64
def zeroExtend (n : Nat) (x : BitVec n) : Word := x.setWidth 64

/-- The number of zero bits above the highest set bit of the low `n` bits (R359). -/
def leadingZeros (x : Word) : Nat → Nat
  | 0 => 0
  | n + 1 => if x.getLsbD n then 0 else 1 + leadingZeros x n

/-- High halves of the 128-bit products (R396). -/
def mulHigh (x y : Word) : Word := BitVec.ofInt 64 (x.toInt * y.toInt / 2 ^ 64)
def mulHighU (x y : Word) : Word := BitVec.ofNat 64 (x.toNat * y.toNat / 2 ^ 64)

/-- A field of `len` bits from `pos` (R372), and a word with it replaced (R379). -/
def fieldMask (pos len : Nat) : Word := BitVec.ofNat 64 (2 ^ len - 1) <<< pos
def extract (x : Word) (pos len : Nat) : Word := (x >>> pos) &&& fieldMask 0 len
def extractS (x : Word) (pos len : Nat) : Word := (x <<< (64 - pos - len)).sshiftRight (64 - len)
def insert (x y : Word) (pos len : Nat) : Word := (y &&& ~~~ fieldMask pos len) ||| ((x <<< pos) &&& fieldMask pos len)

/-- The 16-bit chunk `q` of a word replaced (R386). -/
def putChunk (y : Word) (q : BitVec 2) (i : BitVec 16) : Word := insert (i.setWidth 64) y (16 * q.toNat) 16


/-- ADD (R334). -/
def execAdd (d a b : BitVec 5) (s : State) : Host.Outcome State Fault Refusal :=
  s.onMach (fun m => m.alu2 d a b (· + ·))

/-- SUB (R420). -/
def execSub (d a b : BitVec 5) (s : State) : Host.Outcome State Fault Refusal :=
  s.onMach (fun m => m.alu2 d a b (· - ·))

/-- AND (R337). -/
def execAnd (d a b : BitVec 5) (s : State) : Host.Outcome State Fault Refusal :=
  s.onMach (fun m => m.alu2 d a b (· &&& ·))

/-- OR (R398). -/
def execOr (d a b : BitVec 5) (s : State) : Host.Outcome State Fault Refusal :=
  s.onMach (fun m => m.alu2 d a b (· ||| ·))

/-- XOR (R441). -/
def execXor (d a b : BitVec 5) (s : State) : Host.Outcome State Fault Refusal :=
  s.onMach (fun m => m.alu2 d a b (· ^^^ ·))

/-- SHL (R412): the count is bits [5:0]. -/
def execShl (d a b : BitVec 5) (s : State) : Host.Outcome State Fault Refusal :=
  s.onMach (fun m => m.alu2 d a b (fun x y => x <<< (field y 0 6)))

/-- SHR (R412). -/
def execShr (d a b : BitVec 5) (s : State) : Host.Outcome State Fault Refusal :=
  s.onMach (fun m => m.alu2 d a b (fun x y => x >>> (field y 0 6)))

/-- SHA (R412). -/
def execSha (d a b : BitVec 5) (s : State) : Host.Outcome State Fault Refusal :=
  s.onMach (fun m => m.alu2 d a b (fun x y => x.sshiftRight (field y 0 6)))

/-- SLT (R413). -/
def execSlt (d a b : BitVec 5) (s : State) : Host.Outcome State Fault Refusal :=
  s.onMach (fun m => m.alu2 d a b (fun x y => ofBool (x.slt y)))

/-- SLT.n64 (R413). -/
def execSltN64 (d a b : BitVec 5) (s : State) : Host.Outcome State Fault Refusal :=
  s.onMach (fun m => m.alu2 d a b (fun x y => ofBool (x.ult y)))

/-- MIN (R389). -/
def execMin (d a b : BitVec 5) (s : State) : Host.Outcome State Fault Refusal :=
  s.onMach (fun m => m.alu2 d a b (fun x y => if x.slt y then x else y))

/-- MIN.n64 (R389). -/
def execMinN64 (d a b : BitVec 5) (s : State) : Host.Outcome State Fault Refusal :=
  s.onMach (fun m => m.alu2 d a b (fun x y => if x.ult y then x else y))

/-- MAX (R389). -/
def execMax (d a b : BitVec 5) (s : State) : Host.Outcome State Fault Refusal :=
  s.onMach (fun m => m.alu2 d a b (fun x y => if x.slt y then y else x))

/-- MAX.n64 (R389). -/
def execMaxN64 (d a b : BitVec 5) (s : State) : Host.Outcome State Fault Refusal :=
  s.onMach (fun m => m.alu2 d a b (fun x y => if x.ult y then y else x))

/-- MUL (R396). -/
def execMul (d a b : BitVec 5) (s : State) : Host.Outcome State Fault Refusal :=
  s.onMach (fun m => m.alu2 d a b (· * ·))

/-- MULH (R396). -/
def execMulh (d a b : BitVec 5) (s : State) : Host.Outcome State Fault Refusal :=
  s.onMach (fun m => m.alu2 d a b mulHigh)

/-- MULH.n64 (R396). -/
def execMulhN64 (d a b : BitVec 5) (s : State) : Host.Outcome State Fault Refusal :=
  s.onMach (fun m => m.alu2 d a b mulHighU)

/-- DIV (R364): truncated toward zero; −2^63 by −1 gives −2^63. -/
def execDiv (d a b : BitVec 5) (s : State) : Host.Outcome State Fault Refusal :=
  s.onMach (fun m => m.divide d a b (fun x y => x.sdiv y))

/-- DIV.n64 (R364). -/
def execDivN64 (d a b : BitVec 5) (s : State) : Host.Outcome State Fault Refusal :=
  s.onMach (fun m => m.divide d a b (· / ·))

/-- REM (R404). -/
def execRem (d a b : BitVec 5) (s : State) : Host.Outcome State Fault Refusal :=
  s.onMach (fun m => m.divide d a b (fun x y => x.srem y))

/-- REM.n64 (R404). -/
def execRemN64 (d a b : BitVec 5) (s : State) : Host.Outcome State Fault Refusal :=
  s.onMach (fun m => m.divide d a b (· % ·))

/-- SEL (R410): all three registers are read. -/
def execSel (d a b c : BitVec 5) (s : State) : Host.Outcome State Fault Refusal :=
  s.onMach (fun m => m.settle (do
    let z ← m.readW c
    let x ← m.readW a
    let y ← m.readW b
    .ok (m.writeW d (if z = 0 then y else x)).done))

/-- ADDI (R335). -/
def execAddi (d a : BitVec 5) (i : BitVec 15) (s : State) : Host.Outcome State Fault Refusal :=
  s.onMach (fun m => m.alu1 d a (fun x => x + signExtend 15 i))

/-- ANDI (R338). -/
def execAndi (d a : BitVec 5) (i : BitVec 15) (s : State) : Host.Outcome State Fault Refusal :=
  s.onMach (fun m => m.alu1 d a (fun x => x &&& zeroExtend 15 i))

/-- ORI (R399). -/
def execOri (d a : BitVec 5) (i : BitVec 15) (s : State) : Host.Outcome State Fault Refusal :=
  s.onMach (fun m => m.alu1 d a (fun x => x ||| zeroExtend 15 i))

/-- XORI (R441). -/
def execXori (d a : BitVec 5) (i : BitVec 15) (s : State) : Host.Outcome State Fault Refusal :=
  s.onMach (fun m => m.alu1 d a (fun x => x ^^^ zeroExtend 15 i))

/-- SLTI (R413). -/
def execSlti (d a : BitVec 5) (i : BitVec 15) (s : State) : Host.Outcome State Fault Refusal :=
  s.onMach (fun m => m.alu1 d a (fun x => ofBool (x.slt (signExtend 15 i))))

/-- SHL, immediate count (R412). -/
def execShlImm (d a : BitVec 5) (n : BitVec 6) (s : State) : Host.Outcome State Fault Refusal :=
  s.onMach (fun m => m.alu1 d a (fun x => x <<< n.toNat))

/-- SHR, immediate count (R412). -/
def execShrImm (d a : BitVec 5) (n : BitVec 6) (s : State) : Host.Outcome State Fault Refusal :=
  s.onMach (fun m => m.alu1 d a (fun x => x >>> n.toNat))

/-- SHA, immediate count (R412). -/
def execShaImm (d a : BitVec 5) (n : BitVec 6) (s : State) : Host.Outcome State Fault Refusal :=
  s.onMach (fun m => m.alu1 d a (fun x => x.sshiftRight n.toNat))

/-- CLZ (R359). -/
def execClz (d a : BitVec 5) (s : State) : Host.Outcome State Fault Refusal :=
  s.onMach (fun m => m.alu1 d a (fun x => BitVec.ofNat 64 (leadingZeros x 64)))

/-- POPC (R400). -/
def execPopc (d a : BitVec 5) (s : State) : Host.Outcome State Fault Refusal :=
  s.onMach (fun m => m.alu1 d a (fun x => BitVec.ofNat 64 (bitCount 64 x.toNat)))

/-- EXT (R372): `l` is the length less one. -/
def execExt (d a : BitVec 5) (p l : BitVec 6) (s : State) : Host.Outcome State Fault Refusal :=
  s.onMach (fun m => if 64 < p.toNat + l.toNat + 1 then m.trapMe { cause := .reservedField, bad := m.wordBad }
    else m.alu1 d a (fun x => extract x p.toNat (l.toNat + 1)))

/-- EXT.i64 (R372). -/
def execExtI64 (d a : BitVec 5) (p l : BitVec 6) (s : State) : Host.Outcome State Fault Refusal :=
  s.onMach (fun m => if 64 < p.toNat + l.toNat + 1 then m.trapMe { cause := .reservedField, bad := m.wordBad }
    else m.alu1 d a (fun x => extractS x p.toNat (l.toNat + 1)))

/-- INS (R379): w[d] is read too. -/
def execIns (d a : BitVec 5) (p l : BitVec 6) (s : State) : Host.Outcome State Fault Refusal :=
  s.onMach (fun m => if 64 < p.toNat + l.toNat + 1 then m.trapMe { cause := .reservedField, bad := m.wordBad }
    else m.alu2 d a d (fun x y => insert x y p.toNat (l.toNat + 1)))

/-- LIC (R386): w[d] is read. -/
def execLic (d : BitVec 5) (q : BitVec 2) (i : BitVec 16) (s : State) : Host.Outcome State Fault Refusal :=
  s.onMach (fun m => m.alu1 d d (fun x => putChunk x q i))

/-- LIC.z (R386): every other bit is cleared. -/
def execLicZ (d : BitVec 5) (q : BitVec 2) (i : BitVec 16) (s : State) : Host.Outcome State Fault Refusal :=
  s.onMach (fun m => (m.writeW d (putChunk 0 q i)).done)

end Sys2Proof.Machine
end

