-- ==== Sys2Proof/Machine/Branch.lean ====
section
/-!
DEFINITION. Branches, jumps and the link stack (R251, R346 to R353, R380, R381).
-/
namespace Sys2Proof.Machine

/-- The target at a signed word offset from the issuing instruction (R56). -/
def Mach.target (m : Mach) (n : Nat) (off : BitVec n) : Word := m.me.pc + 4 * off.signExtend 64

/-- A conditional branch on two registers (R346). -/
def Mach.branch (m : Mach) (a b : BitVec 5) (f : BitVec 15) (cond : Word → Word → Bool) : Mach :=
  m.settle (do
    let x ← m.readW a
    let y ← m.readW b
    .ok (if cond x y then m.doneAt (m.target 15 f) else m.done))

/-- A conditional branch on a mask. -/
def Mach.branchMask (m : Mach) (n : BitVec 3) (f : BitVec 15) (cond : BitVec 16 → Bool) : Mach :=
  m.settle (do
    let x ← m.readM n
    .ok (if cond x then m.doneAt (m.target 15 f) else m.done))

/-- BEQ (R346). -/
def execBeq (a b : BitVec 5) (f : BitVec 15) (s : State) : Host.Outcome State Fault Refusal :=
  s.onMach (fun m => m.branch a b f (fun x y => x == y))
/-- BNE (R353). -/
def execBne (a b : BitVec 5) (f : BitVec 15) (s : State) : Host.Outcome State Fault Refusal :=
  s.onMach (fun m => m.branch a b f (fun x y => x != y))
/-- BLT (R350). -/
def execBlt (a b : BitVec 5) (f : BitVec 15) (s : State) : Host.Outcome State Fault Refusal :=
  s.onMach (fun m => m.branch a b f (fun x y => x.slt y))
/-- BGE (R347). -/
def execBge (a b : BitVec 5) (f : BitVec 15) (s : State) : Host.Outcome State Fault Refusal :=
  s.onMach (fun m => m.branch a b f (fun x y => !x.slt y))
/-- BLO (R349). -/
def execBlo (a b : BitVec 5) (f : BitVec 15) (s : State) : Host.Outcome State Fault Refusal :=
  s.onMach (fun m => m.branch a b f (fun x y => x.ult y))
/-- BHS (R348). -/
def execBhs (a b : BitVec 5) (f : BitVec 15) (s : State) : Host.Outcome State Fault Refusal :=
  s.onMach (fun m => m.branch a b f (fun x y => !x.ult y))
/-- BMA (R351). -/
def execBma (m : BitVec 3) (f : BitVec 15) (s : State) : Host.Outcome State Fault Refusal :=
  s.onMach (fun k => k.branchMask m f (fun x => x == 0xFFFF))
/-- BMN (R352). -/
def execBmn (m : BitVec 3) (f : BitVec 15) (s : State) : Host.Outcome State Fault Refusal :=
  s.onMach (fun k => k.branchMask m f (fun x => x == 0))

/-! ### The link stack (R251) -/

/-- Link entries spilled to the issuing context's frame. -/
def Mach.linkDepth (m : Mach) : Nat := field (m.word (m.regKey 1648)) 0 4
def Mach.setLinkDepth (m : Mach) (n : Nat) : Mach :=
  m.write (m.regKey 1648) 8 ((m.word (m.regKey 1648) &&& ~~~(0xF : Word)) ||| BitVec.ofNat 64 n).toNat

/-- Words of the own frame that the link stack reads must not be uncorrectable (R137). -/
def Mach.needGood (m : Mach) (ks : List Nat) : Res Unit :=
  match ks.find? (fun k => m.scratchBad.contains k) with
  | some k => .error { cause := .scratchUncorrectable, bad := lwOf k }
  | none => .ok ()

/-- The words of the spill area that a push reads: the depth, if an entry is spilled. -/
def Mach.pushReads (m : Mach) : List Nat := if m.me.links.length < 8 then [] else [m.regKey 1648]

/-- The words of the spill area that a pop reads: the depth, if the hardware stack is empty, and the entry refilled. -/
def Mach.popReads (m : Mach) : List Nat :=
  if m.me.links ≠ [] then []
  else m.regKey 1648 :: (if m.linkDepth = 0 then [] else [m.regKey (1520 + 8 * (m.linkDepth - 1))])

/-- Whether a push raises SPILL_OVERFLOW. -/
def Mach.linksFull (m : Mach) : Bool := decide (8 ≤ m.me.links.length) && decide (8 ≤ m.linkDepth)

/-- A push; a full hardware stack first spills its oldest entry. -/
def Mach.pushLink (m : Mach) (v : Word) : Mach :=
  let ls := m.me.links
  if ls.length < 8 then m.modMe (fun x => { x with links := v :: ls })
  else
    let n := m.linkDepth
    let k := m.regKey (1520 + 8 * n)
    let m := ({ m.write k 8 (ls.getLast?.getD 0).toNat with scratchBad := eraseNat m.scratchBad k }).setLinkDepth (n + 1)
    m.modMe (fun x => { x with links := v :: ls.dropLast })

/-- A pop, refilled from the newest spilled entry when the hardware stack is empty; none of an empty stack. -/
def Mach.popLink (m : Mach) : Option (Word × Mach) :=
  match m.me.links with
  | v :: t => some (v, m.modMe (fun x => { x with links := t }))
  | [] =>
    if m.linkDepth = 0 then none
    else some (m.word (m.regKey (1520 + 8 * (m.linkDepth - 1))), m.setLinkDepth (m.linkDepth - 1))

/-- The link effects of a jump, then its target (R380). `ret` tells a return. -/
def Mach.jump (m : Mach) (d : BitVec 5) (ret : Bool) (target : Word) : Res Mach :=
  let next := m.me.pc + 4
  if d = 31 then do
    m.needGood m.pushReads
    if m.linksFull then .error { cause := .spillOverflow }
    let old ← m.readW 31
    .ok (((m.pushLink old).writeW 31 next).doneAt target)
  else if d ≠ 0 then .ok ((m.writeW d next).doneAt target)
  else if ret then do
    m.needGood m.popReads
    match m.popLink with
    | some (v, m) => .ok ((m.writeW 31 v).doneAt target)
    | none => .ok (m.doneAt target)
  else .ok (m.doneAt target)

/-- JAL (R380). -/
def execJal (d : BitVec 5) (f : BitVec 20) (s : State) : Host.Outcome State Fault Refusal :=
  s.onMach (fun m => m.settle (m.jump d false (m.target 20 f)))

/-- JALR (R381). -/
def execJalr (d a : BitVec 5) (i : BitVec 15) (s : State) : Host.Outcome State Fault Refusal :=
  s.onMach (fun m => m.settle (do
    let x ← m.readW a
    m.jump d (a == 31) (x + 4 * signExtend 15 i)))

end Sys2Proof.Machine
end

