-- ==== Sys2Proof/Machine/Memory.lean ====
section
/-!
DEFINITION. Scalar memory: LD, ST, LDS, STF, SETE, AMO, CAS, ARRIVE, FENCE and PREF (R336, R341, R357, R383, R385, R402,
R411, R416, R418, R156).
-/
namespace Sys2Proof.Machine

/-! ### Shared -/

/-- The line number, class and read-only mark with which a load allocates a line, if its page may be cached (R145, R146). -/
def Mach.fillFor (m : Mach) (pa : Nat) (pte : Word) (va : Nat) : Option (Nat × Nat × Bool) :=
  if pteCc pte = 2 || ptePk pte then none
  else some (lineOf pa, policyClass m.me.policy (pteCc pte) va, pteRd pte && !pteW pte && !pteX pte)

/-- The L1 with one line more: it replaces the least recently used line of the lowest class when the L1 is full; the list
runs from least to most recently used, a stream line entering first (R146). (log 12, DESIGN CHOICE) -/
def l1Add (cap : Nat) (t : List Line) (l : Line) : List Line :=
  let t := t.filter (fun x => x.line != l.line)
  let victim : Option Line := (t.find? (·.cls == 0)).orElse (fun _ => (t.find? (·.cls == 1)).orElse (fun _ => t.head?))
  let t := if cap ≤ t.length then (match victim with | some v => t.filter (fun x => x.line != v.line) | none => t) else t
  if l.cls = 0 then l :: t else t ++ [l]

/-- Lines that the L1 of a core holds (R28, R145). (log 12, DESIGN CHOICE) -/
def Core.l1Cap (c : Core) : Nat := c.carve * 1024

/-- A hit makes its line the most recently used. -/
def l1Hit (t : List Line) (line : Nat) : List Line :=
  t.filter (fun x => x.line != line) ++ t.filter (fun x => x.line == line)

/-- The bytes of a line from an offset. -/
def lineRead (data : List Byte) (off n : Nat) : Nat := ofBytes ((data.drop off).take n)

/-- A late result of one reply to the last request. -/
def Mach.lateReply (m : Mach) (words : List Nat) (p : Parts) : Mach := m.late words (.parts p)

/-- A load of `n` bytes at a checked place: the value known at issue, or the packet whose reply brings it, with the line
it allocates. -/
inductive Got where
  | value (v : Nat)
  | packet (id : Nat) (fill : Option (Nat × Nat × Bool))
deriving DecidableEq, Repr

/-- The access of a load (R383, R145, R153); `alloc` tells whether a missing line is allocated. A load that its home serves
past the L1 leaves no older copy to allocate or to hit (R154). -/
def Mach.fetchData (m : Mach) (a : Word) (n : Nat) (at_ : Place) (alloc : Bool) : Res (Got × Mach) :=
  let c := m.cur.core
  match at_ with
  | .local k =>
    if (wordsOf k n).any (fun w => m.scratchBad.contains w) then .error { cause := .scratchUncorrectable, bad := a }
    else .ok (.value (m.read k n), m)
  | .remote h k => .ok (.packet m.nextId none, m.request h (.mem (.load n) k a false))
  | .failed => .ok (.value 0, m)
  | .global pa pte =>
    let line := lineOf pa
    match m.fillFor pa pte a.toNat, (m.core c).l1.find? (fun l => l.line == line) with
    | some _, some l =>
      if m.l1Bad.contains (c, line) then .error { cause := .l1Uncorrectable, bad := a }
      else .ok (.value (lineRead l.data (pa % 128) n), m.modCore c (fun r => { r with l1 := l1Hit r.l1 line }))
    | some f, none =>
      let m := m.drainLine c line
      if alloc then .ok (.packet m.nextId (some f), m.request (m.homeEnd c pa 128) (.mem .loadLine (128 * line) a false))
      else
        let m := m.unfill c (· == line)
        .ok (.packet m.nextId none, m.request (m.homeEnd c pa 128) (.mem (.load n) pa a false))
    | none, _ =>
      let m := (m.dropL1 c line).drainLine c line
      .ok (.packet m.nextId none, m.request (m.homeEnd c pa (hashUnit pte)) (.mem (.load n) pa a (ptePk pte)))

/-- Whether a place is on a parkable page. -/
def Place.parkable : Place → Bool
  | .global _ pte => ptePk pte
  | _ => false

/-- The instruction is issued; on a parkable page its context waits for the reply to `id`, and `undo` is what its fault takes
back (R333, R67). -/
def Mach.issuedAt (m : Mach) (p : Place) (id : Nat) (a : Word) (undo : Undo := {}) : Mach :=
  if p.parkable then m.await (.access id a none [] undo) else m.done

/-- LD (R383). -/
def Mach.load (m : Mach) (d a : BitVec 5) (z : BitVec 2) (i : BitVec 11) (signed : Bool) : Mach :=
  m.settle (do
    let n := 2 ^ z.toNat
    let x ← m.readW a
    let addr := x + signExtend 11 i * BitVec.ofNat 64 n
    let (p, m) ← m.memCheck addr n .load
    let (g, m) ← m.fetchData addr n p true
    match g with
    | .value v => .ok (m.late (m.lateW d) (.value (intOf (8 * n) signed v % (2 ^ 64 : Nat)).toNat 0) true).done
    | .packet id fill =>
      let pend := m.nextId
      .ok ((m.late (m.lateW d) (.parts { wait := [(0, n, id)], size := n, signed := signed, fill := fill }) true).issuedAt p pend addr))

/-- A store of bytes at a checked place (R416, R145, R153): a store to a parkable page follows the stores combined before
it. -/
def Mach.storeData (m : Mach) (a : Word) (bytes : List (Nat × Byte)) (at_ : Place) : Mach :=
  let c := m.cur.core
  match at_ with
  | .local k => m.storeOwn c (bytes.map (fun b => (k + b.1, b.2)))
  | .remote h k => m.request h (.mem (.store (bytes.map (fun b => (k + b.1, b.2)))) k a false)
  | .failed => m
  | .global pa pte =>
    if ptePk pte then (m.drainAll c).request (m.homeEnd c pa (hashUnit pte)) (.mem (.store (bytes.map (fun b => (pa + b.1, b.2)))) pa a true)
    else
      let bs := bytes.map (fun b => (pa % 128 + b.1, b.2))
      (m.storeL1 c (lineOf pa) bs).combineStore c (lineOf pa) a bs

/-- A store at a checked place and what follows it (R416, R434): on a parkable page its packet leaves after the stores combined
before it, and its context waits for the reply. -/
def Mach.storeAt (m : Mach) (a : Word) (bytes : List (Nat × Byte)) (p : Place) (undo : Undo := {}) : Mach :=
  let m := if p.parkable then m.drainAll m.cur.core else m
  (m.storeData a bytes p).issuedAt p m.nextId a undo

/-- A synchronising access, which only scratchpad words take (R385, R411, R418, R341). -/
def Mach.syncCheck (m : Mach) (a : Word) (k : Kind) : Res (Place × Mach) :=
  if isGv a then .error { cause := .addressClass, bad := a } else m.memCheck a 8 k

/-- STF, SETE and ARRIVE: one operation at a scratchpad home, with no result; at the own core it follows every store of the
core's contexts there (R153). An ARRIVE on a count of zero is reported (R341). -/
def Mach.syncOp (m : Mach) (a : Word) (op : MemOp) : Res Mach := do
  let (p, m) ← m.syncCheck a .store
  match p with
  | .local k =>
    match (m.settleOwn m.cur.core).performScratch op k with
    | some (.failed .fullEmptyMisuse _, m) => .ok (m.errorEntry m.cur.core .fullEmptyMisuse a m.me.pc (some m.cur.ctx)).done
    | some (.failed e _, _) => .error { cause := e, bad := a }
    | some (_, m) => .ok m.done
    | none => .ok m.done
  | .remote h k => .ok (m.request h (.mem op k a false)).done
  | .global _ _ => .error { cause := .addressClass, bad := a }
  | .failed => .error { cause := .addressClass, bad := a }

/-- Where the value of a late result comes from has changed. -/
def Mach.setLate (m : Mach) (id : Nat) (l : Late) : Mach :=
  { m with pends := m.pends.map (fun p => if p.id = id then { p with late := l } else p) }

/-- LDS (R385): w[d] becomes empty before the word is looked at, and the result is awaited by its context (R160). -/
def Mach.loadSync (m : Mach) (d a : BitVec 5) (i : BitVec 11) (take : Bool) : Mach :=
  m.settle (do
    let x ← m.readW a
    let addr := x + signExtend 11 i * 8
    let (p, m) ← m.syncCheck addr .load
    let id := m.nextId
    match p with
    | .local k =>
      let m := m.late (m.lateW d) (.token true)
      match m.performScratch (.sync take) k with
      | some (.failed e _, _) => .error { cause := e, bad := addr }
      | some (.data v, m) =>
        .ok ((m.setLate id (.value v 0)).awaitSync id)
      | some (_, m) => .ok m.done
      | none =>
        if (m.myCore).waiters.length < 64 then
          .ok ((m.modCore m.cur.core (fun r => { r with waiters := r.waiters ++ [(id, k, take)] })).awaitSync id)
        else
          let request := m.nextId
          .ok (((m.request m.cur.core (.mem (.sync take) k addr false)).setLate id
            (.parts { wait := [(0, 8, request)], size := 8 })).awaitSync id)
    | .remote h k =>
      let m := m.request h (.mem (.sync take) k addr false)
      .ok ((m.late (m.lateW d) (.parts { wait := [(0, 8, id)], size := 8 }) true).awaitSync (id + 1))
    | .global _ _ => .error { cause := .addressClass, bad := addr }
    | .failed => .error { cause := .addressClass, bad := addr })

/-- An atomic at a checked address (R336, R357, R159). -/
def Mach.atomicAt (m : Mach) (d : BitVec 5) (a : Word) (n : Nat) (signed : Bool) (op : MemOp) : Res Mach := do
  let c := m.cur.core
  let (p, m) ← m.memCheck a n .atomic
  match p with
  | .local k =>
    match m.performScratch op k with
    | some (.failed e _, _) => .error { cause := e, bad := a }
    | some (.data v, m) => .ok (m.late (m.lateW d) (.value (intOf (8 * n) signed v % (2 ^ 64 : Nat)).toNat 0) true).done
    | _ => .ok m.done
  | .remote h k =>
    let id := m.nextId
    let m := m.request h (.mem op k a false)
    .ok (m.late (m.lateW d) (.parts { wait := [(0, n, id)], size := n, signed := signed }) true).done
  | .failed => .ok (m.late (m.lateW d) (.value 0 0) true).done
  | .global pa pte =>
    let m := (m.dropL1 c (lineOf pa)).drainAll c
    let id := m.nextId
    let m := m.request (m.homeEnd c pa (hashUnit pte)) (.mem op pa a (ptePk pte))
    .ok ((m.late (m.lateW d) (.parts { wait := [(0, n, id)], size := n, signed := signed }) true).issuedAt p (id + 1) a)

/-- AMO (R336). -/
def Mach.amo (m : Mach) (f : Nat) (d a : BitVec 5) (z : BitVec 2) (g : BitVec 1) (i : BitVec 8) : Mach :=
  m.settle (do
    let n := 2 ^ z.toNat
    let b ← m.readW a
    let x ← m.readW d
    m.atomicAt d (b + signExtend 8 i * BitVec.ofNat 64 n) n (g == 1) (.amo f n (g == 1) (field x 0 (8 * n))))

/-! ### Meanings -/

/-- LD, zero-extended (R383). -/
def execLdN (d a : BitVec 5) (z : BitVec 2) (i : BitVec 11) (s : State) : Host.Outcome State Fault Refusal :=
  s.onMach (fun m => m.load d a z i false)

/-- LD, sign-extended (R383). -/
def execLdI (d a : BitVec 5) (z : BitVec 2) (i : BitVec 11) (s : State) : Host.Outcome State Fault Refusal :=
  s.onMach (fun m => m.load d a z i true)

/-- ST (R416). -/
def execSt (t a : BitVec 5) (z : BitVec 2) (i : BitVec 11) (s : State) : Host.Outcome State Fault Refusal :=
  s.onMach (fun m => m.settle (do
    let n := 2 ^ z.toNat
    let b ← m.readW a
    let x ← m.readW t
    let addr := b + signExtend 11 i * BitVec.ofNat 64 n
    let (p, m) ← m.memCheck addr n .store
    .ok (m.storeAt addr (bytesAt 0 n x.toNat) p)))

/-- LDS (R385). -/
def execLds (d a : BitVec 5) (i : BitVec 11) (s : State) : Host.Outcome State Fault Refusal :=
  s.onMach (fun m => m.loadSync d a i false)

/-- LDS.c (R385). -/
def execLdsC (d a : BitVec 5) (i : BitVec 11) (s : State) : Host.Outcome State Fault Refusal :=
  s.onMach (fun m => m.loadSync d a i true)

/-- STF (R418). -/
def execStf (t a : BitVec 5) (i : BitVec 11) (s : State) : Host.Outcome State Fault Refusal :=
  s.onMach (fun m => m.settle (do
    let b ← m.readW a
    let x ← m.readW t
    m.syncOp (b + signExtend 11 i * 8) (.setFull x)))

/-- SETE (R411). -/
def execSete (a : BitVec 5) (i : BitVec 11) (s : State) : Host.Outcome State Fault Refusal :=
  s.onMach (fun m => m.settle (do
    let b ← m.readW a
    m.syncOp (b + signExtend 11 i * 8) .setEmpty))

/-- ARRIVE (R341). -/
def execArrive (a : BitVec 5) (s : State) : Host.Outcome State Fault Refusal :=
  s.onMach (fun m => m.settle (do
    let b ← m.readW a
    m.syncOp b .arrive))

/-- AMO.add (R336). -/
def execAmoAdd (d a : BitVec 5) (z : BitVec 2) (g : BitVec 1) (i : BitVec 8) (s : State) : Host.Outcome State Fault Refusal :=
  s.onMach (fun m => m.amo 0 d a z g i)
/-- AMO.and (R336). -/
def execAmoAnd (d a : BitVec 5) (z : BitVec 2) (g : BitVec 1) (i : BitVec 8) (s : State) : Host.Outcome State Fault Refusal :=
  s.onMach (fun m => m.amo 1 d a z g i)
/-- AMO.or (R336). -/
def execAmoOr (d a : BitVec 5) (z : BitVec 2) (g : BitVec 1) (i : BitVec 8) (s : State) : Host.Outcome State Fault Refusal :=
  s.onMach (fun m => m.amo 2 d a z g i)
/-- AMO.xor (R336). -/
def execAmoXor (d a : BitVec 5) (z : BitVec 2) (g : BitVec 1) (i : BitVec 8) (s : State) : Host.Outcome State Fault Refusal :=
  s.onMach (fun m => m.amo 3 d a z g i)
/-- AMO.min (R336). -/
def execAmoMin (d a : BitVec 5) (z : BitVec 2) (g : BitVec 1) (i : BitVec 8) (s : State) : Host.Outcome State Fault Refusal :=
  s.onMach (fun m => m.amo 4 d a z g i)
/-- AMO.max (R336). -/
def execAmoMax (d a : BitVec 5) (z : BitVec 2) (g : BitVec 1) (i : BitVec 8) (s : State) : Host.Outcome State Fault Refusal :=
  s.onMach (fun m => m.amo 5 d a z g i)
/-- AMO.swap (R336). -/
def execAmoSwap (d a : BitVec 5) (z : BitVec 2) (g : BitVec 1) (i : BitVec 8) (s : State) : Host.Outcome State Fault Refusal :=
  s.onMach (fun m => m.amo 6 d a z g i)

/-- CAS (R357). -/
def execCas (d a : BitVec 5) (z : BitVec 2) (g : BitVec 1) (b : BitVec 5) (s : State) : Host.Outcome State Fault Refusal :=
  s.onMach (fun m => m.settle (do
    let n := 2 ^ z.toNat
    let p ← m.readW a
    let x ← m.readW d
    let y ← m.readW b
    m.atomicAt d p n (g == 1) (.cas n (field x 0 (8 * n)) (field y 0 (8 * n)))))

/-- The invalidations of an acquire at a scope (R156, R145, R141). -/
def Mach.acquire (m : Mach) (scope : Nat) : Mach :=
  let c := m.cur.core
  let m := if 2 ≤ scope then (m.unfill c (fun _ => true)).modCore c (fun r => { r with l1 := r.l1.filter (·.readOnly) }) else m
  let m := if 3 ≤ scope then m.modCore c (fun r => { r with icache := [] }) else m
  if 4 ≤ scope then m.dropCopies c else m

/-- A fence's waits (R156): its combining entries drain, its stores to the own window are performed, and the context waits
until `f` may act; `sys` tells a release of system scope, which waits for the peers' homes. -/
def Mach.fenced (m : Mach) (acq rel sys : Bool) (f : Mach → Mach) : Mach :=
  let c := m.cur.core
  let x := m.cur.ctx
  let t := m.me.task
  let m := if rel then (m.drainAll c).settleOwn c else m
  if (!acq || m.acquiredAll c x t) && (!rel || (m.releasedAll c x t && !(sys && m.peerHeld c x t))) then f m
  else m.stay (.fence acq rel sys)

/-- FENCE (R156): `k` 1 acq, 2 rel, 3 full; `c` the scope, 4 being system. -/
def execFence (k : BitVec 2) (c : BitVec 3) (s : State) : Host.Outcome State Fault Refusal :=
  s.onMach (fun m => m.fenced (k.getLsbD 0) (k.getLsbD 1) (decide (4 ≤ c.toNat))
    (fun m => (if k.getLsbD 0 then m.acquire c.toNat else m).done))

/-- PREF (R402): silent on any failure. -/
def Mach.prefetch (m : Mach) (cls : BitVec 2) (a : Word) : Mach :=
  let c := m.cur.core
  if !isGv a then m
  else
    match m.translate c a.toNat .load with
    | .error e => m.marked e.entry
    | .ok (pa, pte, m) =>
      match m.fillFor pa pte a.toNat with
      | none => m
      | some (line, k, ro) =>
        if m.peerGone pa || (m.core c).l1.any (fun l => l.line == line) then m
        else
          let m := m.drainLine c line
          let id := m.nextId
          let m := m.request (m.homeEnd c pa 128) (.mem .loadLine (128 * line) a false)
          let cl := if cls = 1 then 2 else if cls = 2 then 0 else k
          let pend : Pend :=
            { id := m.nextId, core := c, ctx := m.cur.ctx, task := m.me.task, words := [], quiet := true,
              late := .parts { wait := [(0, 0, id)], size := 8, fill := some (line, cl, ro) } }
          { m.fresh with pends := m.pends ++ [pend] }

/-- PREF (R402). -/
def execPref (c : BitVec 2) (a : BitVec 5) (i : BitVec 11) (s : State) : Host.Outcome State Fault Refusal :=
  s.onMach (fun m => m.settle (do
    let x ← m.readW a
    .ok (m.prefetch c (x + signExtend 11 i * 128)).done))

end Sys2Proof.Machine
end

