-- ==== Sys2Proof/Machine/FloatOps.lean ====
section
/-!
DEFINITION. Scalar floating point (R319, R373 to R375, R377).
-/
namespace Sys2Proof.Machine

/-- The float type codes 0 to 2 (R319, R321). -/
def fmtOf (t : Nat) : Fmt := if t = 0 then .f32 else if t = 1 then .f16 else .bf16

/-- The low bits of a word as a value of a format. -/
def operandF (f : Fmt) (x : Word) : FVal := decodeF f (x.toNat % 2 ^ f.width)

/-- A rounding operation on two operands: code, flags and the generator after its draw (R213). -/
def Mach.rounded (m : Mach) (f : Fmt) (op : Nat → Bool → Nat → Nat × BitVec 5) : Nat × BitVec 5 × BitVec 32 :=
  let (d, g) := takeDraw m.rm f.width m.me.gen
  let (r, fl) := op m.rm m.sat d
  (r, fl, g)

/-- A rounding pipeline operation on two registers (R373). -/
def Mach.float2 (m : Mach) (d a b : BitVec 5) (t : BitVec 3)
    (op : Fmt → Nat → Bool → Nat → FVal → FVal → Nat × BitVec 5) : Mach :=
  m.settle (do
    let x ← m.readW a
    let y ← m.readW b
    let f := fmtOf t.toNat
    let (r, fl, g) := m.rounded f (fun rm sat dr => op f rm sat dr (operandF f x) (operandF f y))
    .ok ((m.writeW d (BitVec.ofNat 64 r)).flagged fl g).done)

/-- Subtraction: addition of the negated operand (R373). -/
def subF (f : Fmt) (rm : Nat) (sat : Bool) (draw : Nat) (a b : FVal) : Nat × BitVec 5 := addF f rm sat draw a b.negate

/-- FADD (R373). -/
def execFadd (d a b : BitVec 5) (t : BitVec 3) (s : State) : Host.Outcome State Fault Refusal :=
  s.onMach (fun m => m.float2 d a b t addF)
/-- FSUB (R373). -/
def execFsub (d a b : BitVec 5) (t : BitVec 3) (s : State) : Host.Outcome State Fault Refusal :=
  s.onMach (fun m => m.float2 d a b t subF)
/-- FMUL (R373). -/
def execFmul (d a b : BitVec 5) (t : BitVec 3) (s : State) : Host.Outcome State Fault Refusal :=
  s.onMach (fun m => m.float2 d a b t mulF)

/-- FDIV (R373): a late result, whose flags are set when it is written (R211). (log 40, DEDUCED) -/
def execFdiv (d a b : BitVec 5) (t : BitVec 3) (s : State) : Host.Outcome State Fault Refusal :=
  s.onMach (fun m => m.settle (do
    let x ← m.readW a
    let y ← m.readW b
    let f := fmtOf t.toNat
    let (r, fl, g) := m.rounded f (fun rm sat dr => divF f rm sat dr (operandF f x) (operandF f y))
    .ok ((m.late (m.lateW d) (.value r fl)).flagged 0 g).done))

/-- FSQRT (R373): a late result. (log 40, DEDUCED) -/
def execFsqrt (d a : BitVec 5) (t : BitVec 3) (s : State) : Host.Outcome State Fault Refusal :=
  s.onMach (fun m => m.settle (do
    let x ← m.readW a
    let f := fmtOf t.toNat
    let (r, fl, g) := m.rounded f (fun rm sat dr => sqrtF f rm sat dr (operandF f x))
    .ok ((m.late (m.lateW d) (.value r fl)).flagged 0 g).done))

/-- FMIN and FMAX: no rounding and no draw (R218). -/
def Mach.floatMinMax (m : Mach) (d a b : BitVec 5) (t : BitVec 3) (wantMax : Bool) : Mach :=
  m.settle (do
    let x ← m.readW a
    let y ← m.readW b
    let f := fmtOf t.toNat
    let (r, fl) := minMaxF f wantMax (x.toNat % 2 ^ f.width) (y.toNat % 2 ^ f.width)
    .ok ((m.writeW d (BitVec.ofNat 64 r)).flagged fl m.me.gen).done)

/-- FMIN (R373, R218). -/
def execFmin (d a b : BitVec 5) (t : BitVec 3) (s : State) : Host.Outcome State Fault Refusal :=
  s.onMach (fun m => m.floatMinMax d a b t false)
/-- FMAX (R373, R218). -/
def execFmax (d a b : BitVec 5) (t : BitVec 3) (s : State) : Host.Outcome State Fault Refusal :=
  s.onMach (fun m => m.floatMinMax d a b t true)

/-- FCMP (R374). -/
def execFcmp (d a b : BitVec 5) (t : BitVec 3) (c : BitVec 3) (s : State) : Host.Outcome State Fault Refusal :=
  s.onMach (fun m => m.settle (do
    let x ← m.readW a
    let y ← m.readW b
    let f := fmtOf t.toNat
    let (r, fl) := compareF c.toNat (operandF f x) (operandF f y)
    .ok ((m.writeW d (ofBool r)).flagged fl m.me.gen).done))

/-- Width and signedness of the scalar integer codes 3 to 6 (R319). -/
def intWidth (t : Nat) : Nat := if t = 3 || t = 5 then 32 else 64
def intSigned (t : Nat) : Bool := t == 3 || t == 4

/-- The result of FCVT from source code `src` to destination code `dst` (R375): register value and flags. -/
def convertScalar (dst src rm : Nat) (sat : Bool) (draw : Nat) (x : Word) : Word × BitVec 5 :=
  if src ≤ 2 then
    let v := operandF (fmtOf src) x
    if dst ≤ 2 then
      let (r, fl) := convertF (fmtOf dst) rm sat draw v
      (BitVec.ofNat 64 r, fl)
    else
      let (r, fl) := toInteger (intWidth dst) (intSigned dst) rm v
      (if dst = 3 then (BitVec.ofNat 32 r).signExtend 64 else BitVec.ofNat 64 r, fl)
  else
    let i := intOf (intWidth src) (intSigned src) x.toNat
    let (r, fl) := roundF (fmtOf dst) rm sat draw false (i : Rat)
    (BitVec.ofNat 64 r, fl)

/-- FCVT (R375): `x` the destination code, `y` the source code. -/
def execFcvt (d a : BitVec 5) (x y : BitVec 3) (s : State) : Host.Outcome State Fault Refusal :=
  s.onMach (fun m => m.settle (do
    let v ← m.readW a
    let w := if x.toNat ≤ 2 then (fmtOf x.toNat).width else 64
    let (dr, g) := takeDraw m.rm w m.me.gen
    let (r, fl) := convertScalar x.toNat y.toNat m.rm m.sat dr v
    .ok ((m.writeW d r).flagged fl g).done))

/-- FFMA (R377). -/
def execFfma (d a b c : BitVec 5) (t : BitVec 3) (s : State) : Host.Outcome State Fault Refusal :=
  s.onMach (fun m => m.settle (do
    let x ← m.readW a
    let y ← m.readW b
    let z ← m.readW c
    let f := fmtOf t.toNat
    let (r, fl, g) := m.rounded f (fun rm sat dr => fmaF f rm sat dr (operandF f x) (operandF f y) (operandF f z))
    .ok ((m.writeW d (BitVec.ofNat 64 r)).flagged fl g).done))

end Sys2Proof.Machine
end

