-- ==== Sys2Proof/Machine/VectorOps.lean ====
section
/-!
DEFINITION. Vector arithmetic, masks and element types (R320 to R324, R387, R423 to R432, R435, R437, R219 to R221).
-/
namespace Sys2Proof.Machine

/-! ### Elements (R423) -/

/-- The float format of a type code of R320, and the width and signedness of the integer codes 8 to 13. -/
def vecFmt (t : Nat) : Option Fmt :=
  match t with
  | 0 => some .f32 | 1 => some .f16 | 2 => some .bf16 | 3 => some .e4m3 | 4 => some .e5m2
  | 5 => some .e3m2 | 6 => some .e2m3 | 7 => some .e2m1 | _ => none
def vecWidth (t : Nat) : Nat :=
  match t with
  | 0 => 32 | 1 => 16 | 2 => 16 | 3 => 8 | 4 => 8 | 5 => 6 | 6 => 6 | 7 => 4
  | 8 => 32 | 9 => 16 | 10 => 8 | 11 => 32 | 12 => 16 | _ => 8
def vecSigned (t : Nat) : Bool := decide (t ≤ 10)

/-- The bits of a register that an element takes: the 6-bit formats lie in bytes. -/
def slotBits (t : Nat) : Nat := if vecWidth t = 6 then 8 else vecWidth t

/-- Element `j` of slots of `w` bits. -/
def elem (v : V) (w j : Nat) : Nat := (v.extractLsb' (w * j) w).toNat

/-- Results of the elements of active lanes in ascending order, with their flags and draws (R424). -/
def elementwise (w : Nat) (mask : BitVec 16) (g : BitVec 32) (f : Nat → BitVec 32 → Nat × BitVec 5 × BitVec 32) :
    V × BitVec 5 × BitVec 32 :=
  let r := (List.range (512 / w)).foldl (fun (acc : Nat × BitVec 5 × BitVec 32) j =>
    if mask.getLsbD (j * w / 32) then
      let r := f j acc.2.2
      (acc.1 + r.1 % 2 ^ w * 2 ^ (w * j), acc.2.1 ||| r.2.1, r.2.2)
    else acc) (0, 0, g)
  (BitVec.ofNat 512 r.1, r.2.1, r.2.2)

/-- The reads of a vector instruction: its sources, then its mask, then its effect; `ws` are its scalar sources. -/
def Mach.vecOp (m : Mach) (dest : Option (BitVec 4)) (srcs : List (BitVec 4)) (mk : BitVec 3)
    (f : Mach → BitVec 16 → (BitVec 4 → V) → Res Mach) (ws : List (BitVec 5) := []) : Mach :=
  m.popping dest srcs (m.needOperands srcs mk ws) (do
    let (vs, m1) ← m.readVs srcs
    let mask ← m.readM mk
    f m1 mask (valOf vs))

/-- The active lanes of v[d] written (R424). -/
def Mach.writeLanes (m : Mach) (d : BitVec 4) (mask : BitVec 16) (v : V) : Mach := m.writeV d (blend mask v (m.vimage d))

/-- An element operation with flags and draws. -/
def Mach.vecElems (m : Mach) (d : BitVec 4) (srcs : List (BitVec 4)) (mk : BitVec 3) (w : Nat)
    (f : Mach → (BitVec 4 → V) → Nat → BitVec 32 → Nat × BitVec 5 × BitVec 32) : Mach :=
  m.vecOp (some d) srcs mk (fun m mask val =>
    let (v, fl, g) := elementwise w mask m.me.gen (f m val)
    .ok ((m.writeLanes d mask v).flagged fl g).done)

/-! ### Integer elements (R321, R425) -/

/-- Width and signedness of the integer type codes of major 0x23. -/
def vintWidth (t : BitVec 3) : Nat := if t.toNat % 4 = 0 then 32 else if t.toNat % 4 = 1 then 16 else 8
def vintSigned (t : BitVec 3) : Bool := decide (t.toNat < 4)

def Mach.vecInt (m : Mach) (d a b : BitVec 4) (mk : BitVec 3) (t : BitVec 3) (f : Nat → Bool → Nat → Nat → Nat) : Mach :=
  let w := vintWidth t
  m.vecElems d [a, b] mk w (fun _ val j g => (f w (vintSigned t) (elem (val a) w j) (elem (val b) w j), 0, g))

/-- A right shift of a `w`-bit element, arithmetic if signed. -/
def shiftRight (w : Nat) (sg : Bool) (x n : Nat) : Nat := (intOf w sg x / 2 ^ n % (2 ^ w : Nat)).toNat


/-- VADD, integer (R425). -/
def execVaddInt (d a b : BitVec 4) (m : BitVec 3) (t : BitVec 3) (s : State) : Host.Outcome State Fault Refusal :=
  s.onMach (fun k => k.vecInt d a b m t (fun w _ x y => (x + y) % 2 ^ w))

/-- VSUB, integer (R425). -/
def execVsubInt (d a b : BitVec 4) (m : BitVec 3) (t : BitVec 3) (s : State) : Host.Outcome State Fault Refusal :=
  s.onMach (fun k => k.vecInt d a b m t (fun w _ x y => (x + 2 ^ w - y) % 2 ^ w))

/-- VMUL, integer (R425). -/
def execVmulInt (d a b : BitVec 4) (m : BitVec 3) (t : BitVec 3) (s : State) : Host.Outcome State Fault Refusal :=
  s.onMach (fun k => k.vecInt d a b m t (fun w _ x y => x * y % 2 ^ w))

/-- VMIN, integer (R425). -/
def execVminInt (d a b : BitVec 4) (m : BitVec 3) (t : BitVec 3) (s : State) : Host.Outcome State Fault Refusal :=
  s.onMach (fun k => k.vecInt d a b m t (fun w sg x y => if intOf w sg y < intOf w sg x then y else x))

/-- VMAX, integer (R425). -/
def execVmaxInt (d a b : BitVec 4) (m : BitVec 3) (t : BitVec 3) (s : State) : Host.Outcome State Fault Refusal :=
  s.onMach (fun k => k.vecInt d a b m t (fun w sg x y => if intOf w sg x < intOf w sg y then y else x))

/-- VSHL (R425). -/
def execVshl (d a b : BitVec 4) (m : BitVec 3) (t : BitVec 3) (s : State) : Host.Outcome State Fault Refusal :=
  s.onMach (fun k => k.vecInt d a b m t (fun w _ x y => x * 2 ^ (y % w) % 2 ^ w))

/-- VSHR (R425). -/
def execVshr (d a b : BitVec 4) (m : BitVec 3) (t : BitVec 3) (s : State) : Host.Outcome State Fault Refusal :=
  s.onMach (fun k => k.vecInt d a b m t (fun w sg x y => shiftRight w sg x (y % w)))

/-! ### Compares (R428) -/

/-- A compare: bit i is set when lane i is active and the relation holds for all its elements. -/
def Mach.vecCompare (m : Mach) (d : BitVec 3) (a b : BitVec 4) (mk : BitVec 3) (w : Nat)
    (f : Nat → Nat → Bool × BitVec 5) : Mach :=
  m.vecOp none [a, b] mk (fun m mask val =>
    let rel (j : Nat) : Bool × BitVec 5 := f (elem (val a) w j) (elem (val b) w j)
    let lanes := (List.range 16).filter (fun i => mask.getLsbD i)
    let elems (i : Nat) : List Nat := (List.range (32 / w)).map (fun n => i * (32 / w) + n)
    let bits := (lanes.filter (fun i => (elems i).all (fun j => (rel j).1))).foldl (fun n i => n + 2 ^ i) 0
    let fl := (lanes.flatMap elems).foldl (fun fl j => fl ||| (rel j).2) 0
    .ok ((m.writeM d (BitVec.ofNat 16 bits)).flagged fl m.me.gen).done)

/-- VCMP, integer (R428): `c` 0 eq, 1 ne, 2 lt, 3 le. -/
def execVcmpInt (d : BitVec 3) (a b c : BitVec 4) (m : BitVec 3) (t : BitVec 3) (s : State) : Host.Outcome State Fault Refusal :=
  s.onMach (fun k => k.vecCompare d a b m (vintWidth t) (fun x y =>
    let x := intOf (vintWidth t) (vintSigned t) x
    let y := intOf (vintWidth t) (vintSigned t) y
    (if c = 0 then decide (x = y) else if c = 1 then decide (x ≠ y) else if c = 2 then decide (x < y) else decide (x ≤ y), 0)))

/-- The relation codes of `compareF` for those of R428. -/
def vcmpCode (c : Nat) : Nat := if c = 0 then 0 else if c = 1 then 4 else if c = 2 then 1 else if c = 3 then 2 else 3

/-- VCMP, float (R428): `c` also 4 un. -/
def execVcmpFloat (d : BitVec 3) (a b c : BitVec 4) (m : BitVec 3) (t : BitVec 3) (s : State) : Host.Outcome State Fault Refusal :=
  s.onMach (fun k => k.vecCompare d a b m (fmtOf t.toNat).width (fun x y =>
    compareF (vcmpCode c.toNat) (decodeF (fmtOf t.toNat) x) (decodeF (fmtOf t.toNat) y)))

/-! ### Float elements (R425, R432) -/

/-- A rounding element: a draw if the format takes one, then the operation. -/
def Mach.roundElem (m : Mach) (f : Fmt) (g : BitVec 32) (op : Nat → Bool → Nat → Nat × BitVec 5) : Nat × BitVec 5 × BitVec 32 :=
  let (dr, g) := takeDraw m.rm f.width g
  let (r, fl) := op m.rm m.sat dr
  (r, fl, g)

def Mach.vecFloat (m : Mach) (d a b : BitVec 4) (mk : BitVec 3) (t : BitVec 3)
    (op : Fmt → Nat → Bool → Nat → FVal → FVal → Nat × BitVec 5) : Mach :=
  let f := fmtOf t.toNat
  m.vecElems d [a, b] mk f.width (fun m val j g =>
    m.roundElem f g (fun rm sat dr => op f rm sat dr (decodeF f (elem (val a) f.width j)) (decodeF f (elem (val b) f.width j))))

def Mach.vecMinMax (m : Mach) (d a b : BitVec 4) (mk : BitVec 3) (t : BitVec 3) (wantMax : Bool) : Mach :=
  let f := fmtOf t.toNat
  m.vecElems d [a, b] mk f.width (fun _ val j g =>
    let (r, fl) := minMaxF f wantMax (elem (val a) f.width j) (elem (val b) f.width j)
    (r, fl, g))

/-- VADD, float (R425). -/
def execVaddFloat (d a b : BitVec 4) (m : BitVec 3) (t : BitVec 3) (s : State) : Host.Outcome State Fault Refusal :=
  s.onMach (fun k => k.vecFloat d a b m t addF)

/-- VSUB, float (R425). -/
def execVsubFloat (d a b : BitVec 4) (m : BitVec 3) (t : BitVec 3) (s : State) : Host.Outcome State Fault Refusal :=
  s.onMach (fun k => k.vecFloat d a b m t subF)

/-- VMUL, float (R425). -/
def execVmulFloat (d a b : BitVec 4) (m : BitVec 3) (t : BitVec 3) (s : State) : Host.Outcome State Fault Refusal :=
  s.onMach (fun k => k.vecFloat d a b m t mulF)

/-- VMIN, float (R425, R218). -/
def execVminFloat (d a b : BitVec 4) (m : BitVec 3) (t : BitVec 3) (s : State) : Host.Outcome State Fault Refusal :=
  s.onMach (fun k => k.vecMinMax d a b m t false)

/-- VMAX, float (R425, R218). -/
def execVmaxFloat (d a b : BitVec 4) (m : BitVec 3) (t : BitVec 3) (s : State) : Host.Outcome State Fault Refusal :=
  s.onMach (fun k => k.vecMinMax d a b m t true)

/-- VFMA (R432). -/
def execVfma (d a b c : BitVec 4) (m : BitVec 3) (t : BitVec 3) (s : State) : Host.Outcome State Fault Refusal :=
  s.onMach (fun k =>
    let f := fmtOf t.toNat
    k.vecElems d [a, b, c] m f.width (fun k val j g =>
      k.roundElem f g (fun rm sat dr => fmaF f rm sat dr (decodeF f (elem (val a) f.width j))
        (decodeF f (elem (val b) f.width j)) (decodeF f (elem (val c) f.width j)))))

/-! ### Whole lanes (R426, R427, R431) -/

def Mach.vecLanes (m : Mach) (d a b : BitVec 4) (mk : BitVec 3) (f : V → V → Nat → BitVec 32) : Mach :=
  m.vecOp (some d) [a, b] mk (fun m mask val => .ok (m.writeLanes d mask (lanesOf (f (val a) (val b)))).done)

/-- VAND (R426). -/
def execVand (d a b : BitVec 4) (m : BitVec 3) (s : State) : Host.Outcome State Fault Refusal :=
  s.onMach (fun k => k.vecLanes d a b m (fun x y i => lane x i &&& lane y i))

/-- VOR (R426). -/
def execVor (d a b : BitVec 4) (m : BitVec 3) (s : State) : Host.Outcome State Fault Refusal :=
  s.onMach (fun k => k.vecLanes d a b m (fun x y i => lane x i ||| lane y i))

/-- VXOR (R426). -/
def execVxor (d a b : BitVec 4) (m : BitVec 3) (s : State) : Host.Outcome State Fault Refusal :=
  s.onMach (fun k => k.vecLanes d a b m (fun x y i => lane x i ^^^ lane y i))

/-- VPERM (R426). -/
def execVperm (d a b : BitVec 4) (m : BitVec 3) (s : State) : Host.Outcome State Fault Refusal :=
  s.onMach (fun k => k.vecLanes d a b m (fun x y i => lane x ((lane y i).toNat % 16)))

/-- VSEL (R426): the mask selects, and every lane is written. -/
def execVsel (d a b : BitVec 4) (m : BitVec 3) (s : State) : Host.Outcome State Fault Refusal :=
  s.onMach (fun k => k.vecOp (some d) [a, b] m (fun k mask val => .ok (k.writeV d (blend mask (val a) (val b))).done))

/-- VBCAST (R427). -/
def execVbcast (d : BitVec 4) (a : BitVec 5) (m : BitVec 3) (s : State) : Host.Outcome State Fault Refusal :=
  s.onMach (fun k => k.vecOp (some d) [] m (fun k mask _ => do
    let x ← k.readW a
    .ok (k.writeLanes d mask (lanesOf (fun _ => x.setWidth 32))).done) [a])

/-- VEXT.n32 (R431). -/
def execVextN32 (d : BitVec 5) (v : BitVec 4) (l : BitVec 4) (s : State) : Host.Outcome State Fault Refusal :=
  s.onMach (fun k => k.vecOp none [v] 0 (fun k _ val => .ok (k.writeW d ((lane (val v) l.toNat).setWidth 64)).done))
/-- VEXT.i32 (R431). -/
def execVextI32 (d : BitVec 5) (v : BitVec 4) (l : BitVec 4) (s : State) : Host.Outcome State Fault Refusal :=
  s.onMach (fun k => k.vecOp none [v] 0 (fun k _ val => .ok (k.writeW d ((lane (val v) l.toNat).signExtend 64)).done))

/-- The 64 bits of a word of a vector, and whether it covers a lane. -/
def Mach.putLane (m : Mach) (d : BitVec 4) (l : Nat) (x : BitVec 32) : Mach := m.putReg (m.vKey d + 4 * l) 4 x.toNat

/-- VINS (R431): v[d] is not read; the other lanes keep their values, and the lane's word is full. -/
def execVins (a : BitVec 5) (d : BitVec 4) (l : BitVec 4) (s : State) : Host.Outcome State Fault Refusal :=
  s.onMach (fun k => k.popping (some d) [] (k.needOperands [] 0 [a]) (do
    let x ← k.readW a
    match k.port d with
    | .unbound => .ok (k.putLane d l.toNat (x.setWidth 32)).done
    | _ => .ok (k.writeV d (blend (BitVec.ofNat 16 (2 ^ l.toNat)) (lanesOf (fun _ => x.setWidth 32)) (k.vimage d))).done))

/-! ### Conversions (R429) -/

/-- One element converted from type code `src` to `dst`: value, flags, generator. -/
def Mach.convertElem (m : Mach) (src dst x : Nat) (g : BitVec 32) : Nat × BitVec 5 × BitVec 32 :=
  let ws := vecWidth src
  let wd := vecWidth dst
  match vecFmt src, vecFmt dst with
  | some a, some b => m.roundElem b g (fun rm sat dr => convertF b rm sat dr (decodeF a (x % 2 ^ ws)))
  | none, some b => m.roundElem b g (fun rm sat dr => roundF b rm sat dr false ((intOf ws (vecSigned src) x : Int) : Rat))
  | some a, none =>
    let (r, fl) := toInteger wd (vecSigned dst) m.rm (decodeF a (x % 2 ^ ws))
    (r, fl, g)
  | none, none =>
    let i := intOf ws (vecSigned src) x
    let lo : Int := if vecSigned dst then -(2 ^ (wd - 1) : Nat) else 0
    let hi : Int := if vecSigned dst then (2 ^ (wd - 1) : Nat) - 1 else (2 ^ wd : Nat) - 1
    ((max lo (min hi i) % (2 ^ wd : Nat)).toNat, 0, g)

/-- VCVT (R429): `x` the source code, `y` the destination code. -/
def execVcvt (d a : BitVec 4) (x y : BitVec 4) (m : BitVec 3) (s : State) : Host.Outcome State Fault Refusal :=
  s.onMach (fun k => k.vecElems d [a] m (slotBits y.toNat) (fun k val j g =>
    if j < 512 / slotBits x.toNat then k.convertElem x.toNat y.toNat (elem (val a) (slotBits x.toNat) j) g else (0, 0, g)))

/-! ### Reductions (R435) -/

/-- The identity of a reduction of type code `t`: 0 add, 1 min, 2 max (R194). Floats run in binary32. -/
def redIdentity (op t : Nat) : Nat :=
  let w := vecWidth t
  match vecFmt t with
  | some _ => if op = 0 then 0x80000000 else if op = 1 then 0x7F800000 else 0xFF800000
  | none =>
    if op = 0 then 0
    else if op = 1 then (if vecSigned t then 2 ^ (w - 1) - 1 else 2 ^ w - 1)
    else (if vecSigned t then 2 ^ (w - 1) else 0)

/-- One step of a reduction: the running value and the flags. -/
def redStep (op t acc x : Nat) : Nat × BitVec 5 :=
  let w := vecWidth t
  match vecFmt t with
  | some f =>
    let (y, fl) := convertF .f32 0 false 0 (decodeF f x)
    let (r, fl2) := if op = 0 then addF .f32 0 false 0 (decodeF .f32 acc) (decodeF .f32 y) else minMaxF .f32 (op == 2) acc y
    (r, fl ||| fl2)
  | none =>
    let less (a b : Nat) : Bool := decide (intOf w (vecSigned t) a < intOf w (vecSigned t) b)
    (if op = 0 then (acc + x) % 2 ^ w else if op = 1 then (if less x acc then x else acc) else if less acc x then x else acc, 0)

/-- What a reduction writes for a running value. -/
def Mach.redOut (m : Mach) (t acc : Nat) (g : BitVec 32) : Nat × BitVec 5 × BitVec 32 :=
  match vecFmt t with
  | some .f32 => (acc, 0, g)
  | some f => m.roundElem f g (fun rm sat dr => convertF f rm sat dr (decodeF .f32 acc))
  | none => (acc, 0, g)

/-- VRED (R435). -/
def execVred (d a : BitVec 4) (t : BitVec 4) (m : BitVec 3) (o : BitVec 4) (s : State) : Host.Outcome State Fault Refusal :=
  s.onMach (fun k => k.vecOp (some d) [a] m (fun k mask val =>
    let w := vecWidth t.toNat
    let js := (List.range (512 / w)).filter (fun j => mask.getLsbD (j * w / 32))
    let (acc, fl) := js.foldl (fun (p : Nat × BitVec 5) j =>
      let r := redStep o.toNat t.toNat p.1 (elem (val a) w j)
      (r.1, p.2 ||| r.2)) (redIdentity o.toNat t.toNat, 0)
    let (r, fl2, g) := k.redOut t.toNat acc k.me.gen
    .ok ((k.writeV d (BitVec.ofNat 512 r)).flagged (fl ||| fl2) g).done))

/-- VSCAN (R435). -/
def execVscan (d a : BitVec 4) (t : BitVec 4) (m : BitVec 3) (o : BitVec 4) (s : State) : Host.Outcome State Fault Refusal :=
  s.onMach (fun k => k.vecOp (some d) [a] m (fun k mask val =>
    let w := vecWidth t.toNat
    let js := (List.range (512 / w)).filter (fun j => mask.getLsbD (j * w / 32))
    let r := js.foldl (fun (p : Nat × BitVec 5 × BitVec 32 × Nat) j =>
      let (acc, fl) := redStep o.toNat t.toNat p.1 (elem (val a) w j)
      let (out, fl2, g) := k.redOut t.toNat acc p.2.2.1
      (acc, p.2.1 ||| fl ||| fl2, g, p.2.2.2 + out % 2 ^ w * 2 ^ (w * j))) (redIdentity o.toNat t.toNat, 0, k.me.gen, 0)
    .ok ((k.writeLanes d mask (BitVec.ofNat 512 r.2.2.2)).flagged r.2.1 r.2.2.1).done))

/-! ### Dot products (R219, R221) -/

/-- acc + Σ products, exact, rounded once to binary32, a sum beyond its range to an infinity in every mode (R219, R221): code
and flags. -/
def dotF (rm : Nat) (acc : FVal) (terms : List (FVal × FVal)) : Nat × BitVec 5 :=
  let vals := terms.flatMap (fun p => [p.1, p.2])
  let sig := acc.isSignalling || vals.any FVal.isSignalling
  let infZero := terms.any (fun p => (p.1.isInf && p.2.isZero) || (p.1.isZero && p.2.isInf))
  let infs := (if acc.isInf then [acc.neg] else []) ++
    (terms.filter (fun p => p.1.isInf || p.2.isInf)).map (fun p => p.1.neg != p.2.neg)
  if acc.isNan || vals.any FVal.isNan then (0x7FC00000, if sig then NV else 0)
  else if infZero || (infs.contains true && infs.contains false) then (0x7FC00000, NV)
  else if infs.contains true then (infCode .f32 true, 0)
  else if infs.contains false then (infCode .f32 false, 0)
  else
    let x := terms.foldl (fun x p => x + p.1.rat * p.2.rat) acc.rat
    let signs := acc.neg :: terms.map (fun p => p.1.neg != p.2.neg)
    let zeros := acc.isZero && terms.all (fun p => p.1.isZero || p.2.isZero)
    let neg := if zeros && signs.all (· == true) then true else if zeros && signs.all (· == false) then false else rm == 3
    let (r, fl) := roundF .f32 (modeFor rm 32) false 0 neg x
    (if fl &&& OF != 0 then infCode .f32 (decide (x < 0)) else r, fl)

/-- The elements of VDOT: 0 bf16, 1 f16, 2 e4m3, 3 e5m2, 4 i8 (R323). An integer carries no sign of zero. -/
def dotElem (t x : Nat) : FVal :=
  match t with
  | 0 => decodeF .bf16 x
  | 1 => decodeF .f16 x
  | 2 => decodeF .e4m3 x
  | 3 => decodeF .e5m2 x
  | _ => .fin false ((intOf 8 true x : Int) : Rat)

/-- VDOT (R430). -/
def execVdot (d a b c : BitVec 4) (m : BitVec 3) (t : BitVec 4) (s : State) : Host.Outcome State Fault Refusal :=
  s.onMach (fun k => k.vecElems d [a, b, c] m 32 (fun k val i g =>
    let w := if t.toNat ≤ 1 then 16 else 8
    let terms := (List.range (32 / w)).map (fun j =>
      (dotElem t.toNat (elem (val a) w (i * (32 / w) + j)), dotElem t.toNat (elem (val b) w (i * (32 / w) + j))))
    let (r, fl) := dotF k.rm (decodeF .f32 (elem (val c) 32 i)) terms
    (r, fl, g)))

/-! ### Special functions (R437) -/

/-- A code next to the truncated one, as the free bits choose, within one unit in the last place of an exact `a > 0`; infinity
where no finite code is. (log 53, DESIGN CHOICE) -/
def withinUlp (free : BitVec 32) (neg : Bool) (a : Rat) : Nat :=
  let lo := (roundF .f32 1 false 0 false a).1
  let exact := decide ((decodeF .f32 lo).rat = a)
  if pow2 128 < a then infCode .f32 neg
  else (if exact then lo + free.toNat % 3 - 1 else lo + free.toNat % 2) + (if neg then 2 ^ 31 else 0)

/-- ln 2 to 60 decimal places, and pi to 80. -/
def ln2 : Rat := mkRat 693147180559945309417232121458176568075500134360255254120680 (10 ^ 60)
def piRat : Rat := mkRat 314159265358979323846264338327950288419716939937510582097494459230781640628620899 (10 ^ 80)

/-- The sum of `n` terms, from term `t` on, each term `k` being the one before it times `x / k`. -/
def expTerms (x : Rat) : Nat → Nat → Rat → Rat
  | 0, _, _ => 0
  | n + 1, k, t => t + expTerms x n (k + 1) (t * x / ((k + 1 : Nat) : Rat))

/-- e^y - 1 for a small y. -/
def expm1Small (y : Rat) : Rat := expTerms y 40 1 y

/-- 2^x, to far less than a unit in the last place of binary32; 0 where it is below half the least subnormal. -/
def exp2Rat (x : Rat) : Rat :=
  if x < -160 then 0
  else
    let n := x.floor
    pow2 n * (1 + expm1Small ((x - (n : Rat)) * ln2))
def expRat (y : Rat) : Rat := exp2Rat (y / ln2)

/-- Σ t^(2k+1) / (2k+1): half the logarithm of (1+t)/(1-t). -/
def atanhTerms (t2 : Rat) : Nat → Nat → Rat → Rat
  | 0, _, _ => 0
  | n + 1, k, p => p / ((2 * k + 1 : Nat) : Rat) + atanhTerms t2 n (k + 1) (p * t2)

/-- log2 of a positive rational. -/
def log2Rat (a : Rat) : Rat :=
  let e := floorLog2 a
  let b := a / pow2 e
  let t := (b - 1) / (b + 1)
  (e : Rat) + 2 * atanhTerms (t * t) 60 0 t / ln2

/-- Σ of the terms of a sine or cosine. -/
def trigTerms (x2 : Rat) : Nat → Nat → Rat → Rat
  | 0, _, _ => 0
  | n + 1, k, t => t + trigTerms x2 n (k + 2) (-(t * x2) / (((k + 1) * (k + 2) : Nat) : Rat))

/-- An angle brought to within pi of zero. -/
def reduced (x : Rat) : Rat := x - ((x / (2 * piRat) + 1 / 2).floor : Rat) * (2 * piRat)
def sinRat (x : Rat) : Rat := let r := reduced x; trigTerms (r * r) 40 1 r
def cosRat (x : Rat) : Rat := let r := reduced x; trigTerms (r * r) 40 0 1

/-- tanh x and 1/(1 + e^-x). -/
def tanhRat (x : Rat) : Rat :=
  if 20 < x then 1 else if x < -20 then -1
  else
    let e := if -1 / 2 ≤ x && x ≤ 1 / 2 then expm1Small (2 * x) else expRat (2 * x) - 1
    e / (e + 2)
def sigmoidRat (x : Rat) : Rat := if 60 < x then 1 else let e := expRat x; e / (1 + e)

/-- A unit in the last place of binary32 at a value. -/
def ulpAt (a : Rat) : Rat := if a = 0 then pow2 (-149) else pow2 (max (floorLog2 (if a < 0 then -a else a)) (-126) - 23)

/-- The free bits where their value lies within `tol` of the function's, and otherwise the function's value rounded. The
tolerance is wider than the rule's by a 65,536th of a unit in the last place, for the series that end.
(log 53, DESIGN CHOICE) -/
def nearValue (free : BitVec 32) (a tol : Rat) : Nat :=
  let rounded := (roundF .f32 0 false 0 (decide (a < 0)) a).1
  match decodeF .f32 free.toNat with
  | .fin _ b => if b - a ≤ tol + ulpAt a / 65536 && a - b ≤ tol + ulpAt a / 65536 then free.toNat else rounded
  | _ => rounded

/-- Whether a rational is a power of two, and whether it is an integer. -/
def isPow2 (a : Rat) : Bool := decide (0 < a) && decide (pow2 (floorLog2 a) = a)

/-- One lane of VSF: 0 rcp, 1 rsqrt, 2 exp2, 3 log2, 4 sin, 5 cos, 6 tanh, 7 sigmoid. (log 53, DESIGN CHOICE) -/
def specialF (fn : BitVec 4) (x : BitVec 32) : Nat × BitVec 5 :=
  let v := decodeF .f32 x.toNat
  let free := Config.vsf fn x
  let pinf := infCode .f32 false
  let ninf := infCode .f32 true
  let one := 0x3F800000
  match v with
  | .nan neg k w sig => (nanCode .f32 neg k w, if sig then NV else 0)
  | .inf neg =>
    match fn.toNat with
    | 0 => (codeOf .f32 neg 0, 0)
    | 1 => if neg then (canonNan .f32, NV) else (0, 0)
    | 2 => if neg then (0, 0) else (pinf, 0)
    | 3 => if neg then (canonNan .f32, NV) else (pinf, 0)
    | 4 => (canonNan .f32, NV)
    | 5 => (canonNan .f32, NV)
    | 6 => (if neg then one + 2 ^ 31 else one, 0)
    | _ => if neg then (0, 0) else (one, 0)
  | .fin neg a =>
    match fn.toNat with
    | 0 => if a = 0 then (infCode .f32 neg, DZ) else (withinUlp free neg (1 / (if neg then -a else a)), NX)
    | 1 =>
      if a = 0 then (if neg then ninf else pinf, DZ)
      else if neg then (canonNan .f32, NV)
      else (withinUlp free false (sqrtRat (1 / a)), NX)
    | 2 =>
      if 128 ≤ a then (pinf, OF ||| NX)
      else if a.den = 1 && decide (-149 ≤ a) then (codeOf .f32 false (pow2 a.num), 0)
      else (nearValue free (exp2Rat a) (2 * ulpAt (exp2Rat a)), NX)
    | 3 =>
      if a = 0 then (ninf, DZ)
      else if neg then (canonNan .f32, NV)
      else if isPow2 a then ((roundF .f32 0 false 0 false ((floorLog2 a : Int) : Rat)).1, 0)
      else (nearValue free (log2Rat a) (2 * ulpAt (log2Rat a)), NX)
    | 4 => if a = 0 then (x.toNat, 0) else (nearValue free (sinRat a) (max (pow2 (-22)) (2 * ulpAt (sinRat a))), NX)
    | 5 => if a = 0 then (one, 0) else (nearValue free (cosRat a) (max (pow2 (-22)) (2 * ulpAt (cosRat a))), NX)
    | 6 => if a = 0 then (x.toNat, 0) else (nearValue free (tanhRat a) (2 * ulpAt (tanhRat a)), NX)
    | _ => if a = 0 then (0x3F000000, 0) else (nearValue free (sigmoidRat a) (2 * ulpAt (sigmoidRat a)), NX)

/-- VSF (R437): a late result; inactive lanes keep their value at issue, and FPMODE does not act. (log 53, DESIGN CHOICE) -/
def execVsf (d a : BitVec 4) (m : BitVec 3) (f : BitVec 4) (s : State) : Host.Outcome State Fault Refusal :=
  s.onMach (fun k => k.vecOp (some d) [a] m (fun k mask val =>
    let (v, fl, _) := elementwise 32 mask k.me.gen (fun i g =>
      let (r, fl) := specialF f (lane (val a) i)
      (r, fl, g))
    .ok (k.lateV d (.value (blend mask v (k.vimage d)).toNat fl)).done))

/-! ### Masks (R387) -/

def Mach.mask2 (m : Mach) (d a b : BitVec 3) (f : BitVec 16 → BitVec 16 → BitVec 16) : Mach :=
  m.settle (do
    let x ← m.readM a
    let y ← m.readM b
    .ok (m.writeM d (f x y)).done)

/-- MAND (R387). -/
def execMand (d a b : BitVec 3) (s : State) : Host.Outcome State Fault Refusal := s.onMach (fun k => k.mask2 d a b (· &&& ·))
/-- MOR (R387). -/
def execMor (d a b : BitVec 3) (s : State) : Host.Outcome State Fault Refusal := s.onMach (fun k => k.mask2 d a b (· ||| ·))
/-- MXOR (R387). -/
def execMxor (d a b : BitVec 3) (s : State) : Host.Outcome State Fault Refusal := s.onMach (fun k => k.mask2 d a b (· ^^^ ·))
/-- MNOT (R387). -/
def execMnot (d a : BitVec 3) (s : State) : Host.Outcome State Fault Refusal :=
  s.onMach (fun k => k.settle (do
    let x ← k.readM a
    .ok (k.writeM d (~~~x)).done))
/-- MCNT (R387). -/
def execMcnt (d : BitVec 5) (a : BitVec 3) (s : State) : Host.Outcome State Fault Refusal :=
  s.onMach (fun k => k.settle (do
    let x ← k.readM a
    .ok (k.writeW d (BitVec.ofNat 64 (bitCount 16 x.toNat))).done))
/-- MMOVW to a mask (R387). -/
def execMmovw (d : BitVec 3) (a : BitVec 5) (s : State) : Host.Outcome State Fault Refusal :=
  s.onMach (fun k => k.settle (do
    let x ← k.readW a
    .ok (k.writeM d (x.setWidth 16)).done))
/-- MMOVW to a w register (R387). -/
def execMmovwW (d : BitVec 5) (a : BitVec 3) (s : State) : Host.Outcome State Fault Refusal :=
  s.onMach (fun k => k.settle (do
    let x ← k.readM a
    .ok (k.writeW d (x.setWidth 64)).done))

end Sys2Proof.Machine
end

