-- ==== Sys2Proof/Machine/Lanes.lean ====
section
/-!
DEFINITION. Vector memory: VLD, VST, VGATH, VSCAT (R433, R434, R436), and the stream ports' SBIND and SREL (R408, R415).
-/
namespace Sys2Proof.Machine

/-- The address of VLD and VST (R434). -/
def blockAddr (x : Word) (i : BitVec 12) : Word := x + 64 * signExtend 12 i

/-- VLD (R434). -/
def execVld (v : BitVec 4) (a : BitVec 5) (m : BitVec 3) (i : BitVec 12) (s : State) : Host.Outcome State Fault Refusal :=
  s.onMach (fun k => k.popping (some v) [] (k.needOperands [] m [a]) (do
    let x ← k.readW a
    let mask ← k.readM m
    let addr := blockAddr x i
    let (p, k1) ← k.memCheck addr 64 .load
    if mask = 0 then .ok k1.done
    else
      let old := k.vimage v
      let (g, k2) ← k1.fetchData addr 64 p true
      match g with
      | .value y => .ok (k2.lateV v (.value (blend mask (BitVec.ofNat 512 y) old).toNat 0) true).done
      | .packet id fill =>
        let pend := k2.nextId
        .ok ((k2.lateV v (.parts { wait := [(0, 64, id)], size := 64, old := old, mask := mask, fill := fill }) true).issuedAt p pend addr (k.undoOf [v]))))

/-- The bytes of the active lanes of a vector, by offset. -/
def laneBytes (mask : BitVec 16) (v : V) : List (Nat × Byte) :=
  ((List.range 16).filter (fun i => mask.getLsbD i)).flatMap (fun i => bytesAt (4 * i) 4 (lane v i).toNat)

/-- VST (R434). -/
def execVst (v : BitVec 4) (a : BitVec 5) (m : BitVec 3) (i : BitVec 12) (s : State) : Host.Outcome State Fault Refusal :=
  s.onMach (fun k => k.vecOp none [v] m (fun k1 mask val => do
    let x ← k1.readW a
    let addr := blockAddr x i
    let (p, k1) ← k1.memCheck addr 64 .store
    if mask = 0 then .ok k1.done
    else .ok (k1.storeAt addr (laneBytes mask (val v)) p (k.undoOf [v]))) [a])

/-! ### Gathers and scatters -/

/-- A lane's trap: BRSRC holds the lane. -/
def laneTrap (i : Nat) (t : Trap) : Trap := { t with brsrc := BitVec.ofNat 64 i }

/-- The address of a lane (R433). -/
def laneAddr (x : Word) (v : V) (sh i : Nat) : Word := x + (lane v i).signExtend 64 <<< sh

/-- The lanes' addresses checked in lane order (R433): (lane, address, place). -/
def Mach.checkLanes (m : Mach) (x : Word) (v : V) (sh : Nat) (k : Kind) : List Nat → Res (List (Nat × Word × Place) × Mach)
  | [] => .ok ([], m)
  | i :: t =>
    match m.memCheck (laneAddr x v sh i) 4 k with
    | .error e => .error (laneTrap i e)
    | .ok (p, m) =>
      match m.checkLanes x v sh k t with
      | .error e => .error e
      | .ok (ps, m) => .ok ((i, laneAddr x v sh i, p) :: ps, m)

/-- The lanes' accesses: parts awaited and parts known. -/
def Mach.gatherLanes (m : Mach) : List (Nat × Word × Place) → Res (List (Nat × Nat × Nat) × List (Nat × Nat × Nat) × Mach)
  | [] => .ok ([], [], m)
  | (i, a, p) :: t =>
    match m.fetchData a 4 p false with
    | .error e => .error (laneTrap i e)
    | .ok (g, m) =>
      match m.gatherLanes t with
      | .error e => .error e
      | .ok (w, k, m) =>
        match g with
        | .value v => .ok (w, (4 * i, 4, v) :: k, m)
        | .packet id _ => .ok ((4 * i, 4, id) :: w, k, m)

/-- The active lanes of a mask. -/
def activeLanes (mask : BitVec 16) : List Nat := (List.range 16).filter (fun i => mask.getLsbD i)

/-- VGATH (R433). -/
def execVgath (v : BitVec 4) (a : BitVec 5) (x : BitVec 4) (m : BitVec 3) (h : BitVec 2) (s : State) : Host.Outcome State Fault Refusal :=
  s.onMach (fun k => k.vecOp (some v) [x] m (fun k1 mask val => do
    let b ← k1.readW a
    let (ps, k1) ← k1.checkLanes b (val x) h.toNat .load (activeLanes mask)
    if mask = 0 then .ok k1.done
    else
      let old := k1.vimage v
      let (wait, got, k1) ← k1.gatherLanes ps
      let pend := k1.nextId
      let k1 := k1.lateV v (.parts { wait := wait, got := got, size := 64, old := old, mask := mask, gather := true }) true
      .ok (if ps.any (fun p => p.2.2.parkable) then k1.await (.access pend b none [] (k.undoOf [v, x])) else k1.done)) [a])

/-- Lanes of a scatter in lane order, each after the previous lane's acknowledgement (R436): lanes at the own core are
performed at once, and the first other lane leaves and is awaited; a GV lane that is not parkable updates the own L1 and follows
the stores to its line that wait to be combined, so that what the L1 then holds is the newest (R145, R154).
`pc` is the instruction's address. -/
def Mach.scatterNext (m : Mach) (c x task : Nat) (pc : Word) (undo : Undo) : List (Nat × Word × Nat × Nat × Nat × Bool) → Mach
  | [] => m.modCtx c x Ctx.waited
  | (i, a, y, dst, key, pk) :: t =>
    if dst = c then (m.storeOwn c (bytesAt key 4 y)).scatterNext c x task pc undo t
    else
      let m := if 1024 ≤ dst && !pk then (m.drainLine c (lineOf key)).storeL1 c (lineOf key) (bytesAt (key % 128) 4 y) else m
      let id := m.nextId
      let m := m.inject { id := 0, src := c, dst := dst, body := .mem (.store (bytesAt key 4 y)) key a pk, core := c, task := task,
                          ctxs := [x], pc := pc }
      m.modCtx c x (fun v => { v with wait := .reply pc (.access id a (some i) t undo) })

/-- The home and key of a checked place, if there is an access to make. -/
def Mach.homeOf (m : Mach) (p : Place) : Option (Nat × Nat) :=
  match p with
  | .local k => some (m.cur.core, k)
  | .remote h k => some (h, k)
  | .global pa pte => some (m.homeEnd m.cur.core pa (hashUnit pte), pa)
  | .failed => none

/-- VSCAT (R436). -/
def execVscat (v : BitVec 4) (a : BitVec 5) (x : BitVec 4) (m : BitVec 3) (h : BitVec 2) (s : State) : Host.Outcome State Fault Refusal :=
  s.onMach (fun k => k.vecOp none [v, x] m (fun k1 mask val => do
    let b ← k1.readW a
    let (ps, k1) ← k1.checkLanes b (val x) h.toNat .store (activeLanes mask)
    if ps.any (fun p => p.2.2.parkable) then
      let c := k1.cur.core
      let k1 := k1.drainAll c
      let pc := k1.me.pc
      let todo := ps.filterMap (fun p => (k1.homeOf p.2.2).map (fun h =>
        (p.1, p.2.1, (lane (val v) p.1).toNat, h.1, h.2, p.2.2.parkable)))
      .ok (k1.done.scatterNext c k1.cur.ctx k1.me.task pc (k.undoOf [v, x]) todo)
    else
      .ok (ps.foldl (fun k p => k.storeData p.2.1 (bytesAt 0 4 (lane (val v) p.1).toNat) p.2.2) k1).done) [a])

/-! ### Stream ports -/

/-- The cause for which SBIND refuses a record (R408). -/
def Mach.bindCause (m : Mach) (r : Nat) : Option Cause :=
  match m.checkRecord m.cur.core r (fun b => isLw b) (recDir r) with
  | some e => some e
  | none =>
    if recLsz r ≠ 2 || (recFmt r ≠ 0 && recFmt r ≠ 1) then some .shapeExtent
    else if recFe r && !recWholeWords r then some .shapeAlign
    else none

/-- SBIND (R408): an earlier binding ends before the record is checked. -/
def execSbind (p h : BitVec 2) (s : State) : Host.Outcome State Fault Refusal :=
  s.onMach (fun m =>
    match m.readSh h with
    | .error t => m.trapMe t
    | .ok ws =>
      let v : BitVec 4 := 12 + p.setWidth 4
      let r := recOf ws
      let m := m.setPort v .unbound
      match m.bindCause r with
      | some e => m.trapMe { cause := .streamUnbound, bad := BitVec.ofNat 64 e.code }
      | none => (if recCount r = 0 then m else m.setPort v (.stream ws (recDir r) 0)).done)

/-- SREL (R415). -/
def execSrel (p : BitVec 2) (s : State) : Host.Outcome State Fault Refusal :=
  s.onMach (fun m =>
    let v : BitVec 4 := 12 + p.setWidth 4
    m.settle (if m.port v = .unbound then .error { cause := .streamUnbound } else .ok (m.setPort v .unbound).done))

end Sys2Proof.Machine
end

