-- ==== Sys2Proof/Machine/Folds.lean ====
section
/-!
DEFINITION. Fold loads and stores (R193 to R200): LDG and STG, the combining, and its result.
-/
namespace Sys2Proof.Machine

/-- The group a fold address names, if its partition has configured it (R195). -/
def Mach.groupOf (m : Mach) (p g : Nat) : Option Group := Table.find (m.part p).groups g

def Group.members (g : Group) : List Nat := g.tree.map (·.1)

/-- The checks of a fold address (R195); `type` is FOLD_TYPE's condition. -/
def Mach.foldCheck (m : Mach) (fa : Word) (badType : Bool) : Res Group :=
  if !(isFa fa && field fa 30 26 == 0 && field fa 21 3 == 0) then .error { cause := .addressClass, bad := fa }
  else if offOf fa % 64 ≠ 0 then .error { cause := .misalignedData, bad := fa }
  else if badType then .error { cause := .foldType, bad := fa }
  else
    match m.groupOf m.myPart (field fa 24 6) with
    | none => .error { cause := .foldGroupInvalid, bad := fa }
    | some g => .ok g

/-- LDG (R195): `o` the operation, `t` the `.t` suffix; its request travels to the group's root. -/
def execLdg (v : BitVec 4) (a : BitVec 5) (o : BitVec 4) (t : BitVec 1) (s : State) : Host.Outcome State Fault Refusal :=
  s.onMach (fun m => m.popping (some v) [] (m.needOperands [] 0 [a]) (do
    let fa ← m.readW a
    let g ← m.foldCheck fa (decide (10 ≤ o.toNat))
    let pend := m.nextId
    let m := m.lateV v (.token true)
    let id := m.nextId
    let m := m.fresh.request g.root (.fold id)
    let f : Fold := { id := id, pend := pend, core := m.cur.core, task := m.me.task, part := m.myPart,
                      group := field fa 24 6, op := o.toNat, fa := fa, since := s.now,
                      unread := g.members, got := [], packet := id + 1 }
    let m := { m with folds := m.folds ++ [f] }
    .ok (if t = 1 then m.await (.fold pend fa) else m.done)))

/-- The counts of an STG reach its context once every member has acknowledged (R199, R419). -/
def Mach.settleStg (m : Mach) (f : FoldStore) : Mach :=
  if f.unacked.isEmpty then
    (m.modTask f.core f.task (fun v => { v with foldstat := foldCount v.foldstat f.absent f.part }))
  else { m with foldStores := m.foldStores ++ [f] }

/-- The issuing core's own part of an STG: performed at issue, in order with its contexts' stores to their window (R153, R199);
whether the member is counted PARTIAL. -/
def Mach.storeMember (m : Mach) (c off : Nat) (v : BitVec 512) : Bool × Mach :=
  if m.scratchSize c ≤ off then (true, m) else (false, (m.settleOwn c).storeScratch (bytesAt (scratchKey c off) 64 v.toNat))

/-- STG (R199, R419). -/
def execStg (v : BitVec 4) (a : BitVec 5) (s : State) : Host.Outcome State Fault Refusal :=
  s.onMach (fun m => m.vecOp none [v] 0 (fun m _ val => do
    let fa ← m.readW a
    let g ← m.foldCheck fa false
    let own := m.cur.core
    let present := g.members.filter (fun c => !m.isFenced c && c != own)
    let absent := g.members.filter (fun c => m.isFenced c)
    let x := val v
    let (part, m) := if g.members.contains own && !m.isFenced own then m.storeMember own (offOf fa) x else (false, m)
    let first := m.nextId
    let m := present.foldl (fun m c =>
      m.request c (.mem (.foldStore (bytesAt (scratchKey c (offOf fa)) 64 x.toNat)) (scratchKey c (offOf fa)) fa false)) m
    let f : FoldStore := { id := m.nextId, core := m.cur.core, ctx := m.cur.ctx, task := m.me.task,
                           unacked := (List.range present.length).map (first + ·), absent := absent,
                           part := if part then [own] else [] }
    .ok (m.fresh.settleStg f).done) [a])

/-- A fold and the request of it leave (R195, R197); a reply that is still to come for the request leaves with it. -/
def Mach.endFold (m : Mach) (f : Fold) : Mach :=
  let m := { m with folds := m.folds.filter (fun g => g.id != f.id) }
  (((m.packets.filter (fun r => r.answers == f.packet)).map (·.id)).foldl Mach.retire m).retire f.packet

/-! ### Combining (R195, R196) -/

/-- Bits of an element of an operation as it is combined, its elements, and those of the member's bytes. -/
def foldBits (op : Nat) : Nat := if op = 3 || op = 8 || op = 9 then 64 else 32
def foldElems (op : Nat) : Nat := if op = 1 then 32 else 512 / foldBits op

/-- The identity (R194). -/
def foldIdentity (op : Nat) : Nat :=
  match op with
  | 0 => 0x80000000 | 1 => 0x80000000 | 4 => 0x7F800000 | 5 => 0xFF800000
  | 6 => 0x7FFFFFFF | 7 => 0x80000000 | 8 => 0x7FFFFFFFFFFFFFFF | 9 => 0x8000000000000000 | _ => 0

/-- Element `i` of a member's 64 bytes, BF16 widened exactly. -/
def foldElem (op x i : Nat) : Nat :=
  if op = 1 then x / 2 ^ (16 * i) % 2 ^ 16 * 2 ^ 16 else x / 2 ^ (foldBits op * i) % 2 ^ foldBits op

/-- Op(acc, x) of R196: value and flags. -/
def foldOp (op acc x : Nat) : Nat × BitVec 5 :=
  let w := foldBits op
  let less (a b : Nat) : Bool := decide (intOf w true a < intOf w true b)
  match op with
  | 0 => addF .f32 0 false 0 (decodeF .f32 acc) (decodeF .f32 x)
  | 1 => addF .f32 0 false 0 (decodeF .f32 acc) (decodeF .f32 x)
  | 4 => minMaxF .f32 false acc x
  | 5 => minMaxF .f32 true acc x
  | 2 => ((acc + x) % 2 ^ 32, 0)
  | 3 => ((acc + x) % 2 ^ 64, 0)
  | 6 => (if less x acc then x else acc, 0)
  | 8 => (if less x acc then x else acc, 0)
  | _ => (if less acc x then x else acc, 0)

/-- Op on each element of two lists. -/
def foldOps (op : Nat) : List Nat → List Nat → List Nat × BitVec 5
  | a :: s, x :: t =>
    let (r, fl) := foldOp op a x
    let (rs, fls) := foldOps op s t
    (r :: rs, fl ||| fls)
  | _, _ => ([], 0)

/-- A member's own contribution as elements. -/
def Fold.own (f : Fold) (c : Nat) : List Nat :=
  match (f.got.lookup c).getD none with
  | some (some x) => (List.range (foldElems f.op)).map (foldElem f.op x)
  | _ => List.replicate (foldElems f.op) (foldIdentity f.op)

/-- Combine(c) over a tree, children in combining order (R195); the depth is bounded by the member count. -/
def Fold.combine (f : Fold) (g : Group) : Nat → Nat → List Nat × BitVec 5
  | 0, c => (f.own c, 0)
  | n + 1, c =>
    ((g.tree.lookup c).getD []).foldl (fun acc k =>
      let (x, fl) := f.combine g n k
      let (r, fl2) := foldOps f.op acc.1 x
      (r, acc.2 ||| fl ||| fl2)) (f.own c, 0)

/-- A binary32 narrowed to BF16 under RNE (R196): code and flags. (log 40, DEDUCED) -/
def narrowBf16 (x : Nat) : Nat × BitVec 5 := convertF .bf16 0 false 0 (decodeF .f32 x)

/-- The 64 result bytes and the flags. (log 40, DEDUCED) -/
def Fold.result (f : Fold) (g : Group) : Nat × BitVec 5 :=
  let (xs, fl) := f.combine g g.tree.length g.root
  let w := if f.op = 1 then 16 else foldBits f.op
  let ys := xs.map (fun x => if f.op = 1 then narrowBf16 x else (x, 0))
  (ys.foldr (fun y n => y.1 % 2 ^ w + 2 ^ w * n) 0, ys.foldl (fun fl y => fl ||| y.2) fl)

/-- Members counted absent and partial. -/
def Fold.absents (f : Fold) : List Nat := (f.got.filter (fun p => p.2.isNone)).map (·.1)
def Fold.partials (f : Fold) : List Nat := (f.got.filter (fun p => p.2 == some none)).map (·.1)

/-- One member's read, at the member in its home order (R195): absent, partial, or its 64 bytes. -/
def Mach.foldRead (m : Mach) (f : Fold) (c : Nat) : Option (Option Nat) :=
  let k := scratchKey c (offOf f.fa)
  if m.isFenced c then none
  else if m.scratchSize c ≤ offOf f.fa || (wordsOf k 64).any (fun w => m.scratchBad.contains w) then some none
  else some (some (m.read k 64))

/-- The root answers a fold load whose members have all been read (R195). (log 39, DESIGN CHOICE) -/
def Mach.foldAnswer (m : Mach) (id : Nat) : Mach :=
  match m.folds.find? (fun f => f.id == id) with
  | none => m
  | some f =>
    match m.groupOf f.part f.group, m.packet f.packet with
    | some g, some p =>
      if f.unread.isEmpty && p.phase == .done && !m.packets.any (fun r => r.answers == p.id) then
        let (v, fl) := f.result g
        (m.modPacket p.id (fun q => { q with noticed := false })).answer p (.folded v fl)
      else m
    | _, _ => m

end Sys2Proof.Machine
end

