-- ==== Sys2Proof/Machine/Results.lean ====
section
/-!
DEFINITION. Late results as they return (R19): values, replies in parts, tokens, and the waits that they end.
-/
namespace Sys2Proof.Machine

/-- Whether an earlier late result of the same task, a join word included, is bound for one of the words of `p` (R19). -/
def Mach.behind (m : Mach) (p : Pend) : Bool :=
  (m.pends.takeWhile (fun q => q.id != p.id)).any (fun q =>
    q.core == p.core && q.task == p.task && q.words.any (fun k => p.words.contains k))

/-- Words written in turn with the 64-bit pieces of a value, full, their check symbols fresh (R19, R137). -/
def Mach.writeWords (m : Mach) : List Nat → Nat → Mach
  | [], _ => m
  | k :: t, v => (m.putReg k 8 v).writeWords t (v / 2 ^ 64)

/-- Whether a context waits for the late result `id`: an LDS, an access to a parkable page, or the token of a `.s`. -/
def waitsFor (id : Nat) : Wait → Bool
  | .sync i => i == id
  | .reply _ (.access i _ none _ _) => i == id
  | _ => false

/-- The cause that a token's status raises in SEND.s and REPLY.s (R183). -/
def statusCause (n : Nat) : Option Cause :=
  if n = 1 then some .sendRefused else if n = 2 then some .destFenced else if n = 3 then some .messageTooLong else none

/-- The wait of a task whose late result `id` has been written with value `v` is over (R67, R160, R183). -/
def Mach.resultSeen (m : Mach) (c task id v : Nat) : Mach :=
  match m.ctxOf c task with
  | none => m
  | some x =>
    match (m.ctx c x).wait with
    | .reply _ (.message token desc) =>
      if token = id then
        match statusCause (v % 8) with
        | some e => m.raise c x { cause := e, bad := desc } (m.ctx c x).pc
        | none => m.modCtx c x Ctx.waited
      else m
    | w => if waitsFor id w then m.modCtx c x Ctx.waited else m

/-- A late result is written: its words, its flags, its push, and the end of its context's wait (R19, R211, R409). -/
def Mach.writeLate (m : Mach) (p : Pend) (v : Nat) (fl : BitVec 5) : Mach :=
  let m := (m.writeWords p.words v).lateFlags p.core p.task fl
  let m := p.push.foldl (fun m k => m.pushLane k.2 p.pushFull (lane (BitVec.ofNat 512 v) k.1)) m
  (m.dropPend p.id).resultSeen p.core p.task p.id v

/-- A late result whose value is known and not yet written; an acquire still waits for it if it did (R156). -/
def Pend.known (p : Pend) (v : Nat) : Pend :=
  { p with late := .value v 0, access := match p.late with | .token load => load | _ => p.access }

/-- A late result whose value has become known: written, or kept until those before it are (R19). A killed task's is
discarded (R247). -/
def Mach.resolve (m : Mach) (id v : Nat) : Mach :=
  match m.findPend id with
  | none => m
  | some p =>
    if m.behind p then { m with pends := m.pends.map (fun q => if q.id = id then q.known v else q) }
    else m.writeLate p v 0

/-- A number with `n` bytes from offset `off` replaced. -/
def putBytes (x off n v : Nat) : Nat :=
  x / 2 ^ (8 * (off + n)) * 2 ^ (8 * (off + n)) + v % 2 ^ (8 * n) * 2 ^ (8 * off) + x % 2 ^ (8 * off)

/-- The value of a late result all of whose parts have returned. -/
def Parts.value (p : Parts) : Nat :=
  let x := p.got.foldl (fun x g => putBytes x g.1 g.2.1 g.2.2) (if p.size = 64 then p.old.toNat else 0)
  if p.size = 64 then (blend p.mask (BitVec.ofNat 512 x) p.old).toNat
  else (intOf (8 * p.size) p.signed x % (2 ^ 64 : Nat)).toNat

/-- The lowest failed part. -/
def Parts.firstFailed (p : Parts) : Option (Nat × Cause × Word) :=
  p.failed.foldl (fun b f => match b with | some g => if f.1 < g.1 then some f else some g | none => some f) none

/-- What a faulting instruction had changed is as it was: its context's stream ports, and the images its pops wrote (R333). -/
def Mach.undone (m : Mach) (c x : Nat) (u : Undo) : Mach :=
  let m := u.images.foldl (fun m i => let m := m.write i.1 8 i.2.1.toNat; if i.2.2 then m.fill i.1 else m.empty i.1) m
  if u.ports.isEmpty then m else m.modCtx c x (fun v => { v with ports := u.ports })

/-- An access on a parkable page failed as a precise fault: the words that were full at issue are full, a gather's
destination has its value at issue, and the instruction traps with no effect on its ports (R333, R433). -/
def Mach.failLate (m : Mach) (p : Pend) (q : Parts) (f : Nat × Cause × Word) : Mach :=
  let m := (if q.gather then m.writeWords p.words q.old.toNat else m.fillAll p.wasFull).dropPend p.id
  match m.ctxOf p.core p.task with
  | none => m
  | some x =>
    let trap : Trap := { cause := f.2.1, bad := f.2.2, brsrc := BitVec.ofNat 64 (f.1 / 4) }
    match (m.ctx p.core x).wait with
    | .reply pc (.access _ _ _ _ u) => (m.undone p.core x u).raise p.core x trap pc
    | .reply pc _ => m.raise p.core x trap pc
    | _ => m.raise p.core x trap (m.ctx p.core x).last

/-- A result whose parts have all returned. -/
def Mach.finishParts (m : Mach) (p : Pend) (q : Parts) : Mach :=
  if p.quiet then m.dropPend p.id
  else match q.firstFailed with
    | some f => m.failLate p q f
    | none => m.writeLate p q.value 0

/-- A line returned to a core's L1 (R145). -/
def Mach.fillL1 (m : Mach) (c : Nat) (f : Nat × Nat × Bool) (data : List Byte) : Mach :=
  { m.modCore c (fun r => { r with l1 := l1Add r.l1Cap r.l1 { line := f.1, data := data, cls := f.2.1, readOnly := f.2.2 } }) with
    l1Bad := m.l1Bad.filter (fun b => b != (c, f.1)) }

/-- The address, as the task used it, and the physical one that a request carries. -/
def Body.where : Body → Nat × Word
  | .mem _ a va _ => (a, va)
  | _ => (0, 0)

/-- One part of a late result returns with the reply `r` of the request `w` = (offset, bytes, packet) (R134, R383). -/
def Mach.partBack (m : Mach) (p : Pend) (q : Parts) (w : Nat × Nat × Nat) (r : Packet) : Mach :=
  let va := ((m.packet r.answers).map (fun k => k.body.where.2)).getD 0
  let pc := ((m.packet r.answers).map (·.pc)).getD 0
  let ctx := (m.packet r.answers).bind (·.ctxs.head?)
  let m := m.settleReply r
  let q := { q with wait := q.wait.filter (fun k => k != w) }
  let (q, m) : Parts × Mach :=
    match r.body with
    | .data v => ({ q with got := (w.1, w.2.1, v) :: q.got }, m)
    | .line bytes =>
      ({ q with got := (w.1, w.2.1, lineRead bytes (va.toNat % 128) w.2.1) :: q.got },
       match q.fill with | some f => m.fillL1 p.core f bytes | none => m)
    | .failed e true => ({ q with failed := (w.1, e, va) :: q.failed }, m)
    | .failed e false =>
      ({ q with got := (w.1, w.2.1, 0) :: q.got }, if p.quiet then m else m.errorEntry p.core e va pc ctx)
    | _ => (q, m)
  if q.wait.isEmpty then m.finishParts p q
  else { m with pends := m.pends.map (fun k => if k.id = p.id then { k with late := .parts q } else k) }

/-- A remap reply. -/
def Body.isRemap : Body → Bool
  | .remap _ _ _ => true
  | _ => false

/-- The first part whose reply has arrived, with that reply; a remap reply is not one (R149). -/
def Mach.partReply (m : Mach) (q : Parts) : Option ((Nat × Nat × Nat) × Packet) :=
  q.wait.findSome? (fun w =>
    match m.packets.find? (fun r => r.answers == w.2.2) with
    | some r => if (m.arrivedReply r.id).isSome && !r.body.isRemap then some (w, r) else none
    | none => none)

/-- LATE_RESULT (R19): the late result `id` is written, or one more part of it returns. Nothing happens while an earlier
one is bound for its words, or none of its replies has arrived. -/
def Mach.lateResult (m : Mach) (id : Nat) : Mach :=
  match m.findPend id with
  | none => m
  | some p =>
    if m.behind p then m
    else match p.late with
      | .value v fl => m.writeLate p v fl
      | .parts q =>
        if q.wait.isEmpty then m.finishParts p q
        else match m.partReply q with
          | some (w, r) => m.partBack p q w r
          | none => m
      | _ => m

/-- LATE_RESULT (R19). -/
def execLateResult (id : Nat) (s : State) : Host.Outcome State Fault Refusal :=
  s.onMach (fun m => m.lateResult id)

end Sys2Proof.Machine
end

