-- ==== Sys2Proof/Machine/Channels.lean ====
section
/-!
DEFINITION. Messages and channels: SEND, REPLY, POST, CHBIND, QCNT (R181 to R192, R401, R403, R405, R358), arrivals, and
the status of a message.
-/
namespace Sys2Proof.Machine

/-! ### Channel fields (R184) -/

def Channel.mode (k : Channel) : Nat := field k.cfg 0 2
def Channel.capacity (k : Channel) : Nat := field k.cfg 4 4 + 1
def Channel.isBound (k : Channel) : Bool := k.cfg.getLsbD 15
def Channel.level (k : Channel) : Bool := k.cfg.getLsbD 11

def Mach.chan (m : Mach) (c ch : Nat) : Channel := (m.core c).chans.getD ch {}
def Mach.modChan (m : Mach) (c ch : Nat) (f : Channel → Channel) : Mach :=
  m.modCore c (fun r => { r with chans := r.chans.modify ch f })

/-- Arrivals that a channel holds (R187): accepted, and their handler task not ended. -/
def Mach.chanHeld (m : Mach) (c ch : Nat) : Nat :=
  (m.chan c ch).held.length + (m.chan c ch).running + ((m.core c).level1.filter (fun r => r.1 == ch)).length

/-! ### Descriptors (R182, R190) -/

def descLen (d : Word) : Nat := field d 32 7
def descTag (d : Word) : Nat := field d 16 16
def descChan (d : Word) : Nat := field d 10 3
def descDest (d : Word) : Nat := field d 0 10
def Post.chan (d : Word) : Nat := field d 13 3
def Post.rsv (d : Word) : Bool := d.getLsbD 12

/-- Whether a match descriptor takes an arrival of a source and tag. -/
def descMatches (d : Word) (src tag : Nat) : Bool :=
  (d.getLsbD 10 || field d 0 10 == src) && (d.getLsbD 11 || field d 16 16 == tag)

/-! ### Sending -/

/-- The message of SEND and REPLY once its operands are read and its payload is known (R183): `o` 1 is `.nt`, 2 `.s`. -/
def Mach.sendMessage (m : Mach) (plane : Bool) (o : BitVec 2) (t : BitVec 5) (desc : Word) (payload : List Byte) : Res Mach :=
  if 16 ≤ (m.myCore).sendq then
    if o = 1 then .ok (m.writeW t 4).done else .error { cause := .sendqFull }
  else
    let c := m.cur.core
    let v := m.me
    let token := m.nextId
    let m := (m.late (m.lateW t) (.token false)).modCore c (fun r => { r with sendq := r.sendq + 1 })
    let msg : Msg := { src := c, tag := descTag desc, chan := descChan desc, len := descLen desc,
                       payload := payload.take (descLen desc), qtag := v.tag, rt := v.rt }
    let m := m.inject { id := 0, src := c, dst := descDest desc, reply := plane, body := .message msg token, core := c, task := v.task,
                         ctxs := [m.cur.ctx], pc := v.pc }
    .ok (if o = 2 then m.await (.message token desc) else m.done)

/-- The checks of the descriptor (R183). -/
def Mach.checkDesc (m : Mach) (desc : Word) : Res Unit :=
  if descLen desc = 0 || 64 < descLen desc then .error { cause := .messageTooLong }
  else if !m.inPart m.myPart (descDest desc) then .error { cause := .partitionViolation }
  else .ok ()

/-- The check of a buffer of the own local window (R183, R190): its key. -/
def Mach.checkBuffer (m : Mach) (b : Word) (len : Nat) : Res Nat :=
  if !(isLw b && classOk b) then .error { cause := .addressClass, bad := b }
  else if b.toNat % 8 ≠ 0 then .error { cause := .misalignedData, bad := b }
  else if m.scratchSize m.cur.core < offOf b + len then .error { cause := .windowBounds, bad := b }
  else .ok (scratchKey m.cur.core (offOf b))

/-- SEND and REPLY of a vector payload. -/
def Mach.sendVector (m : Mach) (plane : Bool) (o : BitVec 2) (t a : BitVec 5) (v : BitVec 4) : Mach :=
  m.popping none [v] (m.needOperands [v] 0 [a]) (do
    let desc ← m.readW a
    let (x, m) ← m.readV v
    m.checkDesc desc
    m.sendMessage plane o t desc (toBytes 64 x.toNat))

/-- SEND and REPLY of a buffer payload; the buffer's full/empty bits do not matter (R405). A word of it that is
uncorrectable traps as a load's does (R137). -/
def Mach.sendBuffer (m : Mach) (plane : Bool) (o : BitVec 2) (t a b : BitVec 5) : Mach :=
  m.settle (do
    let desc ← m.readW a
    let buf ← m.readW b
    m.checkDesc desc
    let k ← m.checkBuffer buf (descLen desc)
    if (wordsOf k (descLen desc)).any (fun w => m.scratchBad.contains w) then .error { cause := .scratchUncorrectable, bad := buf }
    else m.sendMessage plane o t desc (toBytes (descLen desc) (m.read k (descLen desc))))

/-- SEND (R405, R183). -/
def execSend (o : BitVec 2) (t a : BitVec 5) (v : BitVec 4) (s : State) : Host.Outcome State Fault Refusal :=
  s.onMach (fun m => m.sendVector false o t a v)

/-- SEND of a buffer (R405, R183). -/
def execSendBuf (o : BitVec 2) (t a b : BitVec 5) (s : State) : Host.Outcome State Fault Refusal :=
  s.onMach (fun m => m.sendBuffer false o t a b)

/-- REPLY (R405, R183). -/
def execReply (o : BitVec 2) (t a : BitVec 5) (v : BitVec 4) (s : State) : Host.Outcome State Fault Refusal :=
  s.onMach (fun m => m.sendVector true o t a v)

/-- REPLY of a buffer (R405, R183). -/
def execReplyBuf (o : BitVec 2) (t a b : BitVec 5) (s : State) : Host.Outcome State Fault Refusal :=
  s.onMach (fun m => m.sendBuffer true o t a b)

/-! ### Matched delivery (R188, R190) -/

/-- A match: the covered words and the token of a post are written. The bytes of the last covered word that the arrival
does not reach are zero, and earlier ones keep their values (R188). (log 45, DEDUCED) -/
def Mach.deliver (m : Mach) (p : Post) (g : Msg) : Mach :=
  let len := descLen p.desc
  let n := min g.len len
  let words := (len + 7) / 8
  let old := m.read p.buf (8 * (words - 1))
  let data := ofBytes (g.payload.take n) + old / 2 ^ (8 * n) * 2 ^ (8 * n)
  let status := if len < g.len then 3 else 0
  let token := status + g.len * 2 ^ 8 + g.src * 2 ^ 32 + g.tag * 2 ^ 48
  m.resolve p.token (data + token * 2 ^ (64 * words))

/-- The first post that takes an arrival, and the others. -/
def takePost (rsv : Bool) (g : Msg) : List Post → Option (Post × List Post)
  | [] => none
  | p :: t =>
    if Post.rsv p.desc == rsv && descMatches p.desc g.src g.tag then some (p, t)
    else match takePost rsv g t with
      | some (x, t) => some (x, p :: t)
      | none => none

/-- The first overflow entry that a post takes, and the others. -/
def takeOverflow (d : Word) : List Msg → Option (Msg × List Msg)
  | [] => none
  | g :: t =>
    if descMatches d g.src g.tag then some (g, t)
    else match takeOverflow d t with
      | some (x, t) => some (x, g :: t)
      | none => none

/-- POST once its operands are read: the checks of R190, then the post. -/
def Mach.postReceive (m : Mach) (t : BitVec 5) (d b : Word) : Res Mach := do
  let c := m.cur.core
  let ch := Post.chan d
  if descLen d = 0 || 64 < descLen d then .error { cause := .messageTooLong }
  let k ← m.checkBuffer b (descLen d)
  if (m.chan c ch).mode ≠ 2 then .error { cause := .channelBindConflict }
  if 32 ≤ (m.chan c ch).posts.length then .error { cause := .postListFull }
  let p : Post := { desc := d, buf := k, token := m.nextId }
  let m := m.late (wordsOf k (descLen d) ++ m.lateW t) (.token false)
  match if Post.rsv d then none else takeOverflow d (m.chan c ch).overflow with
  | some (g, rest) => .ok ((m.modChan c ch (fun q => { q with overflow := rest })).deliver p g).done
  | none => .ok (m.modChan c ch (fun q => { q with posts := q.posts ++ [p] })).done

/-- POST (R401, R190). -/
def execPost (t a b : BitVec 5) (s : State) : Host.Outcome State Fault Refusal :=
  s.onMach (fun m => m.settle (do
    let d ← m.readW a
    let x ← m.readW b
    m.postReceive t d x))

/-- QCNT (R403, R192). -/
def Mach.freeSlots (m : Mach) (c ch : Nat) : Word :=
  let k := m.chan c ch
  if k.mode = 1 then BitVec.ofNat 64 (k.capacity - m.chanHeld c ch)
  else if k.mode = 2 then BitVec.ofNat 64 (64 - k.overflow.length + 65536 * (32 - k.posts.length))
  else 0

/-- QCNT (R403). -/
def execQcnt (d : BitVec 5) (c : BitVec 3) (s : State) : Host.Outcome State Fault Refusal :=
  s.onMach (fun m => (m.writeW d (m.freeSlots m.cur.core c.toNat)).done)

/-! ### Binding (R191, R358) -/

/-- Where an operation that an agent of core `c` makes on a handle goes: its home, or from the own core the core to which its
frame has moved (R106). (log 37, DEDUCED) -/
def Mach.homeFor (m : Mach) (c : Nat) (h : Handle) : Nat :=
  if hHome h = c && m.movedAt c h then ((m.forwardOf c (hIndex h)).map (·.dest)).getD c else hHome h

/-- An operation on a handle for which no context waits goes to its home on core `c`'s pair channel (R107, R152). -/
def Mach.tellHome (m : Mach) (c : Nat) (op : HandleOp) (h : Handle) : Mach :=
  (if hHome h = c then m.touch h else m).inject
    { id := 0, src := c, dst := m.homeFor c h, body := .handle op h true, core := c }

/-- A binding's reference is given up at the handle's home (R99, R107). -/
def Mach.unbind (m : Mach) (c ch : Nat) : Mach :=
  let k := m.chan c ch
  if !k.isBound then m
  else if m.homeFor c k.bound = c then m.unref ((m.partOf c).getD 0) k.bound c
  else m.tellHome c .unref k.bound

/-- The channel of CHBIND is in handler mode and holds no arrival. -/
def Mach.canBind (m : Mach) (c ch : Nat) : Bool := (m.chan c ch).mode == 1 && m.chanHeld c ch == 0

/-- The channel bound to a handle whose reference has been taken. (log 45, DEDUCED) -/
def Mach.bindChan (m : Mach) (c ch : Nat) (h : Handle) (level : Bool) (prio : Nat) : Mach :=
  (m.unbind c ch).modChan c ch (fun k => { k with
    bound := h,
    cfg := BitVec.ofNat 64 (field k.cfg 0 11 + (if level then 2048 else 0) + prio * 4096 + 32768) })

/-- The trap of a failed handle check: BADADDR[31:0] is the handle (R101); the address of a word of its frame that is
uncorrectable is not stated (R137). (log 7, DEDUCED; log 71, DESIGN CHOICE) -/
def handleTrap (e : Cause) (h : Handle) : Trap :=
  { cause := e, bad := if e = .scratchUncorrectable then none else some (h.setWidth 64) }

/-- CHBIND (R191, R358). -/
def Mach.chbind (m : Mach) (ch : Nat) (h : Handle) (level : Bool) (prio : Nat) : Res Mach :=
  let c := m.cur.core
  if level && !m.me.rt then .error { cause := .privileged }
  else if !m.canBind c ch then .error { cause := .channelBindConflict }
  else if !m.inPart m.myPart (hHome h) then .error (handleTrap .partitionViolation h)
  else if hHome h = c then
    match m.bindRef m.myPart h m.me.rt with
    | .error e => .error (handleTrap e h)
    | .ok m => .ok (m.bindChan c ch h level prio).done
  else .ok ((m.request (hHome h) (.handle .bind h m.me.rt)).await (.bind ch h level prio))

/-- CHBIND (R358). -/
def execChbind (c k : BitVec 3) (l : BitVec 1) (p : BitVec 3) (s : State) : Host.Outcome State Fault Refusal :=
  s.onMach (fun m => m.settle (do
    let h ← m.readK k
    m.chbind c.toNat h (l == 1) p.toNat))

/-! ### Writes of CHCFG (R185) -/

/-- A flight given up at its handle's home (R107, R185). -/
def Mach.endFlight (m : Mach) (c : Nat) (h : Handle) : Mach :=
  if m.homeFor c h = c then m.dropFlight ((m.partOf c).getD 0) h else m.tellHome c .unfly h

/-- The flights of arrivals that are discarded are given up at their handles' homes (R185); one whose application is still
to be taken is given up when the home answers. -/
def Mach.dropFlights (m : Mach) (c : Nat) (es : List Entry) : Mach :=
  (es.filter (fun e => e.check == 0)).foldl (fun m e => m.endFlight c e.h) m

/-- Every post of a disabled channel completes with status FENCED in its token; the other fields, which come from an
arrival, are not stated (R185, R190). (log 45, DEDUCED) -/
def Mach.endPosts (m : Mach) (ps : List Post) : Mach :=
  ps.foldl (fun m p =>
    let n := (descLen p.desc + 7) / 8
    let v := (Config.freeWord m.free &&& 0xFFFF03FF00007F00) ||| 2
    let m := { m with free := m.free + 1,
                      pends := m.pends.map (fun (q : Pend) => if q.id = p.token then { q with words := q.words.drop n } else q) }
    m.resolve p.token v.toNat) m

/-- A channel disabled (R185). -/
def Mach.disableChan (m : Mach) (c ch : Nat) (v : Word) : Mach :=
  let k := m.chan c ch
  let gone := k.held ++ ((m.core c).level1.filter (fun r => r.1 == ch)).map (·.2)
  let m := (m.unbind c ch).dropFlights c gone
  let m := m.modCore c (fun r => { r with level1 := r.level1.filter (fun e => e.1 != ch) })
  let m := m.modChan c ch (fun k => { k with cfg := v &&& 0x78F0, bound := 0, held := [], posts := [], overflow := [] })
  m.endPosts k.posts

/-- A write of CHCFG of the issuing core (R185). -/
def Mach.writeChcfg (m : Mach) (ch : Nat) (v : Word) : Res Mach :=
  let c := m.cur.core
  let k := m.chan c ch
  let mode := field v 0 2
  if mode = 3 then .error { cause := .reservedField }
  else if mode = 0 then .ok (m.disableChan c ch v)
  else if (k.mode ≠ 0 && k.mode ≠ mode) || field v 4 4 + 1 < m.chanHeld c ch then .error { cause := .channelBindConflict }
  else .ok (m.modChan c ch (fun k => { k with cfg := (v &&& 0x78F3) ||| (k.cfg &&& 0x8000) }))

/-! ### Arrivals (R186 to R188) -/

/-- An entry about a channel of core `c` (R255). -/
def Mach.chanEntry (m : Mach) (c : Nat) (cause : Cause) (g : Msg) : Mach :=
  let aux : Word := if cause = .forwardExpired then 0 else BitVec.ofNat 64 (g.chan + g.src * 2 ^ 16 + g.tag * 2 ^ 32)
  m.postAt c { cause := cause.code, core := c, aux0 := aux }

/-- An arrival joins those that its channel holds, or the level-1 requests (R71, R187). -/
def Mach.joinChan (m : Mach) (c ch : Nat) (level : Bool) (e : Entry) : Mach :=
  if level then m.modCore c (fun r => { r with level1 := r.level1 ++ [(ch, e)] })
  else m.modChan c ch (fun k => { k with held := k.held ++ [e] })

/-- An arrival accepted by a bound handler-mode channel: it is applied at the handle's home, which answers by `settleArrival`
where it is another core (R101, R107, R187). (log 47, DEDUCED) -/
def Mach.acceptHandler (m : Mach) (c : Nat) (g : Msg) : Mach :=
  let k := m.chan c g.chan
  let p := (m.partOf c).getD 0
  let e : Entry := { h := k.bound, tag := g.qtag, payload := g.payload,
                     args := { w1 := BitVec.ofNat 64 g.src, w2 := BitVec.ofNat 64 g.tag, w3 := BitVec.ofNat 64 g.len } }
  if !m.inPart p (hHome k.bound) then m.complainHandle c .partitionViolation k.bound c
  else if m.homeFor c k.bound = c then
    match m.takeApp p k.bound true with
    | .error e => m.complainHandle c e k.bound c
    | .ok m => m.joinChan c g.chan k.level e
  else
    let e := { e with check := m.nextId }
    (m.tellHome c .accept k.bound).joinChan c g.chan k.level e

/-- The home of an accepted arrival's handle has answered the request `id` of core `c`: the arrival stands, or is discarded.
One that its channel holds no more gives its flight up (R101, R185, R187). -/
def Mach.settleArrival (m : Mach) (c id : Nat) (h : Handle) (ok : Bool) : Mach :=
  let mine (e : Entry) : Bool := e.check == id
  let there (r : Core) : Bool := r.chans.any (fun k => k.held.any mine) || r.level1.any (fun e => mine e.2)
  let settle (e : Entry) : Entry := if mine e then { e with check := 0 } else e
  let fix (r : Core) : Core :=
    if ok then { r with chans := r.chans.map (fun k => { k with held := k.held.map settle }),
                        level1 := r.level1.map (fun e => (e.1, settle e.2)) }
    else { r with chans := r.chans.map (fun k => { k with held := k.held.filter (fun e => !mine e) }),
                  level1 := r.level1.filter (fun e => !mine e.2) }
  if m.cores.any (fun e => there e.2) then { m with cores := m.cores.map (fun e => (e.1, fix e.2)) }
  else if ok then m.endFlight c h
  else m

/-- Whether an arrival finds its channel moved away and the forwarding entry expired (R260). -/
def Mach.chanExpired (m : Mach) (c ch : Nat) : Bool :=
  (m.chan c ch).mode == 0 && (m.core c).expired.any (fun f => f.chmask.testBit ch)

/-- A SEND at a channel that is not in matched mode, or at a fenced core: the status (R186, R187, R71, R179).
(log 47, DEDUCED) -/
def Mach.arriveHandler (m : Mach) (c : Nat) (g : Msg) : Nat × Mach :=
  let k := m.chan c g.chan
  if m.isFenced c then (2, m)
  else if m.chanExpired c g.chan then (1, m.chanEntry c .forwardExpired g)
  else if k.mode ≠ 1 || !k.isBound then (1, m.chanEntry c .channelUnbound g)
  else if k.capacity ≤ m.chanHeld c g.chan then (1, m)
  else if k.level && decide (8 ≤ (m.core c).level1.length) then (1, m.chanEntry c .interjectionOverflow g)
  else (0, m.acceptHandler c g)

/-- A SEND at a matched-mode channel (R188). -/
def Mach.arriveMatched (m : Mach) (c : Nat) (g : Msg) : Nat × Mach :=
  let k := m.chan c g.chan
  match takePost false g k.posts with
  | some (p, rest) =>
    (if descLen p.desc < g.len then 3 else 0, (m.modChan c g.chan (fun k => { k with posts := rest })).deliver p g)
  | none =>
    if k.overflow.length < 64 then (0, m.modChan c g.chan (fun k => { k with overflow := k.overflow ++ [g] }))
    else (1, m.chanEntry c .matchOverflow g)

/-- A REPLY at a channel (R188, R405). -/
def Mach.arriveReply (m : Mach) (c : Nat) (g : Msg) : Nat × Mach :=
  let k := m.chan c g.chan
  if m.isFenced c then (2, m)
  else
    match if k.mode = 2 then takePost true g k.posts else none with
    | some (p, rest) =>
      (if descLen p.desc < g.len then 3 else 0, (m.modChan c g.chan (fun k => { k with posts := rest })).deliver p g)
    | none => (1, m.chanEntry c (if m.chanExpired c g.chan then .forwardExpired else .replyUnexpected) g)

/-- The message next on a pair channel and plane, if a SEND or REPLY is. -/
def Mach.nextMessage (m : Mach) (src dst : Nat) (plane : Bool) : Option (Packet × Msg) :=
  match m.next src dst plane with
  | some p => match p.body with | .message g _ => some (p, g) | _ => none
  | none => none

/-- HANDLER_ARRIVAL (R187): a message whose channel is not in matched mode, or whose core is fenced. -/
def execHandlerArrival (src dst : Nat) (s : State) : Host.Outcome State Fault Refusal :=
  s.onMach (fun m =>
    match m.nextMessage src dst false with
    | some (p, g) =>
      if (m.chan dst g.chan).mode = 2 && !m.isFenced dst then m
      else
        let (n, m) := m.arriveHandler dst g
        m.answer p (.status n)
    | none => m)

/-- MATCHED_ARRIVAL (R188). -/
def execMatchedArrival (src dst : Nat) (s : State) : Host.Outcome State Fault Refusal :=
  s.onMach (fun m =>
    match m.nextMessage src dst false with
    | some (p, g) =>
      if (m.chan dst g.chan).mode = 2 && !m.isFenced dst then
        let (n, m) := m.arriveMatched dst g
        m.answer p (.status n)
      else m
    | none => m)

/-- REPLY_ARRIVAL (R188). -/
def execReplyArrival (src dst : Nat) (s : State) : Host.Outcome State Fault Refusal :=
  s.onMach (fun m =>
    match m.nextMessage src dst true with
    | some (p, g) =>
      let (n, m) := m.arriveReply dst g
      m.answer p (.status n)
    | none => m)

/-- A message is complete: its token is written and its send-queue entry is free (R183). -/
def Mach.messageDone (m : Mach) (c token n : Nat) : Mach :=
  (m.modCore c (fun r => { r with sendq := r.sendq - 1 })).resolve token n

/-- SEND_STATUS (R183): nothing happens while an earlier late result is bound for the token's word. -/
def execSendStatus (id : Nat) (s : State) : Host.Outcome State Fault Refusal :=
  s.onMach (fun m =>
    match m.arrivedReply id with
    | none => m
    | some r =>
      match r.body, (m.packet r.answers).map Packet.body with
      | .status n, some (.message _ token) =>
        if (m.findPend token).any m.behind then m
        else (m.settleReply r).messageDone r.core token n
      | _, _ => m)

end Sys2Proof.Machine
end

