-- ==== Sys2Proof/Machine/Closures.lean ====
section
/-!
DEFINITION. Closure instructions (R91 to R107): CAPT, CAPTR, APPLY, APPLYV, SPAWN, START, DUPK, DROPK, MOVK, KINFO, and
the messages by which a remote home performs them.
-/
namespace Sys2Proof.Machine

/-! ### Capture (R97, R98) -/

/-- The w registers from `b` on, `n` of them, read as operands. -/
def Mach.readRange (m : Mach) : Nat → Nat → Res (List Word)
  | _, 0 => .ok []
  | b, n + 1 =>
    match m.readW (BitVec.ofNat 5 b) with
    | .error e => .error e
    | .ok x => (m.readRange (b + 1) n).map (x :: ·)

/-- The 11 words written to a fresh closure frame. -/
def frameWords (entry ctl outer : Word) (caps : List Word) : List Word :=
  entry :: ctl :: outer :: (caps ++ List.replicate (8 - caps.length) 0)

/-- A control word. -/
def mkCtl (refs : Nat) (gen : BitVec 8) (once byref rt : Bool) (nm1 : Nat) (ogen : BitVec 8) : Word :=
  BitVec.ofNat 64 (refs + gen.toNat * 2 ^ 32 + (if once then 2 ^ 40 else 0) + (if byref then 2 ^ 41 else 0) +
    (if rt then 2 ^ 42 else 0) + nm1 * 2 ^ 43 + ogen.toNat * 2 ^ 56)

/-- The bytes of words from a key on. -/
def wordBytes (k : Nat) (ws : List Word) : List (Nat × Byte) :=
  ((List.range ws.length).zip ws).flatMap (fun p => bytesAt (k + 8 * p.1) 8 p.2.toNat)

/-- A closure captured into free frame `i` of core `c` (R95, R97): its handle. OUTER and OGEN are zero without `byref`, and word
88 of the frame stands. (log 69, DESIGN CHOICE) -/
def Mach.newClosure (m : Mach) (c i : Nat) (entry : Word) (once byref rt : Bool) (outer : Word) (ogen : BitVec 8)
    (caps : List Word) : Handle × Mach :=
  let k := m.envKey c i
  let g := if ctlGen (m.ctl k) = 0 then 1 else ctlGen (m.ctl k)
  (mkHandle c i g, m.storeScratch (wordBytes k (frameWords entry (mkCtl 1 g once byref rt (caps.length - 1) ogen) outer caps)))

/-- The entry that CAPT names (R97). -/
def Mach.captEntry (m : Mach) (f : BitVec 13) : Word := m.me.pc + 4 * signExtend 13 f

/-- CAPT and CAPTR (R97, R98); `n` is the count less one. -/
def Mach.capture (m : Mach) (k : BitVec 3) (b : BitVec 5) (n : BitVec 3) (once byref : Bool) (f : BitVec 13) : Res Mach := do
  let c := m.cur.core
  if 32 < b.toNat + n.toNat + 1 then .error { cause := .captureRange }
  let caps ← m.readRange b.toNat (n.toNat + 1)
  let frame := (m.core c).frameNo m.me.wp
  if byref && m.cur.ctx == 11 then .error { cause := .workspaceBounds }
  if byref && frame.any (fun i => Table.get (m.core c).pins i 0 == 65535) then .error { cause := .refcountOverflow }
  if let some k := m.badEnv c then .error { cause := .scratchUncorrectable, bad := lwOf k }
  match m.freeEnv c with
  | none => .error { cause := .envStoreFull }
  | some i =>
    let ogen := if byref then (frame.map (fun j => Table.get (m.core c).gens j 0)).getD 0 else 0
    let outer := if byref then BitVec.ofNat 64 m.me.wp else 0
    let (h, m) := m.newClosure c i (m.captEntry f) once byref m.me.rt outer ogen caps
    let m := match byref, frame with
      | true, some j => m.modCore c (fun r => { r with pins := Table.set r.pins j (Table.get r.pins j 0 + 1) })
      | _, _ => m
    .ok (m.writeK k h).done

/-- CAPT (R355, R97). -/
def execCapt (k : BitVec 3) (b : BitVec 5) (n : BitVec 3) (o : BitVec 1) (f : BitVec 13) (s : State) : Host.Outcome State Fault Refusal :=
  s.onMach (fun m => m.settle (m.capture k b n (o == 1) false f))

/-- CAPTR (R356, R98). -/
def execCaptr (k : BitVec 3) (b : BitVec 5) (n : BitVec 3) (o : BitVec 1) (f : BitVec 13) (s : State) : Host.Outcome State Fault Refusal :=
  s.onMach (fun m => m.settle (m.capture k b n (o == 1) true f))

/-! ### Arguments (R100) -/

def argsOf : List Word → Args
  | [x, y, z] => { w1 := x, w2 := y, w3 := z }
  | _ => { w1 := 0, w2 := 0, w3 := 0 }

/-- The words w[a] to w[a+2], no further than w31, are read, but for a = 0, whose arguments are zero (R100, R414, R417).
(log 44, DEDUCED) -/
def Mach.readArgs (m : Mach) (a : BitVec 5) : Res Args :=
  if a = 0 then .ok (argsOf []) else (m.readRange a.toNat (min 3 (32 - a.toNat))).map argsOf

/-- The arguments of APPLY, which reads the words for a = 0 too, whose arguments are zero all the same (R100, R339).
(log 44, DEDUCED) -/
def Mach.applyArgs (m : Mach) (a : BitVec 5) : Res Args :=
  (m.readRange a.toNat (min 3 (32 - a.toNat))).map (fun ws => argsOf (if a = 0 then [] else ws))

/-! ### APPLY (R339), APPLYV (R340) -/

/-- A local application at the oldest end of the own deque. (log 77, DESIGN CHOICE) -/
def Mach.applyHere (m : Mach) (c : Nat) (h : Handle) (args : Args) (rt : Bool) (tag : Option Nat) (t : Cause → Trap) : Res Mach :=
  match m.takeApp ((m.partOf c).getD 0) h rt with
  | .error e => .error (t e)
  | .ok m =>
    match m.pushOldest c { h := h, args := args, tag := tag } with
    | some m => .ok m
    | none => .error { cause := .helperExhausted }

/-- An apply message of context `x`, from the instruction at `pc`, takes its send-queue entry (R339). -/
def Mach.sendApply (m : Mach) (c x : Nat) (pc : Word) (h : Handle) (args : Args) : Mach :=
  let v := m.ctx c x
  (m.inject { id := 0, src := c, dst := hHome h, body := .apply h args v.rt v.tag, core := c, task := v.task, ctxs := [x],
              pc := pc }).modCore c (fun r => { r with sendq := r.sendq + 1 })

/-- An apply message of the issuing instruction. -/
def Mach.applyThere (m : Mach) (h : Handle) (args : Args) : Mach := m.sendApply m.cur.core m.cur.ctx m.me.pc h args

/-- APPLY, with `after` what follows (R339). -/
def Mach.applyOne (m : Mach) (k : BitVec 3) (a : BitVec 5) (after : Mach → Mach) : Mach :=
  let operands : Res (Handle × Args) := do
    let h ← m.readK k
    let args ← m.applyArgs a
    if 29 < a.toNat then .error { cause := .captureRange }
    if !m.inPart m.myPart (hHome h) then .error (handleTrap .partitionViolation h)
    .ok (h, args)
  match operands with
  | .error t => m.trapMe t
  | .ok (h, args) =>
    if hHome h = m.cur.core then
      m.settle ((m.applyHere m.cur.core h args m.me.rt m.me.tag (fun e => handleTrap e h)).map after)
    else if 16 ≤ (m.myCore).sendq then m.stay .sendSlot
    else after (m.applyThere h args)

/-- The task ends, or the control context goes on (R339, R369). -/
def Mach.endMe (m : Mach) : Mach := if m.cur.ctx = 0 then m.done else m.endTask m.cur.core m.cur.ctx

/-- APPLY (R339). -/
def execApply (k : BitVec 3) (a : BitVec 5) (s : State) : Host.Outcome State Fault Refusal :=
  s.onMach (fun m => m.applyOne k a Mach.done)

/-- APPLY.tail (R339): its marker has been waited for. -/
def execApplyTail (k : BitVec 3) (a : BitVec 5) (s : State) : Host.Outcome State Fault Refusal :=
  s.onMach (fun m => m.applyOne k a Mach.endMe)

/-- END (R369): its marker has been waited for. -/
def execEndTask (s : State) : Host.Outcome State Fault Refusal :=
  s.onMach Mach.endMe

/-- The trap of lane `i`: BADADDR[31:0] the handle, [35:32] the lane (R101). -/
def laneHandleTrap (i : Nat) (h : Handle) (e : Cause) : Trap :=
  { cause := e, bad := some (h.setWidth 64 + BitVec.ofNat 64 (i * 2 ^ 32)) }

/-- The arguments of lane `i` (R100). -/
def laneArgs (c i : Nat) : Args := { w1 := BitVec.ofNat 64 i, w2 := BitVec.ofNat 64 c, w3 := 0 }

/-- The applications of the lanes whose home is the own core, taken in lane order, each counting the earlier lanes' effects
(R102). -/
def Mach.takeLocal (m : Mach) (v : V) : List Nat → Res Mach
  | [] => .ok m
  | i :: t =>
    let h := lane v i
    if hHome h = m.cur.core then
      match m.takeApp m.myPart h m.me.rt with
      | .error e => .error (laneHandleTrap i h e)
      | .ok m => m.takeLocal v t
    else m.takeLocal v t

/-- Lanes of context `x` applied in lane order, their applications taken: those at the own core join its deque, and each
other waits for a send-queue entry of its own; the lanes still to come are left (R340). (log 77, DESIGN CHOICE) -/
def Mach.pushLanes (m : Mach) (c x : Nat) (pc : Word) : List (Handle × Args) → Mach × List (Handle × Args)
  | [] => (m, [])
  | (h, args) :: t =>
    if hHome h = c then
      match m.pushOldest c { h := h, args := args, tag := (m.ctx c x).tag } with
      | some m => m.pushLanes c x pc t
      | none => (m, (h, args) :: t)
    else if 16 ≤ (m.core c).sendq then (m, (h, args) :: t)
    else (m.sendApply c x pc h args).pushLanes c x pc t

/-- The lanes of an APPLYV whose checks against the partition have passed: every local lane is checked before any lane acts,
and a deque that cannot take them all raises HELPER_EXHAUSTED with no lane applied (R102, R340). (log 59, DESIGN CHOICE) -/
def Mach.applyLanes (m : Mach) (v : V) (lanes : List Nat) : Res Mach :=
  let c := m.cur.core
  let x := m.cur.ctx
  match m.takeLocal v lanes with
  | .error e => .error e
  | .ok t =>
    let todo := lanes.map (fun i => (lane v i, laneArgs c i))
    let fits := (t.pushLanes c x t.me.pc (todo.filter (fun l => hHome l.1 == c))).2.isEmpty
    if !fits then .error { cause := .helperExhausted }
    else
      match t.pushLanes c x t.me.pc todo with
      | (t, []) => .ok t.done
      | (t, left) => .ok (t.await (.lanes left))

/-- APPLYV (R340). -/
def execApplyv (v : BitVec 4) (m : BitVec 3) (s : State) : Host.Outcome State Fault Refusal :=
  s.onMach (fun k => k.vecOp none [v] m (fun k mask val =>
    match (activeLanes mask).find? (fun i => !k.inPart k.myPart (hHome (lane (val v) i))) with
    | some i => .error (laneHandleTrap i (lane (val v) i) .partitionViolation)
    | none => k.applyLanes (val v) (activeLanes mask)))

/-- The lanes of the APPLYVs that wait go on as far as they can (R340). -/
def Mach.moreLanes (m : Mach) : Mach :=
  m.ctxs.foldl (fun m e =>
    match e.2.wait with
    | .reply pc (.lanes todo) =>
      match m.pushLanes (e.1 / 16) (e.1 % 16) pc todo with
      | (m, []) => m.modCtx (e.1 / 16) (e.1 % 16) Ctx.waited
      | (m, left) => m.modCtx (e.1 / 16) (e.1 % 16) (fun v => { v with wait := .reply pc (.lanes left) })
    | _ => m) m

/-! ### Reference counts (R365) -/

/-- DUPK and DROPK. -/
def Mach.countRef (m : Mach) (k : BitVec 3) (op : HandleOp) (f : Mach → Nat → Handle → Except Cause Mach) : Mach :=
  m.settle (do
    let h ← m.readK k
    if !m.inPart m.myPart (hHome h) then .error (handleTrap .partitionViolation h)
    if hHome h = m.cur.core then
      match f m m.myPart h with
      | .error e => .error (handleTrap e h)
      | .ok m => .ok m.done
    else .ok ((m.request (hHome h) (.handle op h m.me.rt)).await .counted))

/-- DUPK (R365). -/
def execDupk (k : BitVec 3) (s : State) : Host.Outcome State Fault Refusal :=
  s.onMach (fun m => m.countRef k .dup Mach.dupRef)

/-- DROPK (R365). -/
def execDropk (k : BitVec 3) (s : State) : Host.Outcome State Fault Refusal :=
  s.onMach (fun m => m.countRef k .drop Mach.dropRef)

/-- MOVK from a w register (R393). -/
def execMovk (k : BitVec 3) (w : BitVec 5) (s : State) : Host.Outcome State Fault Refusal :=
  s.onMach (fun m => m.settle (do
    let x ← m.readW w
    .ok (m.writeK k (x.setWidth 32)).done))

/-- MOVK to a w register (R393). -/
def execMovkW (k : BitVec 3) (w : BitVec 5) (s : State) : Host.Outcome State Fault Refusal :=
  s.onMach (fun m => m.settle (do
    let h ← m.readK k
    .ok (m.writeW w (h.setWidth 64)).done))

/-- What KINFO reports of a handle (R382). -/
def Mach.handleInfo (m : Mach) (p : Nat) (h : Handle) (a : Nat := hHome h) : Nat :=
  match if hGen h = 0 then .error .staleHandle else m.live p h a with
  | .error e => e.code * 2 ^ 48
  | .ok (_, k) =>
    let w := m.ctl k
    2 ^ 63 + ctlRefs w * 2 ^ 32 + ctlFlight w * 2 ^ 16 + (ctlGen w).toNat * 2 ^ 8 + (if ctlRt w then 32 else 0) +
    (if ctlByref w then 16 else 0) + (if ctlOnce w then 8 else 0) + ctlNm1 w

/-- KINFO (R382). -/
def execKinfo (k : BitVec 3) (d : BitVec 5) (s : State) : Host.Outcome State Fault Refusal :=
  s.onMach (fun m => m.settle (do
    let h ← m.readK k
    if !m.inPart m.myPart (hHome h) then .error (handleTrap .partitionViolation h)
    if hHome h = m.cur.core || hGen h = 0 then .ok (m.late (m.lateW d) (.value (m.handleInfo m.myPart h) 0)).done
    else
      let id := m.nextId
      let m := m.request (hHome h) (.handle .info h m.me.rt)
      .ok (m.late (m.lateW d) (.parts { wait := [(0, 8, id)], size := 8 })).done))

/-! ### SPAWN (R414) -/

/-- The deque cannot take an entry at its newest end (R80). -/
def Mach.spawnFull (m : Mach) (c : Nat) : Bool := decide (64 ≤ (m.core c).deque.length) && (m.freeFrame c).isNone

/-- SPAWN (R414). -/
def execSpawn (k : BitVec 3) (a : BitVec 5) (s : State) : Host.Outcome State Fault Refusal :=
  s.onMach (fun m => m.settle (do
    let c := m.cur.core
    let h ← m.readK k
    if 29 < a.toNat then .error { cause := .captureRange }
    let args ← m.readArgs a
    if m.spawnFull c then .error { cause := .helperExhausted }
    if !m.inPart m.myPart (hHome h) then .error (handleTrap .partitionViolation h)
    if hHome h = c then
      match m.takeApp m.myPart h m.me.rt with
      | .error e => .error (handleTrap e h)
      | .ok m =>
        match m.pushNewest c { h := h, args := args, tag := m.me.tag } with
        | some m => .ok m.done
        | none => .error { cause := .helperExhausted }
    else .ok ((m.request (hHome h) (.handle .take h m.me.rt)).await (.spawn h args))))

/-! ### START (R417) -/

/-- The helper and frame reserved by a START: the helper is live and issues nothing. -/
def Mach.reserve (m : Mach) (c x i : Nat) : Mach :=
  ((m.takeFrame c i).modCtx c x (fun v => { v with live := true, task := m.nextId, wait := .reply 0 .counted })).fresh

/-- The reservation given up. -/
def Mach.unreserve (m : Mach) (c x i : Nat) : Mach :=
  (m.modCtx c x (endedCtx x)).modCore c (fun r => { r with used := eraseNat r.used i })

/-- START (R417): the helper and the frame are the lowest free ones. -/
def Mach.startNow (m : Mach) (now : Nat) (k : BitVec 3) (a : BitVec 5) : Res Mach := do
  let c := m.cur.core
  let h ← m.readK k
  let args ← m.readArgs a
  if m.cur.ctx ≠ 0 then .error { cause := .privileged }
  if 29 < a.toNat then .error { cause := .captureRange }
  match m.freeHelper c, m.freeFrame c with
  | some x, some i =>
    if !m.inPart m.myPart (hHome h) then .error (handleTrap .partitionViolation h)
    else if hHome h = c then
      match m.takeApp m.myPart h m.me.rt with
      | .error e => .error (handleTrap e h)
      | .ok m => .ok (((m.takeFrame c i).startTask now c x ((m.core c).frameAt i) { h := h, args := args }).done)
    else .ok (((m.reserve c x i).request (hHome h) (.handle .take h m.me.rt)).await (.start h args x i))
  | _, _ => .error { cause := .helperExhausted }

/-- START (R417). -/
def execStart (k : BitVec 3) (a : BitVec 5) (s : State) : Host.Outcome State Fault Refusal :=
  s.onMach (fun m => m.settle (m.startNow s.now k a))

/-! ### Homes (R101, R107) -/

/-- The apply message next on a pair channel is checked and queued at the core it has reached (R101, R339). Nothing happens
while the deque cannot take it. -/
def Mach.applyArrives (m : Mach) (p : Packet) (h : Handle) (args : Args) (rt : Bool) (tag : Option Nat) : Mach :=
  let c := p.dst
  if m.isFenced c then m.answer p (.failed .applyTargetFenced false)
  else
    let part := (m.partOf p.core).getD 0
    match m.takeApp part h rt c with
    | .error e => (m.complainHandle c e h p.core).answer p .ack
    | .ok t =>
      match t.pushOldest c { h := h, args := args, tag := tag } with
      | some t => t.answer p .ack
      | none => m

/-- APPLY_MESSAGE (R101). -/
def execApplyMessage (src dst : Nat) (s : State) : Host.Outcome State Fault Refusal :=
  s.onMach (fun m =>
    match m.next src dst false with
    | some p =>
      match p.body with
      | .apply h args rt tag => m.applyArrives p h args rt tag
      | _ => m
    | none => m)

end Sys2Proof.Machine
end

