-- ==== Sys2Proof/Machine/Turns.lean ====
section
/-!
DEFINITION. The turns that are neither a core cycle nor an operation of the table, and the placing of one instruction
word where core 0 fetches next.
-/
namespace Sys2Proof.Machine

/-- A list without its `n`-th element. (log 12, DESIGN CHOICE) -/
def dropNth {α : Type} (l : List α) (n : Nat) : List α := l.take n ++ l.drop (n + 1)

/-- A core's bank takes a corrected symbol error; the 16th within one TIMEBASE millisecond marks it failed (R137). -/
def Mach.corrected (m : Mach) (now c b : Nat) : Mach :=
  let ms := now / 1000000
  m.modCore c (fun r =>
    let n := ((r.corrections.find? (fun e => e.1 == b && e.2.1 == ms)).map (·.2.2)).getD 0 + 1
    { r with corrections := (b, ms, n) :: r.corrections.filter (fun e => e.1 != b),
             failed := if 16 ≤ n then insertNat r.failed b else r.failed })

/-- The LW offsets of the words of a list of extents, in order. -/
def extentWords (xs : List (Nat × Nat)) : List Nat := xs.flatMap (fun x => (List.range (x.2 / 8)).map (fun i => x.1 + 8 * i))

/-- One scratchpad word copied to the same LW offset at another core, with its full/empty bit and its check symbols (R259). -/
def Mach.copyWord (m : Mach) (c d off : Nat) : Mach :=
  let src := scratchKey c off
  let dst := scratchKey d off
  let m1 := m.write dst 8 (m.read src 8)
  { (if m.full src then m1.fill dst else m1.empty dst) with
    scratchBad := if m.scratchBad.contains src then insertNat m.scratchBad dst else eraseNat m.scratchBad dst }

/-- The oldest migration of a core whose forwarding entry is still to come, and that migration changed or gone. -/
def Mach.migrating (m : Mach) (c : Nat) : Option Migration := (m.core c).migrations.find? (fun g => g.held.isNone)
def Mach.modMigration (m : Mach) (c token : Nat) (f : Migration → Migration) : Mach :=
  m.modCore c (fun r => { r with migrations := r.migrations.map (fun g => if g.token = token then f g else g) })
def Mach.dropMigration (m : Mach) (c token : Nat) : Mach :=
  m.modCore c (fun r => { r with migrations := r.migrations.filter (fun g => g.token != token) })

/-- The streamer copies the next `n` words of a core's oldest migration (R259, R390). (log 21, DEDUCED) -/
def Mach.copyWords (m : Mach) (c n : Nat) : Mach :=
  match m.migrating c with
  | none => m
  | some g =>
    let m := m.settleOwn c
    let ws := ((extentWords g.fwd.extents).drop g.copied).take n
    if m.isFenced g.fwd.dest then m
    else (ws.foldl (fun m o => m.copyWord c g.fwd.dest o) m).modMigration c g.token (fun g => { g with copied := g.copied + ws.length })

/-- A unit of a partition invalidates its leaves for an invalidation and acknowledges it; the last acknowledgement ends the
wait (R421). Units are endpoint numbers, with the TLB of cluster n at 2,048 + n. (log 41, DEDUCED) -/
def Mach.invalidate (m : Mach) (id unit : Nat) : Mach :=
  match m.invals.find? (fun v => v.id == id && v.todo.contains unit) with
  | none => m
  | some v =>
    let keep (l : Leaf) : Bool := match v.va with | some a => !l.covers a | none => false
    let m := if unit < 1024 then m.modCore unit (fun r => { r with tlb := r.tlb.filter keep, icache := [] })
      else if 2048 ≤ unit then m.modCluster (unit - 2048) (fun r => { r with tlb := r.tlb.filter keep })
      else m
    let todo := v.todo.filter (· != unit)
    let m := { m with invals := if todo.isEmpty then m.invals.filter (fun x => x.id != id)
                                else m.invals.map (fun x => if x.id = id then { x with todo := todo } else x) }
    if todo.isEmpty then
      m.modTask v.core v.task (fun x => match x.wait with
        | .reply _ (.inval n) => if n = id then x.waited else x
        | _ => x)
    else m

/-- A pending MSI-X vector is signalled unless its table entry masks it: bit 32 of the entry's second word (R274).
(log 34, DEDUCED) -/
def Part.interrupt (x : Part) (v : Nat) : Part :=
  if x.msix.contains v && !(x.msixTable.getD (2 * v + 1) 0).getLsbD 32 then
    { x with msix := eraseNat x.msix v, signalled := x.signalled ++ [v] }
  else x

/-- The count after `ns` nanoseconds: it passes no tick at which Isobar has yet to act, and runs at most 100 ns past an apply
tick of a collective that has yet to be applied (R262, R268, R442). (log 12, DESIGN CHOICE) -/
def State.elapsed (s : State) (ns : Nat) : Nat :=
  let t := min (s.now + ns) (max s.now (10000 * (s.power.ticked + 1)))
  if s.power.collective then min t (max s.now (10000 * (s.power.lastTick + 1) + 100)) else t

/-- A member's report reaches its leader (R268). (log 65, DESIGN CHOICE) -/
def Power.report (p : Power) (peer duty clock : Nat) : Power :=
  if p.collective && p.leader && p.members.contains peer && decide (1 ≤ duty) && decide (duty ≤ 16) then
    { p with reports := p.reports.filter (fun r => r.1 != peer) ++ [(peer, duty, clock)] }
  else p

/-- The effect of a turn other than `cycle`, `event` and `manage`. (log 12, DESIGN CHOICE; log 23, DESIGN CHOICE) -/
def State.turned (s : State) (t : Turn) : State :=
  match t with
  | .elapse ns => { s with m := { s.m with now := s.elapsed ns } }
  | .report n d c => { s with power := s.power.report n d c }
  | .evictL1 c n => { s with m := s.m.modCore c (fun r => { r with l1 := dropNth r.l1 n }) }
  | .evictTlb c n => { s with m := s.m.modCore c (fun r => { r with tlb := dropNth r.tlb n }) }
  | .evictClusterTlb c n => { s with m := s.m.modCluster c (fun r => { r with tlb := dropNth r.tlb n }) }
  | .evictIcache c n => { s with m := s.m.modCore c (fun r => { r with icache := dropNth r.icache n }) }
  | .spoilHbm pa => { s with m := { s.m with hbmBad := insertNat s.m.hbmBad (lineOf pa) } }
  | .spoilL2 pa => { s with m := { s.m with l2Bad := insertNat s.m.l2Bad (lineOf pa) } }
  | .spoilFrame pa => { s with m := { s.m with frameBad := insertNat s.m.frameBad (lineOf pa) } }
  | .farPoison pa =>
    if regionType pa == 1 || regionType pa == 2 then { s with m := { s.m with poisoned := insertNat s.m.poisoned (lineOf pa) } } else s
  | .farWrite pa bs =>
    if (regionType pa == 1 || regionType pa == 2) && regionType (pa + bs.length) == regionType pa then
      { s with m := { s.m with mem := Mem.writeAll s.m.mem ((List.range bs.length).zip bs |>.map (fun b => (pa + b.1, b.2))) } }
    else s
  | .peerPerform n => { s with m := s.m.peerPerform n }
  | .dropCopy n l => { s with m := s.m.dropCopy n l }
  | .takeMap u d => if (decide (u < 1024) || (decide (1152 ≤ u) && decide (u < 1156))) && decide (d < 4) then { s with m := s.m.takeMap u d } else s
  | .invalidate id u => { s with m := s.m.invalidate id u }
  | .arrayCycles cl n => { s with m := s.m.modCluster cl (fun r => { r with cycles := r.cycles + n }) }
  | .performStore c => { s with m := s.m.performOwn c 1 }
  | .copyWords c n => { s with m := s.m.copyWords c n }
  | .interrupt p v => { s with m := s.m.modPart p (fun x => x.interrupt v) }
  | .msixWrite p n v => { s with m := s.m.modPart p (fun x => { x with msixTable := x.msixTable.set n v }) }
  | .spoilWord k => { s with m := { s.m with scratchBad := insertNat s.m.scratchBad (wordOf k) } }
  | .spoilL1 c n =>
    match (s.m.core c).l1[n]? with
    | some l => { s with m := { s.m with l1Bad := s.m.l1Bad ++ [(c, l.line)] } }
    | none => s
  | .correct c b => { s with m := s.m.corrected s.now c b }
  | .hostRing p b t => { s with m := s.m.modPart p (fun x => { x with hostBase := b, hostTail := t % 2 ^ 32 }) }
  | .cycle _ => s
  | .event _ => s
  | .manage _ => s

/-- Whether an operation of the table is one that an agent other than a context makes. (log 2, DESIGN CHOICE) -/
def agentEvent (i : Instr) : Bool :=
  !i.isWord && (match i with
    | .wpWrite _ => false
    | .carveWrite _ => false
    | .bankfmtWrite _ _ => false
    | .envcfgWrite _ => false
    | .wspoolWrite _ => false
    | .chcfgWrite _ _ => false
    | .fpmodeWrite _ => false
    | .fpflagsWrite _ => false
    | .foldstatWrite _ => false
    | .stealdomWrite _ => false
    | .brcfgWrite _ => false
    | .partcfgWrite _ => false
    | .fetchFault _ _ => false
    | .illegalEncoding _ => false
    | .taskOverrun _ _ => false
    | .deferredTaskOverrun _ _ => false
    | _ => true)

/-- The virtual and physical address at which `State.withFetchWord` places a word, and the leaf that maps it.
(log 5, DESIGN CHOICE) -/
def bootAddr : Nat := 0x10000
/-- The leaf that maps it. (log 5, DESIGN CHOICE) -/
def bootLeaf : Leaf := { va := bootAddr, size := 4096, pte := BitVec.ofNat 64 (bootAddr + 0x1D) }

/-- The page of the partition control block that gives core 0's partition all of HBM. (log 5, DESIGN CHOICE) -/
def bootPcb : Nat := 0x20

/-- A machine in which core 0 runs in a partition and its control context fetches the word of `w` next.
(log 5, DESIGN CHOICE) -/
def Mach.placeWord (m : Mach) (w : Nat) : Mach :=
  let line := lineOf bootAddr
  let task := (m.ctx 0 0).task
  let m := if (m.partOf 0).isSome then m else m.modPart 0 (fun p => { p with rows := p.rows ||| 1 })
  let p := (m.partOf 0).getD 0
  let m := m.modPart p (fun x => { x with state := .running })
  let m := if m.inHbm p bootAddr then m
    else { m.modPart p (fun x => { x with pcb := bootPcb }) with
           mem := Mem.write (Mem.write m.mem (bootPcb * 4096 + 40) 8 0) (bootPcb * 4096 + 48) 8 hbmEnd }
  let m := { m with mem := Mem.write m.mem bootAddr 4 w, bands := m.bands.set 0 0,
                    hbmBad := eraseNat m.hbmBad line, poisoned := eraseNat m.poisoned line, l2Bad := eraseNat m.l2Bad line,
                    slices := m.slices.map (fun (e : Nat × Slice) => (e.1, { e.2 with unwritten := eraseNat e.2.unwritten line })),
                    pends := m.pends.filter (fun q => !(q.core == 0 && q.task == task)) }
  let m := m.modCore 0 (fun r => { r with tlb := [bootLeaf], icache := [], last := 10, off := false, fenced := false })
  let m := m.modCtx 0 0 (fun v => { v with pc := BitVec.ofNat 64 bootAddr, wait := .none })
  m.modCtx 0 11 (fun v => { v with live := false })

end Sys2Proof.Machine
end

