-- ==== Sys2Proof/Machine/Brumation.lean ====
section
/-!
DEFINITION. Parking on absent blocks: AWAIT, AWAITV, BPROBE, and the slices' directory, stages, wakes, evictions and
reports (R108 to R128).
-/
namespace Sys2Proof.Machine

/-! ### BRCFG as a slice sees it (R31, R110) -/

def Mach.sliceBrcfg (m : Mach) (s p : Nat) : Word := Table.get (m.slice s).brcfg p (m.diePart (s / 32) p).brcfg

def brPool (w : Word) : Nat := field w 0 9
def brPatience (w : Word) : Nat := field w 16 16
def brAgeShift (w : Word) : Nat := field w 32 4
def brLinger (w : Word) : Nat := field w 36 16
/-- WAITMAX, in units of 65,536 slice cycles (R110, R129). (log 56, DEDUCED) -/
def brWaitMax (w : Word) : Nat := field w 52 12

/-! ### The directory (R112, R114) -/

def Mach.findBlock (m : Mach) (s base : Nat) : Option Block := m.blocks.find? (fun b => b.slice == s && b.base == base)
def Mach.dropBlock (m : Mach) (s base : Nat) : Mach :=
  { m with blocks := m.blocks.filter (fun b => !(b.slice == s && b.base == base)) }

def Mach.dirFull (m : Mach) (s : Nat) : Bool := decide (4096 ≤ (m.blocks.filter (fun b => b.slice == s)).length)
def Mach.listFull (m : Mach) (s : Nat) : Bool :=
  decide (32768 ≤ ((m.blocks.filter (fun b => b.slice == s)).map (fun b => b.queue.length)).foldl (· + ·) 0)

/-- Age of a waiter in age units (R110). (log 56, DEDUCED) -/
def Mach.ageOf (m : Mach) (s : Nat) (w : Waiter) : Nat := min 65535 (((m.slice s).cycles - w.since) / 1024)

/-- Eviction begins (R114). -/
def Block.evict (b : Block) : Block := { b with state := .evicting }

/-- Whether a block's frame has units that the partition's pool no longer has (R111). -/
def Mach.beyondPool (m : Mach) (b : Block) : Bool :=
  match b.unit with
  | some u => decide (brPool (m.sliceBrcfg b.slice b.part) < u + b.size / 0x4000)
  | none => false

/-- Whether a queue of a partition other than that of block `base` is QUEUED at a slice. -/
def Mach.otherQueued (m : Mach) (s p base : Nat) : Bool :=
  m.blocks.any (fun b => b.slice == s && b.part == p && b.base != base && b.state == .queued)

/-- Frames that linger give way once another queue of the partition is QUEUED (R114). -/
def Mach.unlinger (m : Mach) (s p : Nat) : Mach :=
  if m.blocks.any (fun b => b.slice == s && b.part == p && b.state == .queued) then
    { m with blocks := m.blocks.map (fun b => if b.slice = s && b.part = p && b.state == .lingering then b.evict else b) }
  else m

/-- A block becomes QUEUED. -/
def Mach.queueBlock (m : Mach) (s base p : Nat) : Mach :=
  (m.modBlock s base (fun b => { b with state := .queued })).unlinger s p

/-- A pin is given back (R114, R125). -/
def Mach.pinDown (m : Mach) (s base : Nat) : Mach :=
  match m.findBlock s base with
  | none => m
  | some b =>
    let next : BlockState :=
      if 1 < b.pins then b.state
      else if b.leaving || m.beyondPool b || m.otherQueued s b.part base then .evicting
      else .lingering
    m.modBlock s base (fun b => { b with pins := b.pins - 1, state := if b.state == .resident then next else b.state,
                                         lingerFrom := (m.slice s).cycles })

/-! ### Reports (R127) -/

/-- A report's effect: the flight becomes a reference at the handle's home, at once, and the entry, with the handle, the AWAIT's
address and the parking core, goes to the fault queue of die `d`. (log 37, DEDUCED) -/
def Mach.reported (m : Mach) (d cause : Nat) (w : Waiter) : Mach :=
  let p := (m.partOf w.core).getD 0
  let (e, m) := m.flightToRef p w.h
  let code := if e = some .refcountOverflow then Cause.refcountOverflow.code else cause
  m.post d p { cause := code, core := w.core, bad := w.va, pc := BitVec.ofNat 64 (w.h.toNat + w.core * 2 ^ 32) }

/-- A waiter removed without a wake is reported: to its parking core, or to the slice's own die if that core is fenced. -/
def Mach.report (m : Mach) (s : Nat) (cause : Cause) (w : Waiter) : Mach :=
  if m.isFenced w.core then m.reported (s / 32) cause.code w
  else m.inject { id := 0, src := sliceEnd s, dst := w.core, body := .report cause.code w, core := w.core }

def Mach.reportAll (m : Mach) (s : Nat) (cause : Cause) (ws : List Waiter) : Mach :=
  ws.foldl (fun m w => m.report s cause w) m

/-- WAITER_REPORT (R127). -/
def execWaiterReport (src dst : Nat) (s : State) : Host.Outcome State Fault Refusal :=
  s.onMach (fun m =>
    match m.next src dst false with
    | some p =>
      match p.body with
      | .report cause w => (m.reported (if m.isFenced dst then (src - 1024) / 32 else dieOfCore dst) cause w).answer p .ack
      | _ => m
    | none => m)

/-! ### Addresses that AWAIT and BPROBE take (R118) -/

/-- The check of the class (R118). -/
def parkClass (va : Word) : Res Unit :=
  if isGv va then .ok ()
  else if isLw va || isCg va || isFa va then .error { cause := .pageAttrConflict, bad := va }
  else .error { cause := .addressClass, bad := va }

/-- The class and translation of an address: its physical address and its page entry, and the machine with its TLBs; none
where the walk met bad data, and the access has an error reply (R134, R144). -/
def Mach.parkXlate (m : Mach) (va : Word) : Res (Option (Nat × Word) × Mach) :=
  match parkClass va with
  | .error e => .error e
  | .ok () =>
    match m.translate m.cur.core va.toNat .load with
    | .error e => if e.entry.isSome then .ok (none, m.walkReply va e) else .error (e.trap va)
    | .ok (pa, pte, m) => .ok (some (pa, pte), m)

/-- The page must be parkable (R118). -/
def needPk (va pte : Word) : Res Unit := if ptePk pte then .ok () else .error { cause := .pageAttrConflict, bad := va }

/-- The block of a physical address: its base, size and home slice. -/
def Mach.blockOf (m : Mach) (pa : Nat) (pte : Word) : Nat × Nat × Nat :=
  let s := pteBlock pte
  (pa - pa % s, s, m.sliceFor m.cur.core pa s)

/-! ### AWAIT and AWAITV (R118, R119) -/

/-- A lane: its number, handle and address, and its block's base, size and home slice. -/
abbrev ParkLane := Nat × Handle × Word × Nat × Nat × Nat

/-- The trap of a lane whose application fails (R101). -/
def laneFail (lane : Bool) (l : ParkLane) (e : Cause) : Trap :=
  if lane then laneHandleTrap l.1 l.2.1 e else handleTrap e l.2.1

/-- Applications taken at the own core in lane order, up to the first lane whose home is another core. -/
def Mach.takeLanes (m : Mach) (c : Nat) (rt lane : Bool) : List ParkLane → Res (Mach × List ParkLane)
  | [] => .ok (m, [])
  | l :: t =>
    let p := (m.partOf c).getD 0
    if !m.inPart p (hHome l.2.1) then .error (laneFail lane l .partitionViolation)
    else if hHome l.2.1 = c then
      match m.takeApp p l.2.1 rt with
      | .error e => .error (laneFail lane l e)
      | .ok m => m.takeLanes c rt lane t
    else .ok (m, l :: t)

/-- An application returned to its handle's home (R118). -/
def Mach.returnApp (m : Mach) (c task : Nat) (h : Handle) : Mach :=
  if hHome h = c then m.untakeApp ((m.partOf c).getD 0) h c
  else m.inject { id := 0, src := c, dst := hHome h, body := .handle .giveBack h true, core := c, task := task }

def Mach.returnApps (m : Mach) (c task : Nat) (ls : List ParkLane) : Mach :=
  ls.foldl (fun m l => m.returnApp c task l.2.1) m

/-- The park request of the first lane left; with none left, the task ends if a lane parked, unless it is the control context:
no result is outstanding for it (R63). -/
def Mach.parkNext (m : Mach) (c x task : Nat) (pc : Word) (lane parked : Bool) : List ParkLane → Mach
  | [] =>
    if parked && x != 0 then m.endTask c x else m.modCtx c x Ctx.waited
  | l :: t =>
    let (_, h, va, base, size, slice) := l
    let m := m.inject { id := 0, src := c, dst := sliceEnd slice, core := c, task := task, ctxs := [x], pc := pc,
                        body := .park h va base size ((m.partOf c).getD 0) (m.ctx c x).tag }
    m.modCtx c x (fun v => { v with wait := .reply pc (.park lane (l :: t) parked) })

/-- The applications of lanes `todo` of `all` are taken; when all are, the park requests begin. -/
def Mach.takeNext (m : Mach) (c x task : Nat) (pc : Word) (lane : Bool) (todo all : List ParkLane) : Mach :=
  match todo with
  | [] => m.parkNext c x task pc lane false all
  | l :: _ =>
    let m := m.inject { id := 0, src := c, dst := hHome l.2.1, core := c, task := task, ctxs := [x], pc := pc,
                        body := .handle .take l.2.1 (m.ctx c x).rt }
    m.modCtx c x (fun v => { v with wait := .reply pc (.take lane todo all) })

/-- The lanes applied and parked, after the stores combined before (R153). -/
def Mach.parkLanes (m : Mach) (lane : Bool) (ls : List ParkLane) : Res Mach :=
  let c := m.cur.core
  let pc := m.me.pc
  match m.takeLanes c m.me.rt lane ls with
  | .error t => .error t
  | .ok (m, rest) => .ok ((m.drainAll c).done.takeNext c m.cur.ctx m.me.task pc lane rest ls)

/-- Whether a context has gone on to the application and park of an AWAIT or AWAITV. -/
def Ctx.parking (v : Ctx) : Bool :=
  match v.wait with
  | .reply _ (.take _ _ _) => true
  | .reply _ (.park _ _ _) => true
  | _ => false

/-- The implicit marker of AWAIT and AWAITV: one that goes on to its park in `t`, and whose context has a late result
outstanding, has not issued yet, and waits; one that traps or parks nothing does not (R63, R342, R343). (log 44, DEDUCED) -/
def Mach.parksAfter (m t : Mach) : Mach :=
  if t.me.parking && m.outstanding m.cur.core m.me.task then m.stay .marker else t

/-- AWAIT (R342, R118); one that has an error reply applies nothing (R134). (log 73, DEDUCED) -/
def execAwait (k : BitVec 3) (a : BitVec 5) (s : State) : Host.Outcome State Fault Refusal :=
  s.onMach (fun m => m.parksAfter (m.settle (do
    let va ← m.readW a
    let h ← m.readK k
    match ← m.parkXlate va with
    | (none, m) => .ok m.done
    | (some (pa, pte), m) =>
      needPk va pte
      m.parkLanes false [(0, h, va, m.blockOf pa pte)])))

/-- The lanes of AWAITV translated in lane order, less those that have an error reply (R119, R134). (log 73, DEDUCED) -/
def Mach.xlateLanes (m : Mach) (x : Word) (hs vs : V) : List Nat → Res (List (ParkLane × Word) × Mach)
  | [] => .ok ([], m)
  | i :: t =>
    let va := x + (lane vs i).signExtend 64
    match m.parkXlate va with
    | .error e => .error e
    | .ok (r, m) =>
      match m.xlateLanes x hs vs t with
      | .error e => .error e
      | .ok (ls, m) => .ok ((match r with | some (pa, pte) => [((i, lane hs i, va, m.blockOf pa pte), pte)] | none => []) ++ ls, m)

/-- AWAITV (R343, R119). -/
def execAwaitv (v : BitVec 4) (a : BitVec 5) (b : BitVec 4) (m : BitVec 3) (s : State) : Host.Outcome State Fault Refusal :=
  s.onMach (fun k => k.parksAfter (k.vecOp none [v, b] m (fun k mask val => do
    let x ← k.readW a
    let (ls, k) ← k.xlateLanes x (val v) (val b) (activeLanes mask)
    match ls.find? (fun l => !ptePk l.2) with
    | some l => .error { cause := .pageAttrConflict, bad := l.1.2.2.1 }
    | none => if mask = 0 then .ok k.done else k.parkLanes true (ls.map (·.1))) [a]))

/-- BPROBE (R354, R120), after the stores combined before (R153). (log 73, DEDUCED) -/
def execBprobe (d a : BitVec 5) (s : State) : Host.Outcome State Fault Refusal :=
  s.onMach (fun m => m.settle (do
    let va ← m.readW a
    match ← m.parkXlate va with
    | (none, m) => .ok (m.late (m.lateW d) (.value 0 0)).done
    | (some (pa, pte), m) =>
      needPk va pte
      let (base, size, slice) := m.blockOf pa pte
      let m := m.drainAll m.cur.core
      let id := m.nextId
      let m := m.request (sliceEnd slice) (.probe base size m.myPart)
      .ok (m.late (m.lateW d) (.parts { wait := [(0, 8, id)], size := 8 })).done))

/-! ### Park requests and probes at the slice (R118, R120) -/

/-- A park request at its slice: outcome 0 APPLIED, 1 PARKED, 2 refused with a cause. -/
def Mach.park (m : Mach) (s : Nat) (w : Waiter) (base size p : Nat) : (Nat × Cause) × Mach :=
  if m.outOfRange p base then ((2, .partitionViolation), m)
  else if brPool (m.sliceBrcfg s p) = 0 then ((2, .brumFramePoolZero), m)
  else
    match m.findBlock s base with
    | some b =>
      if b.served then
        if b.pins = 2 ^ 24 - 1 then ((2, .brumWaitlistFull), m)
        else
          ((0, .illegalEncoding),
           (m.modBlock s base (fun b => { b with pins := b.pins + 1, state := .resident })).modSlice s
             (fun x => { x with wakes := x.wakes ++ [(base, w)] }))
      else if m.listFull s then ((2, .brumWaitlistFull), m)
      else ((1, .illegalEncoding), m.modBlock s base (fun b => { b with queue := b.queue ++ [w] }))
    | none =>
      if m.dirFull s then ((2, .brumDirFull), m)
      else if m.listFull s then ((2, .brumWaitlistFull), m)
      else ((1, .illegalEncoding),
            ({ m with blocks := m.blocks ++ [{ slice := s, base := base, size := size, part := p, queue := [w] }] } : Mach).unlinger s p)

/-- PARK_REQUEST (R118); a retired slice answers a remap reply (R149). -/
def execParkRequest (src dst : Nat) (s : State) : Host.Outcome State Fault Refusal :=
  s.onMach (fun m =>
    match m.next src dst false with
    | some p =>
      match p.body with
      | .park h va base size part tag =>
        let sl := dst - 1024
        if (m.slice sl).retired then m.answer p (m.remapBody dst)
        else
          let w : Waiter := { h := h, core := p.core, va := va, since := (m.slice sl).cycles, tag := tag, order := m.nextId }
          let (r, m) := m.fresh.park sl w base size part
          m.answer p (.parked r.1 r.2)
      | _ => m
    | none => m)

/-- The code of a block's state (R120). -/
def BlockState.code : BlockState → Nat
  | .queued => 1 | .staging => 2 | .resident => 3 | .lingering => 4 | .evicting => 5

/-- What BPROBE reads. -/
def Mach.probe (m : Mach) (s base : Nat) : Nat :=
  s * 2 ^ 48 +
  (match m.findBlock s base with
   | none => 0
   | some b =>
     (match b.queue with | w :: _ => min 255 (m.ageOf s w) | [] => 0) * 2 ^ 40 + min 65535 b.pins * 2 ^ 24 +
     b.queue.length % 65536 * 2 ^ 8 + b.state.code)

/-- BLOCK_PROBE (R120). -/
def execBlockProbe (src dst : Nat) (s : State) : Host.Outcome State Fault Refusal :=
  s.onMach (fun m =>
    match m.next src dst false with
    | some p =>
      match p.body with
      | .probe base _ part =>
        if (m.slice (dst - 1024)).retired then m.answer p (m.remapBody dst)
        else if m.outOfRange part base then m.answer p (.failed .partitionViolation false)
        else m.answer p (.data (m.probe (dst - 1024) base))
      | _ => m
    | none => m)

/-! ### Stages (R122 to R124) -/

/-- The oldest waiter's enqueue time, and the weight of a queue (R122). -/
def Block.oldest (b : Block) : Nat := match b.queue with | w :: _ => w.since | [] => 0
def Mach.weight (m : Mach) (b : Block) : Nat :=
  b.queue.length + (match b.queue with | w :: _ => m.ageOf b.slice w | [] => 0) / 2 ^ brAgeShift (m.sliceBrcfg b.slice b.part)

/-- Whether `a` is chosen before `b` (R122). (log 57, DESIGN CHOICE) -/
def Mach.chosenBefore (m : Mach) (a b : Block) : Bool :=
  let old (x : Block) : Bool := match x.queue with
    | w :: _ => decide (brPatience (m.sliceBrcfg x.slice x.part) ≤ m.ageOf x.slice w)
    | [] => false
  if old a != old b then old a
  else if !old a && m.weight a != m.weight b then decide (m.weight b < m.weight a)
  else if a.oldest != b.oldest then decide (a.oldest < b.oldest)
  else decide (a.base < b.base)

/-- The chosen queue of a partition at a slice; none in a partition that is saved, whose queues wait for its restoration
(R257). (log 26, DESIGN CHOICE) -/
def Mach.chosen (m : Mach) (s p : Nat) : Option Block :=
  (m.blocks.filter (fun b => b.slice == s && b.part == p && b.state == .queued && (m.part p).state != .saved)).foldl
    (fun best b => match best with
      | some a => if m.chosenBefore b a then some b else some a
      | none => some b) none

/-- The first free run of a partition's units at a slice, aligned to the block's size (R122). (log 57, DESIGN CHOICE) -/
def Mach.freeRun (m : Mach) (s p size : Nat) : Option Nat :=
  let n := size / 0x4000
  let pool := brPool (m.sliceBrcfg s p)
  let taken (u : Nat) : Bool :=
    m.blocks.any (fun b => b.slice == s && b.part == p && (match b.unit with
      | some v => decide (v < u + n) && decide (u < v + b.size / 0x4000)
      | none => false))
  ((List.range (pool / n)).map (· * n)).find? (fun u => !taken u)

/-- STAGE (R122): nothing happens while no run fits, or while a retired slice still holds the block's frame. -/
def execStage (slice part : Nat) (s : State) : Host.Outcome State Fault Refusal :=
  s.onMach (fun m =>
    match m.chosen slice part with
    | none => m
    | some b =>
      if m.blocks.any (fun x => x.base == b.base && x.slice != b.slice) then m
      else match m.freeRun slice part b.size with
        | none => m
        | some u => m.modBlock slice b.base (fun b => { b with state := .staging, unit := some u }))

/-- Lines of a block. -/
def blockLines (base size : Nat) : List Nat := (List.range (size / 128)).map (fun i => base / 128 + i)

/-- Whether the read of a stage fails (R128, R144). -/
def Mach.stageFails (m : Mach) (base size : Nat) : Bool :=
  m.peerGone base ||
  (m.poisoned ++ m.hbmBad ++ m.l2Bad).any (fun l => decide (base / 128 ≤ l) && decide (l < (base + size) / 128))

/-- Whether the lines of a block wait for a retired slice's writeback or for stores that slices have yet to perform at a peer,
or their stack's traffic is held (R148, R167, R269). (log 36, DEDUCED) -/
def Mach.blockHeld (m : Mach) (base size : Nat) : Bool :=
  let inside (l : Nat) : Bool := decide (base / 128 ≤ l) && decide (l < (base + size) / 128)
  m.stackHeld base ||
  m.slices.any (fun s => (s.2.retired && s.2.unwritten.any inside) || s.2.peerStores.any (fun w => w.bytes.any (fun b => inside (lineOf b.1))))

/-- The bad lines that the read of a stage meets are marked poisoned (R144). (log 57, DESIGN CHOICE) -/
def Mach.stageMarked (m : Mach) (base size : Nat) : Mach :=
  ((m.hbmBad ++ m.l2Bad).filter (fun l => decide (base / 128 ≤ l) && decide (l < (base + size) / 128))).foldl
    (fun m l => (m.readBad (128 * l)).2) m

/-- STAGE_COMPLETE (R124, R128): the waiter-list entries are freed, and their wakes are sent later; a block whose waiters
were all killed meanwhile has a frame with no pin (R114, R247). (log 57, DESIGN CHOICE) -/
def execStageComplete (slice base : Nat) (s : State) : Host.Outcome State Fault Refusal :=
  s.onMach (fun m =>
    match m.findBlock slice base with
    | none => m
    | some b =>
      if b.state != .staging || m.blockHeld base b.size then m
      else if m.stageFails base b.size then
        (((m.stageMarked base b.size).dropBlock slice base).reportAll slice .brumFetchError b.queue)
      else
        let m := { m with mem := Mem.copy m.mem base (frameKey base) b.size }
        let m := m.modSlice slice (fun x => { x with wakes := x.wakes ++ b.queue.map (fun w => (base, w)) })
        let next : BlockState :=
          if !b.queue.isEmpty then .resident
          else if b.leaving || m.beyondPool b || m.otherQueued slice b.part base then .evicting
          else .lingering
        m.modBlock slice base (fun b => { b with state := next, pins := b.pins + b.queue.length, queue := [], dirty := [],
                                                 lingerFrom := (m.slice slice).cycles }))

/-- WAKE (R124): the slice sends its first wake, or reports it if the parking core is fenced. -/
def execWake (slice : Nat) (s : State) : Host.Outcome State Fault Refusal :=
  s.onMach (fun m =>
    match (m.slice slice).wakes with
    | [] => m
    | (base, w) :: t =>
      let m := m.modSlice slice (fun x => { x with wakes := t })
      if m.isFenced w.core then (m.pinDown slice base).report slice .applyTargetFenced w
      else
        let size := ((m.findBlock slice base).map (·.size)).getD 0x4000
        let e : Entry := { h := w.h, tag := w.tag, pin := some (slice, base), since := w.since, order := w.order,
                           args := { w1 := BitVec.ofNat 64 (w.va.toNat - w.va.toNat % size), w2 := w.va, w3 := BitVec.ofNat 64 size } }
        m.inject { id := 0, src := sliceEnd slice, dst := w.core, body := .wake e, core := w.core })

/-- WAKE_ARRIVAL (R124). -/
def execWakeArrival (src dst : Nat) (s : State) : Host.Outcome State Fault Refusal :=
  s.onMach (fun m =>
    match m.next src dst false with
    | some p =>
      match p.body with
      | .wake e =>
        if m.isFenced dst then m.answer p (.failed .applyTargetFenced false)
        else if m.forwardGone p then m.answer p (.failed .forwardExpired false)
        else if (m.core dst).wakes.length < 64 then (m.modCore dst (fun r => { r with wakes := r.wakes ++ [e] })).answer p .ack
        else m
      | _ => m
    | none => m)

/-- A wake that could not be delivered (R124). -/
def Mach.wakeFailed (m : Mach) (slice : Nat) (c : Nat) (cause : Cause) (e : Entry) : Mach :=
  let w : Waiter := { h := e.h, core := c, va := e.args.w2, since := 0, tag := e.tag }
  (match e.pin with | some p => m.pinDown p.1 p.2 | none => m).report slice cause w

/-- UNPIN (R125). -/
def execUnpin (src dst : Nat) (s : State) : Host.Outcome State Fault Refusal :=
  s.onMach (fun m =>
    match m.next src dst false with
    | some p =>
      match p.body with
      | .unpin base => (m.pinDown (dst - 1024) base).answer p .ack
      | _ => m
    | none => m)

/-- LINGER_EXPIRY (R114). (log 3, DESIGN CHOICE) -/
def execLingerExpiry (slice base : Nat) (s : State) : Host.Outcome State Fault Refusal :=
  s.onMach (fun m =>
    match m.findBlock slice base with
    | some b =>
      if b.state == .lingering && decide (b.lingerFrom + brLinger (m.sliceBrcfg slice b.part) ≤ (m.slice slice).cycles) then
        m.modBlock slice base Block.evict
      else m
    | none => m)

/-! ### Evictions (R126, R128) -/

/-- Dirty lines written back; a line poisoned or uncorrectable in its frame carries a poison mark (R144). -/
def Mach.writeLines (m : Mach) : List Nat → Mach
  | [] => m
  | l :: t =>
    let bad := m.frameBad.contains l || m.framePoisoned.contains l
    ({ m with mem := Mem.copy m.mem (frameKey (128 * l)) (128 * l) 128,
              l2Bad := eraseNat m.l2Bad l,
              hbmBad := if regionType (128 * l) = 0 then eraseNat m.hbmBad l else m.hbmBad,
              poisoned := if bad then insertNat m.poisoned l else eraseNat m.poisoned l }).writeLines t

/-- The frame's units are free, and the marks of its lines gone; a fresh queue makes the block QUEUED. -/
def Mach.freeBlock (m : Mach) (b : Block) : Mach :=
  let outside (l : Nat) : Bool := decide (l < b.base / 128) || decide ((b.base + b.size) / 128 ≤ l)
  let m := { m with mem := Mem.clear m.mem (frameKey b.base) b.size,
                    frameBad := m.frameBad.filter outside, framePoisoned := m.framePoisoned.filter outside }
  if b.queue.isEmpty then m.dropBlock b.slice b.base
  else (m.modBlock b.slice b.base (fun b => { b with unit := none, pins := 0, dirty := [] })).queueBlock b.slice b.base b.part

/-- WRITEBACK_COMPLETE (R126): `lost` are lines that could not be written (R128), as are those of a peer that is gone. -/
def execWritebackComplete (slice base : Nat) (lost : List Nat) (s : State) : Host.Outcome State Fault Refusal :=
  s.onMach (fun m =>
    match m.findBlock slice base with
    | some b =>
      if b.state == .evicting && !m.stackHeld base then
        let gone := b.dirty.filter (fun l => lost.contains l || m.peerGone (128 * l))
        let m := m.writeLines (b.dirty.filter (fun l => !gone.contains l))
        let m := if gone.isEmpty then m else
          ({ m with poisoned := (gone.filter (fun l => regionType (128 * l) == 0)).foldl insertNat m.poisoned }).post (slice / 32) b.part
            { cause := Cause.brumWritebackError.code, bad := BitVec.ofNat 64 base, aux0 := BitVec.ofNat 64 gone.length }
        m.freeBlock b
      else m
    | none => m)

/-- AGE_UNIT (R122): `n` slice cycles pass; choices are made from the ages when a stage starts. (log 3, DESIGN CHOICE) -/
def execAgeUnit (slice n : Nat) (s : State) : Host.Outcome State Fault Refusal :=
  s.onMach (fun m => m.modSlice slice (fun x => { x with cycles := x.cycles + n }))

/-- BRUM_WAIT_TIMEOUT (R128): WAITMAX times 65,536 slice cycles after the enqueue, which every WAITMAX reaches (R129).
(log 26, DESIGN CHOICE; log 56, DEDUCED) -/
def execBrumWaitTimeout (slice base idx : Nat) (s : State) : Host.Outcome State Fault Refusal :=
  s.onMach (fun m =>
    match m.findBlock slice base with
    | some b =>
      match b.queue[idx]? with
      | some w =>
        let max := brWaitMax (m.sliceBrcfg slice b.part)
        if (b.state == .queued || b.state == .evicting) && max != 0 && (m.part b.part).state != .saved && decide (max * 65536 ≤ (m.slice slice).cycles - w.since) then
          let m := m.modBlock slice base (fun b => { b with queue := dropNth b.queue idx })
          let m := if b.state == .queued && b.queue.length == 1 then m.dropBlock slice base else m
          m.report slice .brumWaitTimeout w
        else m
      | none => m
    | none => m)

/-- The lingering frames of a partition in units that its pool no longer has are evicted (R111). -/
def Mach.trimPool (p : Nat) (m : Mach) : Mach :=
  { m with blocks := m.blocks.map (fun b => if b.part = p && b.state == .lingering && m.beyondPool b then b.evict else b) }

/-- A slice takes the newly written BRCFG and E2E of a partition (R31); lingering frames in removed units are evicted
(R111). -/
def Mach.takeBrcfg (m : Mach) (slice p : Nat) : Mach :=
  let d := m.diePart (slice / 32) p
  Mach.trimPool p (m.modSlice slice (fun x => { x with brcfg := Table.set x.brcfg p d.brcfg, e2e := Table.set x.e2e p d.e2e }))

/-- SCOPE_D_VALUE_TAKEN (R31): units 0 to 127 are the slices, and 128 to 131 the dies' launchers. -/
def execScopeDValueTaken (unit part : Nat) (s : State) : Host.Outcome State Fault Refusal :=
  s.onMach (fun m =>
    if unit < 128 then m.takeBrcfg unit part
    else if unit < 132 then m.modDie (unit - 128) (fun x => { x with e2e := Table.set x.e2e part (m.diePart (unit - 128) part).e2e })
    else m)

end Sys2Proof.Machine
end

