-- ==== Sys2Proof/Machine/EngineData.lean ====
section
/-!
DEFINITION. Elements as the engines read and write them: access to bytes (R134, R137, R144, R226, R239), element codes and
scales (R135, R201 to R207), and the encoding into block formats (R208).
-/
namespace Sys2Proof.Machine

/-- A request that a sequence has to make before it can go on, for element `elem`: a read of `n` bytes or the write of a word
of a parkable page, with its home, operation and address there (R152, R239). (log 62, DEDUCED) -/
structure Ask where
  elem : Nat
  addr : Word
  n : Nat
  write : Bool
  dst : Nat
  op : MemOp
  key : Nat
  pk : Bool
deriving DecidableEq, Repr, Inhabited

/-- Why an element access does not go on: it waits for a full word (R226) or for an answer, a request has to be made first, its
sequence stops (R239; `found` is the cause found for ENGINE_DATA_ERROR), or a remote home answers with an error reply (R134). -/
inductive Halt where
  | wait
  | ask (q : Ask)
  | stop (cause : Cause) (bad : Option Word) (found : Nat)
  | reply (cause : Cause) (bad : Word)
deriving DecidableEq, Repr, Inhabited

abbrev Eng (α : Type) := Except Halt α

/-- The sequence on whose behalf an engine accesses memory (R229): its core and task, its number in packets, the address of its
record or its CPY, which its entries name (R239, R255), its requests with their answers, and the element it is at. -/
structure Agent where
  core : Nat
  task : Nat
  seq : Nat
  pc : Word
  reads : List Fetched := []
  elem : Nat := 0
deriving DecidableEq, Repr, Inhabited

def Agent.requester (w : Agent) (va : Word) : Requester := { core := w.core, va := va, pc := w.pc }

/-! ### Bytes -/

/-- What a failed operation at a home means to an engine (R134, R239). -/
def homeHalt (e : Cause) (a : Word) : Halt :=
  match e with
  | .blockAbsent => .stop .blockAbsent a 0
  | .scratchUncorrectable => .stop .engineDataError a e.code
  | .l2Uncorrectable => .stop .engineDataError a e.code
  | .hbmUncorrectable => .stop .engineDataError a e.code
  | .poisonConsumed => .stop .engineDataError a e.code
  | e => .reply e a

/-- A translation that fails stops the sequence, and one whose walk waits is waited for; bad data in the tables is bad data
(R140, R239, R269). (log 49, DEDUCED) -/
def walkHalt (e : Miss) (a : Word) : Halt :=
  if e.held then .wait
  else match homeHalt e.cause a with
  | .reply e a => .stop e a 0
  | h => h

/-- The home of engine address `a`, by core `c`: an LW or CG key with its core, or a physical address with its entry. A CG
address of the own core lies in its own window (R130). One that a record's strides take beyond the offsets of its core is
refused there, as one at or beyond the scratchpad size is (R224). -/
def Mach.engPlace (m : Mach) (c : Nat) (a : Word) (k : Kind) : Eng (Place × Mach) :=
  if isGv a then
    match m.translate c a.toNat k with
    | .error e => .error (walkHalt e a)
    | .ok (pa, pte, m) => .ok (.global pa pte, m)
  else if !classOk a && !(isCg a && field a 34 22 == 0) then .error (.stop .addressClass a 0)
  else if isLw a then
    if m.scratchSize c ≤ offOf a then .error (.stop .windowBounds a 0) else .ok (.local (scratchKey c (offOf a)), m)
  else if !m.inPart ((m.partOf c).getD 0) (coreOf a) then .error (.reply .partitionViolation a)
  else if coreOf a = c && decide (field a 0 24 < m.scratchSize c) then .ok (.local (scratchKey c (field a 0 24)), m)
  else .ok (.remote (coreOf a) (scratchKey (coreOf a) (field a 0 24)), m)

/-- Whether a scratchpad word that covers one of `n` bytes is uncorrectable (R137). -/
def Mach.scratchSpoilt (m : Mach) (k n : Nat) : Bool := (wordsOf k n).any (fun w => m.scratchBad.contains w)

/-- `n` bytes of the own scratchpad as its engines see them, with the stores performed so far (R137, R153). (log 61, DEDUCED) -/
def Mach.engLocal (m : Mach) (k n : Nat) (a : Word) : Eng Nat :=
  if m.scratchSpoilt k n then .error (.stop .engineDataError a Cause.scratchUncorrectable.code) else .ok (m.read k n)

/-- The request for `n` bytes at an address that the element has made, if it has. -/
def Agent.asked (w : Agent) (a : Word) (n : Nat) (write : Bool) : Option Fetched :=
  w.reads.find? (fun r => r.elem == w.elem && r.addr == a && r.n == n && r.write == write)

/-- `n` bytes at a home other than the own scratchpad: the answer to the request for them, which is made first (R152).
(log 62, DEDUCED) -/
def Agent.ask (w : Agent) (a : Word) (n dst : Nat) (op : MemOp) (key : Nat) (pk : Bool) : Eng Nat :=
  match w.asked a n false with
  | none => .error (.ask { elem := w.elem, addr := a, n := n, write := false, dst := dst, op := op, key := key, pk := pk })
  | some r =>
    match r.failed, r.value with
    | some e, _ => .error (homeHalt e a)
    | none, some v => .ok v
    | none, none => .error .wait

/-- The words of another core that hold some bytes, each waited for at its home until it is full (R226). (log 62, DEDUCED) -/
def Agent.askFull (w : Agent) (a : Word) (h k : Nat) : List Nat → Eng Nat
  | [] => .ok 0
  | x :: t =>
    match w.ask (a + BitVec.ofInt 64 ((x : Int) - k)) 8 h (.sync false) x false with
    | .error e => .error e
    | .ok v => (w.askFull a h k t).map (fun r => v + 2 ^ 64 * r)

/-- `n` bytes, which do not cross a 128-byte line, as their home reads them; `fe` waits for full words (R152, R226).
(log 62, DEDUCED) -/
def Mach.engRead1 (m : Mach) (w : Agent) (a : Word) (n : Nat) (fe : Bool) : Eng (Nat × Mach) :=
  let c := w.core
  match m.engPlace c a .engineRead with
  | .error e => .error e
  | .ok (.local k, m) =>
    if fe && (wordsOf k n).any (fun w => !m.full w) then .error .wait else (m.engLocal k n a).map (fun v => (v, m))
  | .ok (.remote h k, m) =>
    if fe then (w.askFull a h k (wordsOf k n)).map (fun v => (v / 2 ^ (8 * (k - wordOf k)) % 2 ^ (8 * n), m))
    else (w.ask a n h (.load n) k false).map (fun v => (v, m))
  | .ok (.global pa pte, m) =>
    (w.ask a n (m.homeEnd c pa (hashUnit pte)) (.load n) pa (ptePk pte)).map (fun v => (v, m))
  | .ok (.failed, m) => .ok (0, m)

/-- `n` bytes, at most 128, read. -/
def Mach.engRead (m : Mach) (w : Agent) (a : Word) (n : Nat) (fe : Bool) : Eng (Nat × Mach) :=
  let room := 128 - a.toNat % 128
  if n ≤ room then m.engRead1 w a n fe
  else
    match m.engRead1 w a room fe with
    | .error e => .error e
    | .ok (x, m) =>
      match m.engRead1 w (a + BitVec.ofNat 64 room) (n - room) fe with
      | .error e => .error e
      | .ok (y, m) => .ok (x + y * 2 ^ (8 * room), m)

/-- What a command writes in one 8-byte word: an address in it, the bits, their values, and the first element that they
concern. -/
structure Piece where
  addr : Word
  mask : Nat
  val : Nat
  elem : Nat := 0
deriving DecidableEq, Repr, Inhabited

/-- `len` bits of a code written from bit `bit` of the byte at `a` on, word by word. -/
def piecesOf (a : Word) (bit len v : Nat) : List Piece :=
  let lo := 8 * (a.toNat % 8) + bit
  let first := a - BitVec.ofNat 64 (a.toNat % 8)
  (List.range ((lo + len + 63) / 64)).map (fun i =>
    { addr := if i = 0 then a else first + BitVec.ofNat 64 (8 * i),
      mask := (2 ^ len - 1) * 2 ^ lo / 2 ^ (64 * i) % 2 ^ 64,
      val := v % 2 ^ len * 2 ^ lo / 2 ^ (64 * i) % 2 ^ 64 })

/-- One more piece; the bits of one word are written together (R226). -/
def addPiece (ps : List Piece) (p : Piece) : List Piece :=
  let same (q : Piece) : Bool := q.addr.toNat / 8 == p.addr.toNat / 8
  if ps.any same then
    ps.map (fun q => if same q then { q with mask := q.mask ||| p.mask, val := putMask q.val p.mask p.val } else q)
  else ps ++ [p]

/-- A write packet of a sequence (R152, R161). (log 62, DEDUCED) -/
def Mach.engSend (m : Mach) (w : Agent) (dst : Nat) (op : MemOp) (addr : Nat) (va : Word) (pk : Bool := false) : Mach :=
  m.inject { id := 0, src := w.core, dst := dst, body := .mem op addr va pk, core := w.core, task := w.task, pc := w.pc,
             seq := w.seq }

/-- Whether a piece can be translated, and, with `present`, whether the parkable block that it lies in is served now: where a
command translates every page before its first access (R239, R395). (log 62, DEDUCED) -/
def Mach.pieceHalt (m : Mach) (w : Agent) (present : Bool) (p : Piece) : Except Halt Mach :=
  match m.engPlace w.core p.addr .engineWrite with
  | .ok (.global pa pte, m) =>
    if present && ptePk pte && !m.outOfRange ((m.partOf w.core).getD 0) pa && ((m.blockAt pa).filter Block.served).isNone then
      .error (.stop .blockAbsent p.addr 0)
    else .ok m
  | .ok (_, m) => .ok m
  | .error (.reply _ _) => .ok m
  | .error h => .error h

/-- A piece on its way to its home; `fe` sets its word full in the same operation (R161, R226). A failure there is reported, and
nothing is written (R134). Without `parked`, a piece on a parkable page has been written by a request that was waited for.
(log 62, DEDUCED) -/
def Mach.writePiece (m : Mach) (w : Agent) (fe parked : Bool) (p : Piece) : Mach :=
  match m.engPlace w.core p.addr .engineWrite with
  | .error (.reply e a) => m.errorEntry w.core e a w.pc
  | .error _ => m
  | .ok (.local k, m) => m.engSend w w.core (.storeMask p.mask p.val fe) (wordOf k) p.addr
  | .ok (.remote h k, m) => m.engSend w h (.storeMask p.mask p.val fe) (wordOf k) p.addr
  | .ok (.global pa pte, m) =>
    if ptePk pte && !parked then m
    else m.engSend w (m.homeEnd w.core pa (hashUnit pte)) (.storeMask p.mask p.val false) (wordOf pa) p.addr (ptePk pte)
  | .ok (.failed, m) => m

/-- What element `k` of a destination writes. -/
structure ElemWrite where
  k : Nat
  pieces : List Piece
deriving DecidableEq, Repr, Inhabited

/-- The first element that cannot be written, and why. -/
def Mach.writesHalt (m : Mach) (w : Agent) (present : Bool) : List ElemWrite → Option (Nat × Halt) × Mach
  | [] => (none, m)
  | e :: t =>
    match e.pieces.foldl (fun (r : Except Halt Mach) p => r.bind (fun m => m.pieceHalt w present p)) (.ok m) with
    | .error h => (some (e.k, h), m)
    | .ok m => m.writesHalt w present t

/-- What elements write, each word of theirs once and whole (R226). -/
def piecesFor (es : List ElemWrite) : List Piece :=
  (es.flatMap (fun e => e.pieces.map (fun p => { p with elem := e.k }))).foldl addPiece []

/-- Elements written. -/
def Mach.writeElems (m : Mach) (w : Agent) (fe parked : Bool) (es : List ElemWrite) : Mach :=
  (piecesFor es).foldl (fun m p => m.writePiece w fe parked p) m

/-- The pieces on parkable pages, written one at a time, each once the home has answered for the one before, so that a block
found absent stops the sequence at its element (R115, R239, R333): the first that is not written, with its element. Another
failure is reported, and the command goes on (R134). (log 62, DEDUCED) -/
def Mach.parkPieces (m : Mach) (w : Agent) : List Piece → Option (Nat × Halt) × Mach
  | [] => (none, m)
  | p :: t =>
    match m.engPlace w.core p.addr .engineWrite with
    | .ok (.global pa pte, m) =>
      if !ptePk pte then m.parkPieces w t
      else
        let w := { w with elem := p.elem }
        match w.asked p.addr 8 true with
        | none =>
          (some (p.elem, .ask { elem := p.elem, addr := p.addr, n := 8, write := true,
                                dst := m.homeEnd w.core pa (hashUnit pte), op := .storeMask p.mask p.val false, key := wordOf pa,
                                pk := true }), m)
        | some r =>
          match r.failed, r.value with
          | some .blockAbsent, _ => (some (p.elem, .stop .blockAbsent p.addr 0), m)
          | some e, _ => (m.errorEntry w.core e p.addr w.pc).parkPieces w t
          | none, some _ => m.parkPieces w t
          | none, none => (some (p.elem, .wait), m)
    | _ => m.parkPieces w t

/-- Whether every write of a sequence has been performed and acknowledged (R161, R231). (log 62, DEDUCED) -/
def Mach.seqQuiet (m : Mach) (id : Nat) : Bool := !m.packets.any (fun p => p.seq == id && p.answers == 0 && id != 0)

/-! ### Elements -/

/-- The format of the elements of a float format code; none for RAW and integers (R29, R204 to R206). -/
def elemFmt (f : Nat) : Option Fmt :=
  match f with
  | 1 => some .f32 | 2 => some .f16 | 3 => some .bf16 | 4 => some .e4m3 | 5 => some .e5m2 | 6 => some .e3m2
  | 7 => some .e2m3 | 8 => some .e2m1 | 11 => some .e4m3 | 12 => some .e2m3 | 13 => some .e2m1 | 14 => some .e2m1
  | 15 => some .e4m3 | 16 => some .e2m1 | _ => none

/-- Where the scale of an element lies in its unit: byte offset, bit and length (R135). -/
def scaleSpot (f elem : Nat) : Nat × Nat × Nat :=
  if f = 11 || f = 12 || f = 13 then (unitBytes f - 8, 20 * (elem / 16), 20)
  else if f = 14 then (64 + elem / 8, 0, 8)
  else (unitElems f * elemBits f 0 / 8 + elem / 32, 0, 8)

/-- The address of the band scale of a QB4 element in scratchpad (R135). -/
def bandAddr (s : Spot) : Word := s.addr - BitVec.ofNat 64 (80 * s.unit) + BitVec.ofNat 64 (32720 + 2 * (s.unit / 64))

/-- An element as it stands: its code, its block's scale and its band scale. -/
structure Elem where
  code : Nat
  scale : Nat := 0
  band : Nat := 0
deriving DecidableEq, Repr, Inhabited

/-- An element read at a spot of a record of format `f` (R134, R226). -/
def Mach.readElem (m : Mach) (w : Agent) (f lsz : Nat) (fe : Bool) (s : Spot) : Eng (Elem × Mach) :=
  match m.engRead w s.byte (spanBytes f lsz s) fe with
  | .error e => .error e
  | .ok (x, m) =>
    let code := x / 2 ^ (s.bit % 8) % 2 ^ elemBits f lsz
    if blockElems f = 0 then .ok ({ code := code }, m)
    else
      let (o, b, l) := scaleSpot f s.elem
      match m.engRead w (s.addr + BitVec.ofNat 64 (o + b / 8)) ((b % 8 + l + 7) / 8) fe with
      | .error e => .error e
      | .ok (y, m) =>
        let scale := y / 2 ^ (b % 8) % 2 ^ l
        if f ≠ 14 then .ok ({ code := code, scale := scale }, m)
        else if isGv s.addr then .ok ({ code := code, scale := scale, band := (Config.gvBand (s.unit / 64)).toNat }, m)
        else
          match m.engRead w (bandAddr s) 2 fe with
          | .error e => .error e
          | .ok (z, m) => .ok ({ code := code, scale := scale, band := z }, m)

/-- What an element at a spot of format `f` writes. The scale word's bits [63:60] are written zero (R204).
(log 79, DESIGN CHOICE) -/
def elemPieces (f lsz : Nat) (s : Spot) (e : Elem) : List Piece :=
  let code := piecesOf s.byte (s.bit % 8) (elemBits f lsz) e.code
  if blockElems f = 0 then code
  else
    let (o, b, l) := scaleSpot f s.elem
    let a := s.addr + BitVec.ofNat 64 o
    code ++ piecesOf (a + BitVec.ofNat 64 (b / 8)) (b % 8) l e.scale ++
      (if f = 11 || f = 12 || f = 13 then piecesOf (a + 7) 4 4 0
       else if f = 14 && !isGv s.addr then piecesOf (bandAddr s) 0 16 e.band
       else [])

/-! ### Values (R201 to R207) -/

/-- The NaN that an invalid product or a reserved scale gives (R207, R221). (log 46, DEDUCED) -/
def quietNan : FVal := .nan false (2 ^ 22) 23 false

/-- An exact product; a NaN operand, or 0 × ∞, gives a NaN. -/
def FVal.times (a b : FVal) : FVal :=
  if a.isNan then a else if b.isNan then b
  else if (a.isInf && b.isZero) || (a.isZero && b.isInf) then quietNan
  else if a.isInf || b.isInf then .inf (a.neg != b.neg)
  else .fin (a.neg != b.neg) (a.rat * b.rat)

/-- A nested scale's value (R204), and its halving bit for element `i` of its block. -/
def nestedScale (s : Nat) : Rat := pow2 ((s / 2 ^ 12 % 256 : Nat) - 127 : Int) * (1 + mkRat (s / 2 ^ 8 % 16 : Nat) 16)
def microScale (s i : Nat) : Rat := if s.testBit (i % 16 / 2) then mkRat 1 2 else 1

/-- The value of an E3M5 code (R205). -/
def e3m5 (c : Nat) : Rat :=
  let m : Rat := mkRat (c % 32 : Nat) 32
  if c / 32 = 0 then mkRat 1 4 * m else pow2 ((c / 32 : Nat) - 3 : Int) * (1 + m)

/-- The scale of an element of block format `f`, element `i` of its unit (R204 to R207). -/
def scaleVal (f i : Nat) (e : Elem) : FVal :=
  if f = 11 || f = 12 || f = 13 then
    if e.scale / 2 ^ 12 % 256 = 255 then quietNan else .fin false (nestedScale e.scale * microScale e.scale i)
  else if f = 14 then
    let v := (FVal.fin false (e3m5 (e.scale % 256))).times (decodeF .bf16 e.band)
    if v.isNan then quietNan else v
  else if e.scale % 256 = 255 then quietNan else .fin false (pow2 ((e.scale % 256 : Nat) - 127 : Int))

/-- Decode: the value of an element of format `f`, element `i` of its unit. An integer carries no sign of zero.
(log 46, DEDUCED) -/
def elemValue (f i : Nat) (e : Elem) : FVal :=
  match elemFmt f with
  | some g =>
    if blockElems f = 0 then decodeF g e.code
    else
      let s := scaleVal f i e
      if s.isNan then s else (decodeF g e.code).times s
  | none =>
    .fin false (intOf (elemBits f 0) true e.code : Int)

/-! ### Encoding (R208, R214, R215) -/

/-- A value rounded into a format without scales: code and generator. -/
def encodePlain (f rm : Nat) (sat : Bool) (v : FVal) (g : BitVec 32) : Nat × BitVec 32 :=
  match elemFmt f with
  | some k =>
    let (d, g) := takeDraw rm k.width g
    ((convertF k rm sat d v).1, g)
  | none => ((toInteger (elemBits f 0) true rm v).1, g)

/-- The magnitude of a finite value. -/
def FVal.mag (v : FVal) : Rat := if v.rat < 0 then -v.rat else v.rat

def maxMag (vs : List FVal) : Rat := vs.foldl (fun a v => max a v.mag) 0
def anySpecial (vs : List FVal) : Bool := vs.any (fun v => v.isNan || v.isInf)

/-- The smallest nested scale not below a ratio, clamped, as E8 and M4 (R208). -/
def nestedFor (r : Rat) : Nat :=
  let e := floorLog2 r
  let m := (-((-((r / pow2 e - 1) * 16)).floor)).toNat
  let (e, m) : Int × Nat := if m = 16 then (e + 1, 0) else (e, m)
  if e < -127 then 0
  else if 127 < e then 254 * 16 + 15
  else (e + 127).toNat * 16 + m

/-- The scale field of an NB block with elements (index in block, value) (R208). -/
def nbScale (f : Fmt) (vs : List (Nat × FVal)) : Nat :=
  let xs := vs.map (·.2)
  if anySpecial xs then 255 * 2 ^ 12
  else if maxMag xs = 0 then 0x7F000
  else
    let s := nestedFor (maxMag xs / f.max)
    let scale := nestedScale (s * 2 ^ 8)
    let micro := (List.range 8).foldl (fun n j =>
      if maxMag ((vs.filter (fun p => p.1 / 2 == j)).map (·.2)) ≤ scale * f.max / 2 then n + 2 ^ j else n) 0
    s * 2 ^ 8 + micro

/-- The scale code of an MX block (R208). -/
def mxScale (f : Fmt) (xs : List FVal) : Nat :=
  if anySpecial xs then 0xFF
  else if maxMag xs = 0 then 127
  else
    let e : Int := 127 + floorLog2 (maxMag xs) - (if f == .e4m3 then 8 else 2)
    if e < 0 then 0 else if 254 < e then 254 else e.toNat

/-- The band scale of 64 QB4 rows, and the scale code of a block under it (R208). -/
def qbBand (xs : List FVal) : Nat :=
  if maxMag xs = 0 then 0x3F80 else (roundF .bf16 2 false 0 false (maxMag xs / 189)).1
def qbScale (band : Nat) (xs : List FVal) : Nat :=
  let r := maxMag xs / (6 * (decodeF .bf16 band).rat)
  ((List.range 256).find? (fun c => r ≤ e3m5 c)).getD 255

/-- A quotient by a positive scale; zero by zero is a zero of its sign. (log 79, DESIGN CHOICE) -/
def FVal.over (v : FVal) (s : FVal) : FVal :=
  match v, s with
  | .fin n x, .fin _ y => .fin n (if y = 0 then 0 else x / y)
  | .fin _ _, s => s
  | v, _ => v

/-- Element `k` of a write: its spot and value. -/
structure Put where
  k : Nat
  spot : Spot
  val : FVal
deriving DecidableEq, Repr, Inhabited

/-- Whether two spots lie in one block, or in one band, of a block format. -/
def sameBlock (f : Nat) (a b : Spot) : Bool := a.addr == b.addr && a.elem / blockElems f == b.elem / blockElems f
def bandStart (s : Spot) : Word := s.addr - BitVec.ofNat 64 (80 * (s.unit % 64))

/-- The least number of an element among some. -/
def firstOf (l : List Put) (k : Nat) : Nat := l.foldl (fun n q => min n q.k) k

/-- The encoding of one element of a block format, given all elements that the command writes. For QB4 with a NaN or an
infinity among the 64 rows no rule states the scales, and free words give them and the codes of the finite elements (number
`free` on), each band, block and element its own; the code of a NaN or an infinity is R215's under any scale.
(log 79, DESIGN CHOICE) -/
def encodeBlock (f rm : Nat) (all : List Put) (p : Put) (g : BitVec 32) (free : Nat) : Elem × BitVec 32 :=
  let fm := (elemFmt f).getD .e2m1
  let blk := all.filter (fun q => sameBlock f p.spot q.spot)
  let xs := blk.map (·.val)
  let (d, g) := takeDraw rm fm.width g
  let put (scale band : Nat) : Elem :=
    let e : Elem := { code := 0, scale := scale, band := band }
    { e with code := (convertF fm rm true d (p.val.over (scaleVal f p.spot.elem e))).1 }
  if f = 14 then
    let near := all.filter (fun q => bandStart p.spot == bandStart q.spot)
    let rows := near.map (·.val)
    if anySpecial rows then
      ({ code := if anySpecial [p.val] then (convertF fm rm true d p.val).1 else (Config.freeWord (free + 3 * p.k)).toNat % 16,
         scale := (Config.freeWord (free + 3 * firstOf blk p.k + 1)).toNat % 256,
         band := (Config.freeWord (free + 3 * firstOf near p.k + 2)).toNat % 65536 }, g)
    else
      let band := qbBand rows
      (put (qbScale band xs) band, g)
  else if f = 15 || f = 16 then (put (mxScale fm xs) 0, g)
  else (put (nbScale fm (blk.map (fun q => (q.spot.elem % 16, q.val)))) 0, g)

/-- The elements of a write encoded in order (R214), and the generator after. -/
def encodeAll (f rm : Nat) (sat : Bool) (free : Nat) (all : List Put) : List Put → BitVec 32 → List (Put × Elem) × BitVec 32
  | [], g => ([], g)
  | p :: t, g =>
    let (e, g) : Elem × BitVec 32 :=
      if blockElems f = 0 then
        let (x, g) := encodePlain f rm sat p.val g
        ({ code := x }, g)
      else encodeBlock f rm all p g free
    let (es, g) := encodeAll f rm sat free all t g
    ((p, e) :: es, g)

end Sys2Proof.Machine
end

