-- ==== Sys2Proof/Machine/Engines.lean ====
section
/-!
DEFINITION. Command records and sequences (R227 to R231, R239, R240, R330): the copy commands XCPY and XGATH, ESIG and the
end of a sequence, and EFORK, CPY, ECAN and ERES.
-/
namespace Sys2Proof.Machine

/-! ### Sequencers: a core's copy sequencer, or (`mtx`) a cluster's matrix sequencer -/

def Mach.unitSeqs (m : Mach) (mtx : Bool) (u : Nat) : List Seq := if mtx then (m.cluster u).seqs else (m.core u).seqs
def Mach.setSeqs (m : Mach) (mtx : Bool) (u : Nat) (l : List Seq) : Mach :=
  if mtx then m.modCluster u (fun c => { c with seqs := l }) else m.modCore u (fun r => { r with seqs := l })

/-- Changes the first sequence of a sequencer. -/
def Mach.modHead (m : Mach) (mtx : Bool) (u : Nat) (f : Seq → Seq) : Mach :=
  match m.unitSeqs mtx u with
  | [] => m
  | s :: t => m.setSeqs mtx u (f s :: t)

/-- The sequence that runs: the first, unless it is stopped or its core does not run. -/
def Mach.headSeq (m : Mach) (mtx : Bool) (u : Nat) : Option Seq :=
  match m.unitSeqs mtx u with
  | [] => none
  | s :: _ => if s.stopped.isNone && m.running s.core then some s else none

/-! ### Records (R227) -/

def cmdOp (r : Nat) : Nat := r % 256
def cmdByte (r i : Nat) : Nat := r / 2 ^ (8 * i) % 256
def cmdWord (r i : Nat) : Nat := r / 2 ^ (8 * i) % 2 ^ 32

/-- Whether a 32-byte number has no bit outside the bytes and bits that its opcode assigns, given as (first bit, length). -/
def onlyBits (r : Nat) (fields : List (Nat × Nat)) : Bool :=
  fields.foldl (fun x f => x - x / 2 ^ f.1 % 2 ^ f.2 * 2 ^ f.1) r == 0

/-- A shape or index field: a multiple of 8; a shape record lies wholly below the scratchpad size. -/
def shapeField (size off : Nat) : Bool := off % 8 == 0 && decide (off + 48 ≤ size)

/-- Whether a record is valid for a sequencer (R227, R229); the end record is. -/
def validCmd (size : Nat) (mtx : Bool) (r : Nat) : Bool :=
  match cmdOp r with
  | 0x00 => r == 0
  | 0x01 => !mtx && onlyBits r [(0, 8), (32, 32), (64, 32)] && shapeField size (cmdWord r 4) && shapeField size (cmdWord r 8)
  | 0x02 => !mtx && onlyBits r [(0, 8), (32, 32), (64, 32), (96, 32), (128, 16), (160, 32)] &&
      shapeField size (cmdWord r 4) && shapeField size (cmdWord r 8) && cmdWord r 12 % 8 == 0
  | 0x10 => mtx && onlyBits r [(0, 16)]
  | 0x11 => mtx && onlyBits r [(0, 24), (32, 32), (64, 32)] && shapeField size (cmdWord r 4)
  | 0x12 => mtx && onlyBits r [(0, 16), (24, 1), (32, 32), (64, 32)] && shapeField size (cmdWord r 4)
  | 0x13 => mtx && onlyBits r [(0, 8), (32, 32), (64, 32)] && shapeField size (cmdWord r 4)
  | 0x20 => onlyBits r [(0, 10), (32, 32), (64, 64)]
  | _ => false

/-- The address of the record that a sequence has reached; a sequence of CPY has that of its instruction (R239). -/
def Seq.where (s : Seq) : Word :=
  match s.list with
  | some off => lwOf (scratchKey s.core off)
  | none => s.pc

def Seq.agent (s : Seq) : Agent := { core := s.core, task := s.task, seq := s.id, pc := s.where, reads := s.reads }

/-- The command that a sequence has reached, read from its record; one that is invalid acts as an end record (R330). A
sequence of CPY holds one XCPY (R230). -/
def Mach.cmdOf (m : Mach) (mtx : Bool) (s : Seq) : Eng Nat :=
  match s.list with
  | none => .ok (if s.recs.isEmpty then 0 else 1)
  | some off =>
    if m.scratchSize s.core < off + 32 then .ok 0
    else (m.engLocal (scratchKey s.core off) 32 s.where).map (fun r =>
      if validCmd (m.scratchSize s.core) mtx r then r else 0)

/-- The shape record at an LW offset. -/
def Mach.shapeAt (m : Mach) (c off : Nat) : Eng Nat := m.engLocal (scratchKey c off) 48 (lwOf (scratchKey c off))

/-- The six words of a shape record. -/
def shapeWords (r : Nat) : List Word := (List.range 6).map (fun i => BitVec.ofNat 64 (nbits r (64 * i) 64))

/-- The command is done: the sequence goes on to the next record. -/
def Seq.next (s : Seq) : Seq :=
  { s with list := s.list.map (· + 32), recs := [], started := false, counted := false, done := 0, cmd := none, index := [], reads := [],
           bad := none }
def Mach.cmdDone (m : Mach) (mtx : Bool) (u : Nat) : Mach := m.modHead mtx u Seq.next

/-- The command of the first sequence has started with record `r`, which is read no more (R330). -/
def Mach.begun (m : Mach) (mtx : Bool) (u r : Nat) : Mach := m.modHead mtx u (fun s => { s with started := true, cmd := some r })

/-! ### Engine faults (R239) -/

/-- A sequence's ticket. -/
def Seq.ticket (s : Seq) (mtx : Bool) : Nat := s.core + (if mtx then 1024 else 0) + 2048 * s.slot

/-- The line of a table entry that was found bad by the walk for an engine's access is marked (R144). (log 49, DEDUCED) -/
def Mach.walkMarked (m : Mach) (c : Nat) (bad : Option Word) : Mach :=
  match bad with
  | some a => if isGv a then (match m.lookup c a.toNat .engineRead with | .error e => m.marked e.entry | .ok _ => m) else m
  | none => m

/-- The first sequence stops at iteration vector `v`. -/
def Mach.stopSeq (m : Mach) (mtx : Bool) (u : Nat) (s : Seq) (cause : Cause) (bad : Option Word) (found : Nat) (v : List Nat) : Mach :=
  let i (d : Nat) : Nat := v.getD d 0
  ((m.walkMarked s.core bad).modHead mtx u (fun s => { s with stopped := some cause, reads := [] })).postAt s.core
    { cause := cause.code, core := s.core, eng := true, bad := bad, pc := s.where,
      aux0 := BitVec.ofNat 64 (i 0 + i 1 * 2 ^ 16 + i 2 * 2 ^ 32 + i 3 * 2 ^ 48),
      aux1 := BitVec.ofNat 64 (i 4 + s.ticket mtx * 2 ^ 16 + (if s.list.isNone then 2 ^ 29 else 0) + found * 2 ^ 32) }

/-- A request of the first sequence leaves, and its answer is awaited (R152). (log 62, DEDUCED) -/
def Mach.sendAsk (m : Mach) (mtx : Bool) (u : Nat) (s : Seq) (q : Ask) : Mach :=
  let r : Fetched := { elem := q.elem, addr := q.addr, n := q.n, write := q.write, id := m.nextId }
  (m.engSend s.agent q.dst q.op q.key q.addr q.pk).modHead mtx u (fun s => { s with reads := s.reads ++ [r] })

/-- A sequence as it would go on if the reads it awaits had returned: what it asks for then, it may ask for now, since no
address rests on a value that is awaited. (log 62, DEDUCED) -/
def Seq.assumed (s : Seq) : Seq :=
  { s with reads := s.reads.map (fun r => if r.value.isNone && r.failed.isNone && !r.write then { r with value := some 0 } else r) }

/-- The read that a halted sequence asks for. -/
def Halt.read : Halt → Option Ask
  | .ask q => if q.write then none else some q
  | _ => none

/-- Whether a sequence has made the request `id` and awaits its answer. -/
def Mach.engineAsked (m : Mach) (id : Nat) : Bool :=
  let has (s : Seq) : Bool := s.reads.any (fun r => r.id == id)
  m.cores.any (fun e => e.2.seqs.any has) || m.clusters.any (fun e => e.2.seqs.any has)

/-- The answer to the request `id` of a sequence. (log 62, DEDUCED) -/
def Mach.noteAnswer (m : Mach) (id : Nat) (v : Option Nat) (failed : Option Cause) : Mach :=
  let note (s : Seq) : Seq :=
    { s with reads := s.reads.map (fun r => if r.id = id then { r with value := v, failed := failed } else r) }
  { m with cores := m.cores.map (fun e => (e.1, { e.2 with seqs := e.2.seqs.map note })),
           clusters := m.clusters.map (fun e => (e.1, { e.2 with seqs := e.2.seqs.map note })) }

/-- A command halted before its first effect. -/
def Mach.haltCmd (m : Mach) (mtx : Bool) (u : Nat) (s : Seq) (h : Halt) : Mach :=
  match h with
  | .wait => m
  | .ask q => m.sendAsk mtx u s q
  | .stop e bad found => m.stopSeq mtx u s e bad found []
  | .reply e a => m.errorEntry s.core e a s.where

/-- The command that the first sequence of a sequencer has reached, if its opcode is `op`, as `f` performs it. Its record is
read once, when every write of the command before it is performed (R231, R330). -/
def Mach.onCommand (m : Mach) (mtx : Bool) (u op : Nat) (f : Seq → Nat → Mach) : Mach :=
  match m.headSeq mtx u with
  | none => m
  | some s =>
    match s.cmd with
    | some r => if cmdOp r = op then f s r else m
    | none =>
      if !m.seqQuiet s.id then m
      else match m.cmdOf mtx s with
        | .error h => m.haltCmd mtx u s h
        | .ok r => if cmdOp r = op then f s r else m

/-! ### XCPY and XGATH (R225, R237, R439, R440) -/

/-- What a copy command copies: its records, and for XGATH the index array, the count and the stride. -/
structure Copy where
  src : Nat
  dst : Nat
  gather : Option (Nat × Nat × Int)
deriving DecidableEq, Repr, Inhabited

def Copy.count (p : Copy) : Nat := recCount p.dst

def allClasses (a : Word) : Bool := isLw a || isCg a || isGv a
def plainFmt (f : Nat) : Bool := decide (1 ≤ f) && !indexed f

/-- Elements are copied unchanged, converted, or refused (R225). -/
def copiesBits (src dst : Nat) : Bool :=
  let f := recFmt src
  let g := recFmt dst
  if f = 0 && g = 0 then recLsz src == recLsz dst
  else if f = 0 then plainFmt g && elemBits g 0 == 8 * 2 ^ recLsz src
  else if g = 0 then plainFmt f && elemBits f 0 == 8 * 2 ^ recLsz dst
  else f == g
def refusesPair (src dst : Nat) : Bool := (recFmt src == 0 || recFmt dst == 0) && !copiesBits src dst

/-- What a copy command with record `r` copies. -/
def copyPlan (r src dst : Nat) : Copy :=
  { src := src, dst := dst, gather := if cmdOp r = 2 then some (cmdWord r 12, recCount src, signed 32 (cmdWord r 20)) else none }

/-- The records of a copy command that starts: read from its scratchpad, or those that CPY copied (R230). -/
def Mach.copyRecord (m : Mach) (s : Seq) (off i : Nat) : Eng Nat :=
  if s.list.isNone then .ok (recOf ((s.recs.drop (6 * i)).take 6)) else m.shapeAt s.core off

/-- The checks at the start of a copy command: its plan, or none when an extent is 0, which completes the command where the
checks of its record reach it (R224, R225, R237, R440). (log 27, DEDUCED) -/
def Mach.copyStart (m : Mach) (s : Seq) (r : Nat) : Eng (Option Copy) := do
  let c := s.core
  let src ← m.copyRecord s (cmdWord r 4) 0
  match m.checkRecord c src allClasses false with
  | some e => .error (.stop e none 0)
  | none =>
    if recCount src = 0 then return none
    let dst ← m.copyRecord s (cmdWord r 8) 1
    match m.checkRecord c dst allClasses true with
    | some e => .error (.stop e none 0)
    | none =>
      if recCount dst = 0 then return none
      let n := cmdWord r 16 % 65536
      if (cmdOp r == 2 && n == 0) || (if cmdOp r = 2 then n else 1) * recCount src ≠ recCount dst then .error (.stop .shapeExtent none 0)
      else if refusesPair src dst then .error (.stop .bankFormatMismatch none 0)
      else if cmdOp r = 2 && m.scratchSize c < cmdWord r 12 + 4 * n then .error (.stop .windowBounds none 0)
      else return some (copyPlan r src dst)

/-- The index elements that a copy has read: position and value (R440). -/
abbrev Indices := List (Nat × Nat)

/-- Index element `j`, read when it is reached (R440). -/
def Mach.readIndex (m : Mach) (w : Agent) (idx j : Nat) (known : Indices) : Indices × Eng Nat :=
  match known.lookup j with
  | some v => (known, .ok v)
  | none =>
    let key := scratchKey w.core (idx + 4 * j)
    match m.engLocal key 4 (lwOf key) with
    | .ok v => ((j, v) :: known, .ok v)
    | .error h => (known, .error h)

/-- The source spot of an element at offset `o` from the base that an index gives (R237, R440). (log 80, DESIGN CHOICE) -/
def gatherSpot (src : Nat) (step o : Int) : Eng Spot :=
  let b := recBase src
  if indexed (recFmt src) then
    if (firstElem src : Int) + o + step < 0 then .error (.stop .shapeExtent none 0)
    else
      let base := spotAt src b step
      if classOf base.addr ≠ classOf b then .error (.stop .addressClass base.addr 0) else .ok (spotAt src b (o + step))
  else
    let base := b + BitVec.ofInt 64 step
    if classOf base ≠ classOf b then .error (.stop .addressClass base 0) else .ok (spotAt src base o)

/-- The source spot of element `k` (R237, R440). -/
def Mach.copySource (m : Mach) (w : Agent) (p : Copy) (k : Nat) (known : Indices) : Indices × Eng Spot :=
  match p.gather with
  | none => (known, .ok (recSpot p.src k))
  | some (idx, n, stride) =>
    let (known, i) := m.readIndex w idx (k / n) known
    (known, i.bind (fun v => gatherSpot p.src ((v : Int) * stride) (recOffset p.src (k % n))))

/-- One element read: what is to be written, or nothing where a remote home answers with an error reply (R134, R439). -/
def Mach.copyRead (m : Mach) (w : Agent) (p : Copy) (k : Nat) (known : Indices) : Indices × Eng (Option (Elem × FVal) × Mach) :=
  let w := { w with elem := k }
  let (known, s) := m.copySource w p k known
  (known, s.bind (fun s =>
    match m.readElem w (recFmt p.src) (recLsz p.src) (recFe p.src) s with
    | .ok (e, m) => .ok (some (e, elemValue (recFmt p.src) s.elem e), m)
    | .error (.reply e a) => .ok (none, m.errorEntry w.core e a w.pc)
    | .error h => .error h))

/-- What element `k` of a destination record writes. -/
def elemWrite (dst k : Nat) (e : Elem) : ElemWrite := { k := k, pieces := elemPieces (recFmt dst) (recLsz dst) (recSpot dst k) e }

/-- Elements from `k` on, `n` of them, read in order for a destination without block scales, with what they write. -/
def Mach.copyRun (m : Mach) (w : Agent) (p : Copy) (rm : Nat) (sat : Bool) :
    Nat → Nat → BitVec 32 → Indices → Indices × Eng (List ElemWrite × Mach × BitVec 32)
  | 0, _, g, known => (known, .ok ([], m, g))
  | n + 1, k, g, known =>
    match m.copyRead w p k known with
    | (known, .error h) => (known, .error h)
    | (known, .ok (none, m)) => m.copyRun w p rm sat n (k + 1) g known
    | (known, .ok (some (e, v), m)) =>
      let (e, g) : Elem × BitVec 32 :=
        if copiesBits p.src p.dst then (e, g)
        else
          let (x, g) := encodePlain (recFmt p.dst) rm sat v g
          ({ code := x }, g)
      let (known, r) := m.copyRun w p rm sat n (k + 1) g known
      (known, r.map (fun r => (elemWrite p.dst k e :: r.1, r.2)))

/-- Elements of a destination word run: those written together under FE = 1 (R226). -/
def wordRun (r : Nat) : Nat := if recFe r then 64 / Nat.gcd 64 (elemBits (recFmt r) (recLsz r)) else 1

/-- Whether a copy command writes a block format, which it does in one operation: a scale needs every value of its block,
and the word of a scale is written once (R225, R226). -/
def Copy.blocks (p : Copy) : Bool := blockElems (recFmt p.dst) != 0

/-- The outcome of a run: the machine, the elements done, the generator, the index elements read, and why it stopped short. -/
structure Run where
  m : Mach
  done : Nat
  gen : BitVec 32
  index : Indices
  halt : Option Halt := none
deriving DecidableEq, Repr, Inhabited

/-- Whole word runs from `k` on while `n` lasts. -/
def Mach.copyRuns (m : Mach) (w : Agent) (p : Copy) (rm : Nat) (sat : Bool) : Nat → Nat → BitVec 32 → Indices → Run
  | 0, k, g, known => { m := m, done := k, gen := g, index := known }
  | n + 1, k, g, known =>
    let len := min (wordRun p.dst) (p.count - k)
    if len = 0 then { m := m, done := k, gen := g, index := known }
    else match m.copyRun w p rm sat len k g known with
      | (known, .error h) => { m := m, done := k, gen := g, index := known, halt := some h }
      | (known, .ok (es, t, g1)) =>
        match t.writesHalt w false es with
        | (some (_, h), _) => { m := m, done := k, gen := g, index := known, halt := some h }
        | (none, t) =>
          match t.parkPieces w (piecesFor es) with
          | (some (_, h), _) => { m := m, done := k, gen := g, index := known, halt := some h }
          | (none, t) => (t.writeElems w (recFe p.dst) false es).copyRuns w p rm sat n (k + len) g1 known

/-- What elements from `k` on read, and why reading stopped short. -/
def Mach.copyValues (m : Mach) (w : Agent) (p : Copy) :
    Nat → Nat → Indices → List (Put × Elem) × Mach × Nat × Indices × Option Halt
  | 0, k, known => ([], m, k, known, none)
  | n + 1, k, known =>
    match m.copyRead w p k known with
    | (known, .error h) => ([], m, k, known, some h)
    | (known, .ok (x, m)) =>
      let (ps, m, f, known, h) := m.copyValues w p n (k + 1) known
      match x with
      | some (e, v) => (({ k := k, spot := recSpot p.dst k, val := v }, e) :: ps, m, f, known, h)
      | none => (ps, m, f, known, h)

/-- Whether two elements of a destination share a word. -/
def shareWord (dst a b : Nat) : Bool :=
  (elemWrite dst a { code := 0 }).pieces.any (fun p => (elemWrite dst b { code := 0 }).pieces.any (fun q => p.addr.toNat / 8 == q.addr.toNat / 8))

/-- The first element below `f` that must be left with those from `f` on: under FE = 1 one that shares a word with them, and
where scales are chosen one that shares a block or band; `f` if none does (R226, R239). (log 46, DEDUCED) -/
def blockCut (dst : Nat) (encodes : Bool) (f n : Nat) : Nat :=
  let near (a b : Nat) : Bool :=
    if recFmt dst = 14 then bandStart (recSpot dst a) == bandStart (recSpot dst b)
    else sameBlock (recFmt dst) (recSpot dst a) (recSpot dst b)
  let tied (a b : Nat) : Bool := (encodes && near a b) || (recFe dst && shareWord dst a b)
  ((List.range f).find? (fun a => ((List.range n).drop f).any (tied a))).getD f

/-- The same until no element left out shares anything with one that is written; `fuel` bounds the elements. -/
def cutFrom (dst : Nat) (encodes : Bool) (n : Nat) : Nat → Nat → Nat
  | 0, f => f
  | fuel + 1, f =>
    let g := blockCut dst encodes f n
    if g = f then f else cutFrom dst encodes n fuel g

/-- The elements below `cut` as a block format writes them: bits copied, or encoded (R208, R225), with the generator after. -/
def Mach.blockWrites (m : Mach) (p : Copy) (rm : Nat) (sat : Bool) (ps : List (Put × Elem)) (cut : Nat) (g : BitVec 32) :
    List ElemWrite × BitVec 32 :=
  let mine := ps.filter (fun q => decide (q.1.k < cut))
  if copiesBits p.src p.dst then (mine.map (fun q => elemWrite p.dst q.1.k q.2), g)
  else
    let (es, g) := encodeAll (recFmt p.dst) rm sat m.free (ps.map (·.1)) (mine.map (·.1)) g
    (es.map (fun q => elemWrite p.dst q.1.k q.2), g)

/-- A copy into a block format, from element `k` on (R208, R225). (log 46, DEDUCED) -/
def Mach.copyBlocks (m : Mach) (w : Agent) (p : Copy) (rm : Nat) (sat : Bool) (k : Nat) (g : BitVec 32) (known : Indices) : Run :=
  let n := p.count
  let encodes := !copiesBits p.src p.dst
  let (ps, t, f, known, h) := m.copyValues w p (n - k) k known
  let stay (h : Halt) : Run := { m := m, done := k, gen := g, index := known, halt := some h }
  let write (t : Mach) (es : List ElemWrite) (cut : Nat) (g : BitVec 32) (h : Option Halt) : Run :=
    { m := ({ t with free := t.free + 3 * n } : Mach).writeElems w (recFe p.dst) false es, done := cut, gen := g, index := known,
      halt := h }
  match h with
  | some .wait => stay .wait
  | some (.ask q) => stay (.ask q)
  | _ =>
    let cut := if h.isSome then max k (cutFrom p.dst encodes n n f) else f
    let (es, g1) := t.blockWrites p rm sat ps cut g
    let out := match t.writesHalt w false es with
      | (none, t) => t.parkPieces w (piecesFor es)
      | r => r
    match out with
    | (none, t) => write t es cut g1 h
    | (some (_, .wait), _) => stay .wait
    | (some (_, .ask q), _) => stay (.ask q)
    | (some (j, h), t) =>
      let cut := max k (cutFrom p.dst encodes n n j)
      let (es, g1) := t.blockWrites p rm sat ps cut g
      write t es cut g1 (some h)

/-- A copy command under way: up to `n` word runs of elements. It ends, or stops at a fault, once its writes are performed
(R231, R239). -/
def Mach.copyOn (m : Mach) (c n : Nat) (s : Seq) (p : Copy) : Mach :=
  let w := s.agent
  if p.count ≤ s.done then (if m.seqQuiet s.id then m.cmdDone false c else m)
  else
    let runs (w : Agent) : Run := if p.blocks then m.copyBlocks w p s.rm s.sat s.done s.gen s.index
                                  else m.copyRuns w p s.rm s.sat n s.done s.gen s.index
    let run := runs w
    let m := run.m.modHead false c (fun s =>
      { s with done := run.done, gen := run.gen, index := run.index, reads := s.reads.filter (fun r => decide (run.done ≤ r.elem)) })
    match run.halt with
    | some (.stop e bad found) =>
      if m.seqQuiet s.id then m.stopSeq false c s e bad found (recIndices p.dst run.done) else m
    | some (.ask q) => m.sendAsk false c s q
    | some .wait =>
      match (runs s.assumed.agent).halt.bind Halt.read with
      | some q => m.sendAsk false c s q
      | none => m
    | _ => m

/-- XCPY or XGATH, opcode `op`: its checks when it starts, then up to `n` word runs of elements. -/
def Mach.copyCommand (m : Mach) (c op n : Nat) : Mach :=
  m.onCommand false c op (fun s r =>
    if s.started then m.copyOn c n s (copyPlan r (recOf (s.recs.take 6)) (recOf (s.recs.drop 6)))
    else match m.copyStart s r with
      | .error h => m.haltCmd false c s h
      | .ok none => m.cmdDone false c
      | .ok (some p) =>
        let s := { s with started := true, cmd := some r, recs := shapeWords p.src ++ shapeWords p.dst }
        (m.modHead false c (fun _ => s)).copyOn c n s p)

/-- XCPY (R439). -/
def execXcpy (core n : Nat) (s : State) : Host.Outcome State Fault Refusal :=
  s.onMach (fun m => m.copyCommand core 1 n)

/-- XGATH (R440). -/
def execXgath (core n : Nat) (s : State) : Host.Outcome State Fault Refusal :=
  s.onMach (fun m => m.copyCommand core 2 n)

/-! ### ESIG and the end of a sequence (R231, R371) -/

/-- An arrival on a JOIN address (R341, R371): performed at the own core, or on its way to another. -/
def Mach.signalJoin (m : Mach) (w : Agent) (a : Word) : Eng Mach :=
  if !((isLw a || isCg a) && classOk a) then .error (.stop .addressClass a 0)
  else if a.toNat % 8 ≠ 0 then .error (.stop .misalignedData a 0)
  else
    match m.engPlace w.core a .engineWrite with
    | .error (.reply e a) => .ok (m.errorEntry w.core e a w.pc)
    | .error h => .error h
    | .ok (.local k, m) =>
      match m.performScratch .arrive k with
      | some (.failed .scratchUncorrectable _, _) => .error (homeHalt .scratchUncorrectable a)
      | some (.failed e _, m) => .ok (m.errorEntry w.core e a w.pc)
      | some (_, m) => .ok m
      | none => .ok m
    | .ok (.remote h k, m) => .ok (m.engSend w h .arrive k a)
    | .ok (.global _ _, m) => .ok m
    | .ok (.failed, m) => .ok m

/-- The application of an ESIG: taken at the own core and queued where the frame now lies, or sent on the pair channel to its
home; none while the deque has no room, or an operation before it on its way to the core to which the frame has moved (R101,
R106, R107, R162). (log 37, DEDUCED; log 45, DEDUCED) -/
def Mach.signalApply (m : Mach) (s : Seq) (h : Handle) (rec : Nat) : Option Mach :=
  let p := (m.partOf s.core).getD 0
  let args : Args := { w1 := BitVec.ofNat 64 rec, w2 := 0, w3 := BitVec.ofNat 64 s.core }
  if !m.inPart p (hHome h) then some (m.complainHandle s.core .partitionViolation h s.core)
  else if hHome h ≠ s.core then
    some (m.inject { id := 0, src := s.core, dst := hHome h, body := .apply h args s.rt s.tag, core := s.core, task := s.task,
                     pc := s.where, seq := s.id })
  else if m.movedAt s.core h && m.handlesFlying s.core then none
  else
    let home := (m.live p h).toOption.elim s.core (·.1)
    match m.takeApp p h s.rt with
    | .error e => some (m.complainHandle s.core e h s.core)
    | .ok m => m.pushOldest home { h := h, tag := s.tag, args := args }

/-- One more sequence of a join word has ended; with the last, or where `all` cancels them, the word has returned (R84, R240).
-/
def Pend.arrived (p : Pend) (all : Bool) : Option Pend :=
  match p.late with
  | .join n => if all || n ≤ 1 then none else some { p with late := .join (n - 1) }
  | _ => some p
def Mach.joinReturned (m : Mach) (id : Nat) (all : Bool) : Mach :=
  { m with pends := m.pends.filterMap (fun p => if p.id = id then p.arrived all else some p) }

/-- A cancelled sequence's join word: its count with bit 63 set, full. The count of an uncorrectable word is as it is read, and
the word stays uncorrectable. (log 74, DESIGN CHOICE) -/
def Mach.joinCancel (m : Mach) (s : Seq) : Mach :=
  if s.join = 0 then m
  else ((m.write s.join 8 ((m.word s.join) ||| (0x8000000000000000 : Word)).toNat).fill s.join).joinReturned s.pend true

/-- Whether a matrix sequence's command runs, which a cancellation lets complete (R367): it has passed the checks of its start.
(log 62, DEDUCED) -/
def Seq.runsMatrix (s : Seq) : Bool := s.stopped.isNone && s.cmd.isSome

/-- A matrix sequence whose cancellation waits for its command ends, the command being over. (log 62, DEDUCED) -/
def Mach.endCancelled (m : Mach) (u : Nat) : Mach :=
  match m.unitSeqs true u with
  | s :: t => if s.cancel && !s.runsMatrix then (m.setSeqs true u t).joinCancel s else m
  | [] => m

/-- ESIG (R371). Its arrival is acknowledged before its application, and it waits while that finds no room; `done` counts its
steps. A matrix sequence that is cancelled ends with it (R367). (log 45, DEDUCED; log 62, DEDUCED) -/
def Mach.signal (m : Mach) (mtx : Bool) (u : Nat) : Mach :=
  (if mtx then fun m => Mach.endCancelled m u else id) <| m.onCommand mtx u 0x20 (fun s r =>
    let at_ (m : Mach) (n : Nat) : Mach := (m.begun mtx u r).modHead mtx u (fun s => { s with done := n })
    if s.done = 0 then
      match if r.testBit 8 then m.signalJoin s.agent (BitVec.ofNat 64 (r / 2 ^ 64)) else .ok m with
      | .error h => m.haltCmd mtx u s h
      | .ok m => at_ m 1
    else if !m.seqQuiet s.id then m
    else if s.done = 1 && r.testBit 9 then
      ((m.signalApply s (BitVec.ofNat 32 (cmdWord r 4)) (scratchKey s.core (s.list.getD 0))).map (fun m => at_ m 2)).getD m
    else m.cmdDone mtx u)

/-- ESIG (R371). -/
def execEsig (mtx : Bool) (unit : Nat) (s : State) : Host.Outcome State Fault Refusal :=
  s.onMach (fun m => m.signal mtx unit)

/-- An arrival on the join word of a sequence; key 0 is no word. -/
def Mach.joinArrive (m : Mach) (s : Seq) : Mach :=
  if s.join = 0 then m
  else match m.performScratch .arrive s.join with
    | some (.failed e _, m) => (m.errorEntry s.core e (lwOf s.join) s.where).joinReturned s.pend false
    | some (_, m) => m.joinReturned s.pend false
    | none => m

/-- SEQUENCE_END (R229); an uncorrectable join word stops the sequence (R137, R239). -/
def execSequenceEnd (mtx : Bool) (unit : Nat) (s : State) : Host.Outcome State Fault Refusal :=
  s.onMach (fun m => m.onCommand mtx unit 0 (fun q _ =>
    if m.scratchBad.contains q.join then
      m.haltCmd mtx unit q (.stop .engineDataError (some (lwOf q.join)) Cause.scratchUncorrectable.code)
    else (m.setSeqs mtx unit ((m.unitSeqs mtx unit).drop 1)).joinArrive q))

/-! ### ECAN and ERES (R240, R366, R367, R370) -/

/-- Whether a packet is a read that waits at its home for a full word (R226). -/
def Packet.waitsFull (p : Packet) : Bool :=
  match p.body with
  | .mem (.sync _) _ _ _ => true
  | _ => false

/-- The requests of a sequence that their homes have not performed are cancelled (R240). -/
def Mach.cancelRequests (m : Mach) (id : Nat) : Mach :=
  let mine := (m.packets.filter (fun p => p.seq == id && id != 0 && p.answers == 0 &&
    (p.phase != .done || (p.waitsFull && !m.packets.any (fun r => r.answers == p.id))))).map (·.id)
  mine.foldl (fun m i => (m.dropWaiter i).retire i) m

/-- The sequences of a sequencer that `which` picks are cancelled, with their outstanding requests; a matrix command that runs
completes first, its writes with it (R240, R367). (log 62, DEDUCED) -/
def Mach.cancelSeqs (m : Mach) (mtx : Bool) (u : Nat) (which : Seq → Bool) : Mach :=
  let l := m.unitSeqs mtx u
  let later (s : Seq) : Bool := mtx && which s && s.runsMatrix
  let m := m.setSeqs mtx u ((l.filter (fun s => !which s || later s)).map (fun s => if later s then { s with cancel := true } else s))
  (l.filter (fun s => which s && !later s)).foldl (fun m s => (m.cancelRequests s.id).joinCancel s) m

def ticketMtx (t : Nat) : Bool := t.testBit 10
def ticketUnit (t : Nat) : Nat := if ticketMtx t then clusterOf (t % 1024) else t % 1024
def ticketNames (t : Nat) (s : Seq) : Bool := s.core == t % 1024 && s.slot == t / 2048 % 4

/-- Whether the sequence that a ticket names is being cancelled and its command has yet to complete (R367). -/
def Mach.cancelling (m : Mach) (t : Nat) : Bool :=
  ticketMtx t && (m.unitSeqs true (ticketUnit t)).any (fun s => ticketNames t s && s.cancel)

/-- The cancellation that a ticket names, performed at its core. -/
def Mach.cancelTicket (m : Mach) (t : Nat) : Mach := m.cancelSeqs (ticketMtx t) (ticketUnit t) (ticketNames t)

/-- The resumption that a ticket names: a stopped sequence starts its command again. -/
def Mach.resumeTicket (m : Mach) (t : Nat) : Mach :=
  let mtx := ticketMtx t
  let u := ticketUnit t
  m.setSeqs mtx u ((m.unitSeqs mtx u).map (fun s =>
    if ticketNames t s && s.stopped.isSome then
      { s with stopped := none, started := false, cmd := none, index := [], reads := [], recs := if s.list.isSome then [] else s.recs }
    else s))

/-- Every sequence of a task is cancelled (R247). -/
def Mach.cancelTask (m : Mach) (c task : Nat) : Mach :=
  let mine (s : Seq) : Bool := s.core == c && s.task == task
  (m.cancelSeqs false c mine).cancelSeqs true (clusterOf c) mine

/-- ECAN and ERES, runtime only (R228): the ticket's checks, then the request at the target core (R366). -/
def Mach.ticketOp (m : Mach) (a : BitVec 5) (op : HandleOp) (f : Mach → Nat → Mach) : Mach :=
  m.settle (do
    m.needRuntime
    let t ← m.readW a
    if field t 13 51 ≠ 0 then .error { cause := .reservedField }
    if !m.inPart m.myPart (t.toNat % 1024) then .error { cause := .partitionViolation }
    if t.toNat % 1024 = m.cur.core then
      let m := f (m.settleOwn m.cur.core) t.toNat
      .ok (if op = .cancel && m.cancelling t.toNat then m.await (.cancelled t.toNat) else m.done)
    else .ok ((m.request (t.toNat % 1024) (.handle op (t.setWidth 32) true)).await .counted))

/-- The contexts whose ECAN waited for a sequence that has now ended go on (R367). -/
def Mach.endCancels (m : Mach) : Mach :=
  m.ctxs.foldl (fun m e =>
    match e.2.wait with
    | .reply _ (.cancelled t) => if m.cancelling t then m else m.modCtx (e.1 / 16) (e.1 % 16) Ctx.waited
    | _ => m) m

/-- ECAN (R367). -/
def execEcan (a : BitVec 5) (s : State) : Host.Outcome State Fault Refusal :=
  s.onMach (fun m => m.ticketOp a .cancel Mach.cancelTicket)

/-- ERES (R370). -/
def execEres (a : BitVec 5) (s : State) : Host.Outcome State Fault Refusal :=
  s.onMach (fun m => m.ticketOp a .restart Mach.resumeTicket)

/-! ### EFORK and CPY (R229, R230, R360, R368) -/

/-- The generator of a new sequence, drawn from the issuing context (R214). -/
def Mach.seqGen (m : Mach) (c x : Nat) : BitVec 32 × Mach :=
  let v := m.ctx c x
  if field v.fpmode 0 3 = 4 then
    let g1 := stepGen v.gen
    let g2 := stepGen g1
    let g := BitVec.ofNat 32 (drawOf g1 * 65536 ^^^ drawOf g2)
    (if g = 0 then 0x9E3779B9 else g, m.modCtx c x (fun v => { v with gen := g2 }))
  else (0x9E3779B9, m)

/-- The lowest free slot of a sequencer. -/
def freeSeqSlot (l : List Seq) : Nat := ((List.range 4).find? (fun n => !l.any (fun s => s.slot == n))).getD 0

/-- One sequence queued by context `x` of core `c`. -/
def Mach.queueSeq (m : Mach) (c x : Nat) (mtx : Bool) (pc : Word) (list : Option Nat) (recs : List Word) (join pend : Nat) :
    Mach :=
  let v := m.ctx c x
  let u := if mtx then clusterOf c else c
  let (g, m) := m.seqGen c x
  let l := m.unitSeqs mtx u
  let q : Seq := { id := m.nextId, slot := freeSeqSlot l, core := c, task := v.task, pc := pc, list := list, recs := recs,
                   join := join, pend := pend, rt := v.rt, tag := v.tag, rm := field v.fpmode 0 3, sat := v.fpmode.getLsbD 3, gen := g }
  m.fresh.setSeqs mtx u (l ++ [q])

/-- A join word of count `n`, empty (R84); register 0 is none. -/
def Mach.joinWord (m : Mach) (c x j n : Nat) : Nat × Mach :=
  if j = 0 then (0, m)
  else
    let k := scratchKey c ((m.ctx c x).wp + 8 * j)
    let m := m.putReg k 8 n
    if n = 0 then (k, m)
    else
      let p : Pend := { id := m.nextId, core := c, ctx := x, task := (m.ctx c x).task, words := [k], late := .join n }
      (k, { (m.empty k).fresh with pends := m.pends ++ [p] })

/-- Records from an LW offset up to the end record (R229): the handles of ESIG records that apply, or the cause and the
record's offset. -/
def Mach.scanList (m : Mach) (c : Nat) (mtx : Bool) : Nat → Nat → Except (Cause × Nat) (List Handle)
  | 0, off => .error (.engineProgramInvalid, off - 32)
  | n + 1, off =>
    if m.scratchSize c < off + 32 then .error (.windowBounds, off)
    else if m.scratchSpoilt (scratchKey c off) 32 then .error (.scratchUncorrectable, off)
    else
      let r := m.read (scratchKey c off) 32
      if !validCmd (m.scratchSize c) mtx r then .error (.engineProgramInvalid, off)
      else if r = 0 then .ok []
      else
        (m.scanList c mtx n (off + 32)).map (fun hs =>
          if cmdOp r = 0x20 && r.testBit 9 then BitVec.ofNat 32 (cmdWord r 4) :: hs else hs)

/-- One list checked up to the privilege of its handles. (log 45, DEDUCED) -/
def Mach.checkList (m : Mach) (c : Nat) (mtx : Bool) (l : Word) : Res (List Handle) :=
  if l = 0 then .ok []
  else if !(isLw l && classOk l) then .error { cause := .addressClass, bad := l }
  else if l.toNat % 32 ≠ 0 then .error { cause := .misalignedData, bad := l }
  else
    match m.scanList c mtx 256 (offOf l) with
    | .error (e, off) => .error { cause := e, bad := lwOf (scratchKey c off) }
    | .ok hs => .ok hs

/-- The handles of the own core checked in order, up to the first of another core of the partition (R103). -/
def Mach.checkHandles (m : Mach) (c : Nat) (rt : Bool) : List Handle → Res (List Handle)
  | [] => .ok []
  | h :: t =>
    let p := (m.partOf c).getD 0
    if rt || !m.inPart p (hHome h) then m.checkHandles c rt t
    else if hHome h = c then
      match m.live p h with
      | .ok (_, k) => if ctlRt (m.ctl k) then .error { cause := .privileged } else m.checkHandles c rt t
      | .error _ => m.checkHandles c rt t
    else .ok (h :: t)

/-- Where the checks of an EFORK stand: all done, or the matrix list (`inMtx`) or the copy list waits for a remote handle. -/
inductive Forked where
  | ready
  | ask (inMtx : Bool) (rest : List Handle)
deriving DecidableEq, Repr, Inhabited

/-- The checks of EFORK from the handles `hs` of the current list on (R229, R368). -/
def Mach.forkFrom (m : Mach) (c : Nat) (rt inMtx : Bool) (mtx : Word) (hs : List Handle) : Res Forked := do
  let rest ← m.checkHandles c rt hs
  if !rest.isEmpty then return .ask inMtx rest
  if inMtx then return .ready
  let hs ← m.checkList c true mtx
  let rest ← m.checkHandles c rt hs
  return if rest.isEmpty then .ready else .ask true rest

/-- The sequences of an EFORK queued, its lease and slots present. -/
def Mach.fork (m : Mach) (c x : Nat) (pc : Word) (j : Nat) (copy mtx : Word) : Mach :=
  let n := (if copy = 0 then 0 else 1) + (if mtx = 0 then 0 else 1)
  let id := m.nextId
  let (k, m) := m.joinWord c x j n
  let m := if copy = 0 then m else m.queueSeq c x false pc (some (offOf copy)) [] k id
  if mtx = 0 then m else m.queueSeq c x true pc (some (offOf mtx)) [] k id

/-- Whether the cluster's lease allows a matrix list (R229). -/
def Mach.holdsLease (m : Mach) (c : Nat) : Bool := (m.cluster (clusterOf c)).holder == some c

/-- Whether each sequencer that an EFORK names has a free slot. -/
def Mach.forkRoom (m : Mach) (c : Nat) (copy mtx : Word) : Bool :=
  (copy == 0 || m.seqRoom c false) && (mtx == 0 || m.seqRoom c true)

/-- EFORK (R368, R229). (log 45, DEDUCED) -/
def execEfork (j c m : BitVec 5) (s : State) : Host.Outcome State Fault Refusal :=
  s.onMach (fun k =>
    let core := k.cur.core
    let checks : Res (Word × Word × Forked) := do
      let copy ← k.readW c
      let mtx ← k.readW m
      let hs ← k.checkList core false copy
      let f ← k.forkFrom core k.me.rt false mtx hs
      if f = .ready && mtx ≠ 0 && !k.holdsLease core then .error { cause := .leaseNotHeld }
      return (copy, mtx, f)
    match checks with
    | .error t => k.trapMe t
    | .ok (copy, mtx, .ask inMtx rest) =>
      (k.request (hHome (rest.headD 0)) (.handle .peek (rest.headD 0) false)).await
        (.efork (j.toNat + if inMtx then 32 else 0) copy mtx rest)
    | .ok (copy, mtx, .ready) =>
      if k.forkRoom core copy mtx then (k.fork core k.cur.ctx k.me.pc j.toNat copy mtx).done
      else k.stay (.seqSlot (copy != 0) (mtx != 0) false))

/-- The reply to an EFORK's question about a remote handle: the cause, or none (R229). Once every handle is checked, the
EFORK takes effect; where a sequencer has no free slot it is issued again. -/
def Mach.forkReply (m : Mach) (c x : Nat) (pc : Word) (j : Nat) (copy mtx : Word) (rest : List Handle) (out : Option Cause) : Mach :=
  match out with
  | some e => m.raise c x { cause := e } pc
  | none =>
    match m.forkFrom c (m.ctx c x).rt (decide (32 ≤ j)) mtx (rest.drop 1) with
    | .error t => m.raise c x t pc
    | .ok (.ask inMtx rest) =>
      let m := m.inject { id := 0, src := c, dst := hHome (rest.headD 0), core := c, task := (m.ctx c x).task, ctxs := [x], pc := pc,
                          body := .handle .peek (rest.headD 0) false }
      m.modCtx c x (fun v => { v with wait := .reply pc (.efork (j % 32 + if inMtx then 32 else 0) copy mtx rest) })
    | .ok .ready =>
      if mtx ≠ 0 && !m.holdsLease c then m.raise c x { cause := .leaseNotHeld } pc
      else if m.forkRoom c copy mtx then (m.fork c x pc (j % 32) copy mtx).modCtx c x Ctx.waited
      else m.modCtx c x (fun v => { v with pc := pc, wait := .seqSlot (copy != 0) (mtx != 0) true })

/-- CPY (R360, R230). -/
def execCpy (t : BitVec 5) (a b : BitVec 2) (s : State) : Host.Outcome State Fault Refusal :=
  s.onMach (fun m =>
    let recs : Res (List Word) := do
      let x ← m.readSh a
      let y ← m.readSh b
      return x ++ y
    match recs with
    | .error e => m.trapMe e
    | .ok ws =>
      if m.seqRoom m.cur.core false then
        let (k, m1) := m.joinWord m.cur.core m.cur.ctx t.toNat 1
        (m1.queueSeq m.cur.core m.cur.ctx false m.me.pc none ws k m.nextId).done
      else m.stay (.seqSlot true false false))

end Sys2Proof.Machine
end

