-- ==== Sys2Proof/Machine/Matrix.lean ====
section
/-!
DEFINITION. The matrix array: MZERO, MMA, MSTORE, WLOAD (R220, R221, R234 to R236, R392, R395, R397, R438), the lease
(R232, R233, R391, R394) and the gating of sub-arrays (R238, R265).
-/
namespace Sys2Proof.Machine

/-! ### Starting a matrix command (R233) -/

def leaseMax : Nat := 64
def leaseCycles : Nat := 200000
def weightSize : Nat := 0x800000

/-- Whether the lease that core `c` holds has reached a limit while another request is queued, so that no further command
starts under it (R233). -/
def Mach.leaseOver (m : Mach) (cl c : Nat) : Bool :=
  let k := m.cluster cl
  k.holder == some c && !k.fifo.isEmpty && (decide (leaseMax ≤ k.commands) || decide (leaseCycles ≤ (m.core c).cycles - k.grantedAt))

/-- With no request queued, the counts of a lease restart when one reaches its limit: that of cycles as often as it has, that of
commands with the command that reaches it (R233). -/
def Mach.renewLease (m : Mach) (cl : Nat) : Mach :=
  let k := m.cluster cl
  match k.holder with
  | none => m
  | some c =>
    let now := (m.core c).cycles
    let turns := (now - k.grantedAt) / leaseCycles
    if !k.fifo.isEmpty then m
    else if turns ≠ 0 then m.modCluster cl (fun k => { k with commands := 0, grantedAt := k.grantedAt + turns * leaseCycles })
    else if leaseMax ≤ k.commands then m.modCluster cl (fun k => { k with commands := 0, grantedAt := now })
    else m

/-- The classes of record that a matrix command allows (R227). -/
def matrixClasses (cl op : Nat) (b : Word) : Bool :=
  if op = 0x11 then isLw b || (isCg b && clusterOf (coreOf b) == cl) else allClasses b

/-- The first matrix sequence starts its command with record `r`: it is counted once per grant, its shape record is read, and
that record is checked, BANKFMT read then and no more (R29, R224, R233). (log 27, DEDUCED) -/
def Mach.matrixStart (m : Mach) (cl : Nat) (s : Seq) (r : Nat) : Seq × Mach :=
  let recs : List Word := if cmdOp r = 0x10 || !s.recs.isEmpty then s.recs
    else match m.shapeAt s.core (cmdWord r 4) with
      | .ok x => shapeWords x
      | .error _ => []
  let bad := if recs.isEmpty then none else m.checkRecord s.core (recOf recs) (matrixClasses cl (cmdOp r)) (cmdOp r == 0x12)
  let q := { s with counted := true, cmd := some r, recs := recs, bad := bad }
  let m := (m.modHead true cl (fun _ => q)).renewLease cl
  (q, (m.modCluster cl (fun c => if s.counted then c else { c with commands := c.commands + 1 })).renewLease cl)

/-- The shape record of a matrix command, as read when it started. -/
def Mach.matrixShape (m : Mach) (s : Seq) (r : Nat) : Eng Nat :=
  if s.recs.isEmpty then m.shapeAt s.core (cmdWord r 4) else .ok (recOf s.recs)

/-- A matrix command of opcode `op`: `f` gives its effect, or why it halts with none (R239). It stops with LEASE_EXPIRED if the
lease has passed on when it starts; one that has started goes on whoever holds the lease, and is done once its writes are
performed (R231, R233). (log 27, DEDUCED) -/
def Mach.matrixCommand (m : Mach) (cl op : Nat) (f : Mach → Seq → Nat → Eng Mach) : Mach :=
  (m.onCommand true cl op (fun s r =>
    if s.started then (if m.seqQuiet s.id then m.cmdDone true cl else m)
    else if s.cmd.isNone && (m.cluster cl).passed.contains s.core then m.haltCmd true cl s (.stop .leaseExpired none 0)
    else if s.cmd.isNone && !s.counted && m.leaseOver cl s.core then m
    else
      let (s, m) := if s.cmd.isSome then (s, m) else m.matrixStart cl s r
      match f m s r with
      | .error .wait =>
        match (match f m s.assumed r with | .error h => h.read | .ok _ => none) with
        | some q => m.sendAsk true cl s q
        | none => m
      | .error h => m.haltCmd true cl s h
      | .ok m =>
        let m := m.modHead true cl (fun s => { s with reads := [] })
        if m.seqQuiet s.id then m.cmdDone true cl else m.begun true cl r)).endCancelled cl

/-- A stop with no address. -/
def stopBare (e : Cause) : Halt := .stop e none 0

def needTile (r : Nat) : Eng Unit := if 16 ≤ cmdByte r 1 then .error (stopBare .accBounds) else .ok ()

/-- MZERO (R397). -/
def execMzero (cl : Nat) (s : State) : Host.Outcome State Fault Refusal :=
  s.onMach (fun m => m.matrixCommand cl 0x10 (fun m _ r => do
    needTile r
    .ok { m with mem := Mem.clear m.mem (accKey cl (cmdByte r 1) 0 0) 0x10000 }))

/-! ### Gating (R238, R265) -/

def breakEven : Int := 2304

/-- Cycles of a cluster's array on its own clock (R5). (log 46, DEDUCED) -/
def Mach.arrayCycles (m : Mach) (cl : Nat) : Nat := (m.cluster cl).cycles

/-- The predicted idle time after an idle period (R265). -/
def predict (p i : Int) : Int := p + (i - p) / 8

/-- A sub-array is used: a gated one wakes, and its idle period ends. -/
def Mach.useSub (m : Mach) (cl sub : Nat) : Mach :=
  let now := m.arrayCycles cl
  m.modCluster cl (fun c => { c with
    gated := eraseNat c.gated sub,
    predicted := Table.set c.predicted sub (predict (Table.get c.predicted sub 0) (now - Table.get c.idleFrom sub 0 : Nat)),
    idleFrom := Table.set c.idleFrom sub now })

/-- The MXGATE that rules a cluster: the lease holder's, or its first core's (R238). -/
def Mach.gateDelay (m : Mach) (cl : Nat) : Nat := field (m.core ((m.cluster cl).holder.getD (8 * cl))).mxgate 0 32

/-- SUBARRAY_GATE (R265). (log 64, DESIGN CHOICE) -/
def execSubarrayGate (cl sub : Nat) (s : State) : Host.Outcome State Fault Refusal :=
  s.onMach (fun m =>
    let c := m.cluster cl
    let idle := m.arrayCycles cl - Table.get c.idleFrom sub 0
    let delay := m.gateDelay cl
    if decide (sub < 16) && delay != 0 && decide (delay ≤ idle) && decide (breakEven ≤ Table.get c.predicted sub 0) then
      m.modCluster cl (fun c => { c with gated := insertNat c.gated sub })
    else m)

/-! ### The weight stream (R234) -/

/-- `n` bytes of a cluster's weight buffer. -/
def Mach.weightAt (m : Mach) (cl off n : Nat) : Nat := m.read (weightKey cl off) n

/-- Bits of the scales of a group of `n` elements. -/
def groupScaleBits (f n : Nat) : Nat :=
  if f = 11 || f = 12 || f = 13 then 20 * ((n + 15) / 16)
  else if f = 14 then 8 * ((n + 7) / 8) + 16
  else if f = 15 || f = 16 then 8 * ((n + 31) / 32)
  else 0

/-- One group of `n` elements at an offset of the buffer, before `stop`: its values and the offset after it. -/
def Mach.weightGroup (m : Mach) (cl f pos stop n : Nat) : Option (List FVal × Nat) :=
  if stop < pos + 8 then none
  else
    let map := m.weightAt cl pos 8
    let w := elemBits f 0
    let codes := bitCount 64 map * w
    let bits := codes + groupScaleBits f n
    let len := (bits + 63) / 64 * 8
    if map / 2 ^ n ≠ 0 || stop < pos + 8 + len then none
    else
      let x := m.weightAt cl (pos + 8) len
      if x / 2 ^ bits ≠ 0 then none
      else
        let scales := x / 2 ^ codes
        let elem (e : Nat) : FVal :=
          let code := if map.testBit e then x / 2 ^ (bitCount 64 (map % 2 ^ e) * w) % 2 ^ w else 0
          let el : Elem :=
            if f = 14 then { code := code, scale := scales / 2 ^ (8 * (e / 8)) % 256, band := scales / 2 ^ (8 * ((n + 7) / 8)) % 65536 }
            else if f = 15 || f = 16 then { code := code, scale := scales / 2 ^ (8 * (e / 32)) % 256 }
            else { code := code, scale := scales / 2 ^ (20 * (e / 16)) % 2 ^ 20 }
          elemValue f e el
        some ((List.range n).map elem, pos + 8 + len)

/-- One column: `k` elements in groups of 64. -/
def Mach.weightColumn (m : Mach) (cl f stop : Nat) : Nat → Nat → Nat → Option (List FVal × Nat)
  | 0, pos, _ => some ([], pos)
  | n + 1, pos, k =>
    if k = 0 then some ([], pos)
    else match m.weightGroup cl f pos stop (min 64 k) with
      | none => none
      | some (xs, pos) =>
        match m.weightColumn cl f stop n pos (k - min 64 k) with
        | none => none
        | some (ys, pos) => some (xs ++ ys, pos)

/-- The first `n` columns. -/
def Mach.weightColumns (m : Mach) (cl f stop k : Nat) : Nat → Nat → Option (List (List FVal) × Nat)
  | 0, pos => some ([], pos)
  | n + 1, pos =>
    match m.weightColumn cl f stop (k / 64 + 1) pos k with
    | none => none
    | some (c, pos) =>
      match m.weightColumns cl f stop k n pos with
      | none => none
      | some (cs, pos) => some (c :: cs, pos)

/-! ### MMA (R392, R235, R220) -/

/-- Columns, or rows, of the groups that a 4-bit mask selects. -/
def selected (mask : Nat) : List Nat := (List.range 128).filter (fun i => mask.testBit (i / 32))

/-- The chunk length (R220). -/
def chunkLen (f : Nat) : Nat := if f = 1 then 4 else if f = 2 || f = 3 || f = 14 then 8 else 16

/-- An accumulator element after a row and a column are summed in chunks (R220, R221). -/
def chunkSum (l : Nat) : Nat → Nat → List FVal → List FVal → Nat
  | 0, acc, _, _ => acc
  | n + 1, acc, a, b => chunkSum l n (dotF 0 (decodeF .f32 acc) ((a.take l).zip (b.take l))).1 (a.drop l) (b.drop l)

/-- The A record's own checks (R235). (log 46, DEDUCED) -/
def checkA (r : Nat) : Eng Unit := do
  let k := recExtent r 0
  if recDims r ≠ 2 || recExtent r 1 ≠ 128 then .error (stopBare .shapeExtent)
  if recFmt r = 0 then .error (stopBare .bankFormatMismatch)
  if k = 0 || k % chunkLen (recFmt r) ≠ 0 then .error (stopBare .shapeExtent)
  if blockElems (recFmt r) ≠ 0 && (List.range 128).any (fun i => (recSpot r (k * i)).elem % blockElems (recFmt r) ≠ 0) then
    .error (stopBare .shapeAlign)
  .ok ()

/-- The values of one row of A; an element whose read gets an error reply is zero, with an entry (R134). -/
def Mach.rowValues (m : Mach) (w : Agent) (r : Nat) : List Nat → Eng (List FVal × Mach)
  | [] => .ok ([], m)
  | k :: t =>
    let s := recSpot r k
    let w := { w with elem := k }
    let one : Eng (FVal × Mach) :=
      match m.readElem w (recFmt r) 0 (recFe r) s with
      | .ok (e, m) => .ok (elemValue (recFmt r) s.elem e, m)
      | .error (.reply e a) => .ok (.fin false 0, m.errorEntry w.core e a w.pc)
      | .error h => .error h
    match one with
    | .error h => .error h
    | .ok (v, m) =>
      match m.rowValues w r t with
      | .error h => .error h
      | .ok (vs, m) => .ok (v :: vs, m)

/-- The values of rows of A. -/
def Mach.rowsValues (m : Mach) (w : Agent) (r : Nat) : List Nat → Eng (List (Nat × List FVal) × Mach)
  | [] => .ok ([], m)
  | i :: t =>
    match m.rowValues w r ((List.range (recExtent r 0)).map (fun k => recExtent r 0 * i + k)) with
    | .error h => .error h
    | .ok (v, m) =>
      match m.rowsValues w r t with
      | .error h => .error h
      | .ok (vs, m) => .ok ((i, v) :: vs, m)

/-- The columns of the weight stream that COLS selects, all of the stream's checks passed (R234, R392). -/
def Mach.weights (m : Mach) (cl woff f k cols : Nat) : Eng (List (List FVal)) :=
  let bad : Halt := stopBare .weightDecompressError
  if woff % 64 ≠ 0 || weightSize < woff + 16 then .error bad
  else
    let h := m.weightAt cl woff 8
    let fmt := h % 32
    let len := h / 2 ^ 32
    let stop := woff + len
    let last := (selected cols).foldl max 0
    if fmt = 0 || 0x10 < fmt then .error bad
    else if fmt ≠ f then .error (stopBare .bankFormatMismatch)
    else if h / 2 ^ 16 % 2 ^ 16 ≠ k || weightSize < stop then .error bad
    else match m.weightColumns cl f stop k (last + 1) (woff + 16) with
      | none => .error bad
      | some (cs, pos) => if last = 127 && pos ≠ stop then .error bad else .ok cs

/-- The accumulations of an MMA. -/
def Mach.accumulate (m : Mach) (cl tile l n : Nat) (rows : List (Nat × List FVal)) (cols : List (List FVal)) (js : List Nat) : Mach :=
  rows.foldl (fun m p => js.foldl (fun m j =>
    let k := accKey cl tile p.1 j
    m.write k 4 (chunkSum l n (m.read k 4) p.2 (cols.getD j []))) m) m

/-- MMA (R392). (log 27, DEDUCED) -/
def Mach.mma (m : Mach) (cl : Nat) (s : Seq) (r : Nat) : Eng Mach := do
  needTile r
  let rows := cmdByte r 2 % 16
  let cols := cmdByte r 2 / 16
  if rows = 0 || cols = 0 then return m
  let a ← m.matrixShape s r
  match s.bad with
  | some e => .error (stopBare e)
  | none =>
    if ((recAxes a).drop 1).any (fun x => x.1 == 0) then return m
    checkA a
    let k := recExtent a 0
    let ws ← m.weights cl (cmdWord r 8) (recFmt a) k cols
    let (vs, m) ← m.rowsValues s.agent a (selected rows)
    let subs := (List.range 16).filter (fun q => rows.testBit (q / 4) && cols.testBit (q % 4))
    let m := subs.foldl (fun m q => m.useSub cl q) m
    return { m.accumulate cl (cmdByte r 1) (chunkLen (recFmt a)) (k / chunkLen (recFmt a)) vs ws (selected cols) with
      matrixRan := insertNat m.matrixRan (dieOfCore (8 * cl)) }

/-- MMA (R392). -/
def execMma (cl : Nat) (s : State) : Host.Outcome State Fault Refusal :=
  s.onMach (fun m => m.matrixCommand cl 0x11 (fun m q r => m.mma cl q r))

/-! ### MSTORE (R395, R236) -/

/-- MSTORE (R395): every element is translated before the first write. (log 27, DEDUCED) -/
def Mach.mstore (m : Mach) (cl : Nat) (s : Seq) (r : Nat) : Eng Mach := do
  needTile r
  let d ← m.matrixShape s r
  match s.bad with
  | some e => .error (stopBare e)
  | none =>
    if recCount d = 0 then return m
    if recDims d ≠ 2 || recExtent d 0 ≠ 128 || recExtent d 1 ≠ 128 then .error (stopBare .shapeExtent)
    if recFmt d = 0 then .error (stopBare .bankFormatMismatch)
    if blockElems (recFmt d) ≠ 0 && (List.range 128).any (fun i => (recSpot d (128 * i)).elem % blockElems (recFmt d) ≠ 0) then
      .error (stopBare .shapeAlign)
    let ks := List.range 16384
    let sc := (cmdByte r 3).testBit 0
    let acc (k : Nat) : Nat := m.read (accKey cl (cmdByte r 1) (k / 128) (k % 128)) 4
    let val (k : Nat) : FVal :=
      if sc then (decodeF .f32 (acc k)).times (decodeF .f32 (cmdWord r 8)) else decodeF .f32 (acc k)
    let puts : List Put := ks.map (fun k => { k := k, spot := recSpot d k, val := val k })
    let es : List (Put × Elem) :=
      if !sc && recFmt d == 1 then puts.map (fun p => (p, { code := acc p.k }))
      else (encodeAll (recFmt d) s.rm s.sat m.free puts puts s.gen).1
    let g := (encodeAll (recFmt d) s.rm s.sat m.free puts puts s.gen).2
    let ws := es.map (fun p => elemWrite d p.1.k p.2)
    match ({ m with free := m.free + 3 * 16384 } : Mach).writesHalt s.agent true ws with
    | (none, m) =>
      return (m.writeElems s.agent (recFe d) true ws).modHead true cl (fun q => { q with gen := if !sc && recFmt d == 1 then q.gen else g })
    | (some (_, h), _) => .error h

/-- MSTORE (R395). -/
def execMstore (cl : Nat) (s : State) : Host.Outcome State Fault Refusal :=
  s.onMach (fun m => m.matrixCommand cl 0x12 (fun m q r => m.mstore cl q r))

/-! ### WLOAD (R438) -/

/-- An address of a source translated; a parkable block must be served (R438). -/
def Mach.translateOne (m : Mach) (c : Nat) (a : Word) : Eng Mach :=
  match m.engPlace c a .engineRead with
  | .ok (.global pa pte, m) =>
    if ptePk pte && !m.outOfRange ((m.partOf c).getD 0) pa && ((m.blockAt pa).filter Block.served).isNone then
      .error (.stop .blockAbsent a 0)
    else .ok m
  | .ok (_, m) => .ok m
  | .error (.reply _ _) => .ok m
  | .error h => .error h

/-- The first and the last byte of every element of a source translated before the first read (R438). -/
def Mach.translateAll (m : Mach) (c r : Nat) : List Nat → Eng Mach
  | [] => .ok m
  | n :: t =>
    let a := (recSpot r n).byte
    match m.translateOne c a with
    | .error h => .error h
    | .ok m =>
      match m.translateOne c (a + BitVec.ofNat 64 (2 ^ recLsz r - 1)) with
      | .error h => .error h
      | .ok m => m.translateAll c r t

/-- The bytes of every element of a RAW record in order; an error reply gives zeros, with an entry. -/
def Mach.rawBytes (m : Mach) (w : Agent) (r : Nat) : List Nat → Eng (List Byte × Mach)
  | [] => .ok ([], m)
  | k :: t =>
    let n := 2 ^ recLsz r
    let w := { w with elem := k }
    let one : Eng (Nat × Mach) :=
      match m.engRead w (recSpot r k).byte n (recFe r) with
      | .error (.reply e a) => .ok (0, m.errorEntry w.core e a w.pc)
      | x => x
    match one with
    | .error h => .error h
    | .ok (v, m) =>
      match m.rawBytes w r t with
      | .error h => .error h
      | .ok (bs, m) => .ok (toBytes n v ++ bs, m)

/-- WLOAD (R438). (log 27, DEDUCED) -/
def Mach.wload (m : Mach) (cl : Nat) (s : Seq) (r : Nat) : Eng Mach := do
  let a ← m.matrixShape s r
  let woff := cmdWord r 8
  if recReserved a then .error (stopBare .reservedField)
  if recDims a = 0 || 5 < recDims a || 0x10 < recFmt a then .error (stopBare .shapeExtent)
  if recFmt a ≠ 0 then .error (stopBare .bankFormatMismatch)
  match s.bad with
  | some e => .error (stopBare e)
  | none =>
    let len := recCount a * 2 ^ recLsz a
    if len = 0 then return m
    if woff % 8 ≠ 0 || weightSize < woff + len then .error (stopBare .weightDecompressError)
    let ks := List.range (recCount a)
    let m ← m.translateAll s.core a ks
    let (bs, m) ← m.rawBytes s.agent a ks
    return { m with mem := Mem.writeAll m.mem ((List.range len).zip bs |>.map (fun p => (weightKey cl woff + p.1, p.2))) }

/-- WLOAD (R438). -/
def execWload (cl : Nat) (s : State) : Host.Outcome State Fault Refusal :=
  s.onMach (fun m => m.matrixCommand cl 0x13 (fun m q r => m.wload cl q r))

/-! ### The lease (R232, R233, R391, R394) -/

/-- MLEASE (R391). -/
def execMlease (t : BitVec 5) (s : State) : Host.Outcome State Fault Refusal :=
  s.onMach (fun m =>
    let c := m.cur.core
    let cl := clusterOf c
    if (m.cluster cl).holder = some c then (m.writeW t 0).done
    else
      let id := m.nextId
      let m := (m.renewLease cl).late (m.lateW t) (.token false)
      let asked := (m.cluster cl).fifo.any (fun e => e.1 == c)
      (m.modCluster cl (fun k => { k with
        fifo := if asked then k.fifo.map (fun e => if e.1 = c then (e.1, e.2 ++ [id]) else e) else k.fifo ++ [(c, [id])] })).done)

/-- MREL (R394): the handover waits for the core's matrix sequences. -/
def execMrel (s : State) : Host.Outcome State Fault Refusal :=
  s.onMach (fun m => m.settle (
    let c := m.cur.core
    let cl := clusterOf c
    if (m.cluster cl).holder ≠ some c then .error { cause := .leaseNotHeld }
    else .ok (m.modCluster cl (fun k => { k with holder := none, leaving := some c })).done))

/-- The lease passes to the first request. -/
def Mach.grantLease (m : Mach) (cl : Nat) : Mach :=
  match (m.cluster cl).fifo with
  | [] => m
  | (c, ids) :: t =>
    let m := m.modCluster cl (fun k => { k with
      holder := some c, leaving := none, fifo := t, commands := 0, grantedAt := (m.core c).cycles,
      passed := eraseNat k.passed c,
      seqs := k.seqs.map (fun s => if s.core = c then { s with counted := false } else s) })
    ids.foldl (fun m id => m.resolve id 0) m

/-- LEASE_GRANT (R232): the lease is free, and the last holder's matrix sequences have ended. -/
def execLeaseGrant (cl : Nat) (s : State) : Host.Outcome State Fault Refusal :=
  s.onMach (fun m =>
    let k := m.cluster cl
    if k.holder.isSome || k.leaving.any (fun c => k.seqs.any (fun s => s.core == c)) then m else m.grantLease cl)

/-- LEASE_EXPIRY (R233): a count is at its limit. With no request queued both counts restart. -/
def execLeaseExpiry (cl : Nat) (s : State) : Host.Outcome State Fault Refusal :=
  s.onMach (fun m =>
    let k := m.cluster cl
    match k.holder with
    | none => m
    | some c =>
      let cycles := (m.core c).cycles
      if k.commands < leaseMax && cycles - k.grantedAt < leaseCycles then m
      else if k.fifo.isEmpty then m.renewLease cl
      else (m.modCluster cl (fun k => { k with passed := insertNat k.passed c })).grantLease cl)

end Sys2Proof.Machine
end

