-- ==== Sys2Proof/Machine/Kill.lean ====
section
/-!
DEFINITION. Kills of tasks (R247), the LDS withdrawals of R385, and a core at its reset values (R24, R279).
-/
namespace Sys2Proof.Machine

/-! ### Withdrawing an LDS (R385) -/

/-- The request of an LDS that a task waits for is withdrawn if it has not been performed: its destination words are as
before. (log 15, DEDUCED) -/
def Mach.withdraw (m : Mach) (id : Nat) : Bool × Mach :=
  match m.findPend id with
  | none => (false, m)
  | some p =>
    match p.late with
    | .token _ => (true, ((m.fillAll p.wasFull).dropWaiter p.id).dropPend p.id)
    | .parts q =>
      match q.wait with
      | w :: _ =>
        if m.packets.any (fun r => r.answers != 0 && (w.2.2 :: m.carriers m.packets.length w.2.2).contains r.answers) then (false, m)
        else (true, (((m.fillAll p.wasFull).dropWaiter w.2.2).retire w.2.2).dropPend p.id)
      | [] => (false, m)
    | _ => (false, m)

/-! ### Kills (R247) -/

/-- Late results of a task are discarded when they return; one that holds a fault-queue entry loses it (R378).
(log 55, DEDUCED) -/
def Mach.dropPends (m : Mach) (c task : Nat) : Mach :=
  let mine (p : Pend) : Bool := p.core == c && p.task == task
  let lost := (m.pends.filter (fun p => mine p && p.entry)).length
  let m := { m with pends := m.pends.filter (fun p => !mine p) }
  if lost = 0 then m
  else m.modDiePart (dieOfCore c) ((m.partOf c).getD 0) (fun q => { q with lost := min 65535 (q.lost + lost) })

/-- Messages of a task that have not been injected are discarded. (log 55, DEDUCED) -/
def Mach.dropSends (m : Mach) (c task : Nat) : Mach :=
  let mine (p : Packet) : Bool :=
    p.core == c && p.src == c && p.task == task && p.phase == .waiting && (match p.body with | .message _ _ => true | _ => false)
  let n := (m.packets.filter mine).length
  ({ m with packets := m.packets.filter (fun p => !mine p) } : Mach).modCore c (fun r => { r with sendq := r.sendq - n })

/-- The applications that a waiting instruction of a killed task has taken and neither queued nor sent (R102, R118): the lanes
of an APPLYV at the own core, and those of an AWAIT or AWAITV whose park requests are still to come. (log 55, DEDUCED) -/
def Ctx.taken (c : Nat) (v : Ctx) : List Handle :=
  match v.wait with
  | .reply _ (.lanes todo) => (todo.map (·.1)).filter (fun h => hHome h == c)
  | .reply _ (.take _ todo all) => (all.take (all.length - todo.length)).map (·.2.1)
  | .reply _ (.park _ todo _) => (todo.drop 1).map (·.2.1)
  | _ => []

/-- What a killed task leaves: its results, sends and sequences end, its pin, channel slot and applications are given up, and
its frame is released whatever its pins (R104). (log 55, DEDUCED) -/
def Mach.killed (m : Mach) (c : Nat) (v : Ctx) : Mach :=
  let m := m.settleOwn c
  let m := match v.wait with | .sync id => (m.withdraw id).2 | _ => m
  let m := (v.taken c).foldl (fun m h => m.endFlight c h) m
  let m := (((m.dropPends c v.task).dropSends c v.task).cancelTask c v.task).giveUp c v
  match (m.core c).frameNo v.wp with
  | some i => m.releaseFrame c i
  | none => m

/-- Kills the live task of context `x`, a helper or level 1. (log 55, DEDUCED) -/
def Mach.killCtx (m : Mach) (c x : Nat) : Mach :=
  let v := m.ctx c x
  (m.killed c v).setCtx c x (endedCtx x v)

/-- Kills the held tasks, and those made ready again, that `which` names. (log 55, DEDUCED) -/
def Mach.killHolds (m : Mach) (c : Nat) (which : Hold → Bool) : Mach :=
  let r := m.core c
  let hs := (r.holds ++ r.resumed).filter which
  hs.foldl (fun m h => m.killed c h.ctx)
    (m.modCore c (fun r => { r with holds := r.holds.filter (fun h => !which h), resumed := r.resumed.filter (fun h => !which h) }))

/-- The contexts of a core whose task bears a tag. -/
def Mach.tagged (m : Mach) (c q : Nat) : List Nat :=
  ((List.range 12).drop 1).filter (fun x => (m.ctx c x).live && (m.ctx c x).tag == some q)

/-- Whether a core runs a task with a tag, held tasks included. -/
def Mach.runsTag (m : Mach) (c q : Nat) : Bool :=
  !(m.tagged c q).isEmpty || ((m.core c).holds ++ (m.core c).resumed).any (fun h => h.ctx.tag == some q)

/-- The entries with a tag leave a core's deque and wake queue; their flights and pins are given up. (log 55, DEDUCED) -/
def Mach.dropTagged (m : Mach) (c q : Nat) : Mach :=
  let has (e : Entry) : Bool := e.tag == some q
  let r := m.core c
  let gone := (r.spill.flatMap (·.2) ++ r.deque ++ r.wakes).filter has
  let spill := (r.spill.map (fun f => (f.1, f.2.filter (fun e => !has e)))).filter (fun f => !f.2.isEmpty)
  let freed := (r.spill.map (·.1)).filter (fun i => !(spill.map (·.1)).contains i)
  let m := m.modCore c (fun r => { r with spill := spill, deque := r.deque.filter (fun e => !has e),
                                          wakes := r.wakes.filter (fun e => !has e),
                                          used := r.used.filter (fun i => !freed.contains i) })
  let m := (gone.filterMap (·.pin)).foldl (fun m p => m.sendUnpin c p) m
  (m.refill c).dropFlights c gone

/-- A waiter's flight is given up by its slice at the handle's home (R247). -/
def Mach.waiterFlight (m : Mach) (s : Nat) (w : Waiter) : Mach :=
  m.inject { id := 0, src := sliceEnd s, dst := hHome w.h, body := .handle .unfly w.h true, core := w.core }

/-- Parked waiters with a tag leave a partition's blocks; their flights are given up. (log 55, DEDUCED) -/
def Mach.dropParked (m : Mach) (p q : Nat) : Mach :=
  let has (w : Waiter) : Bool := w.tag == some q
  let gone := (m.blocks.filter (fun b => b.part == p)).flatMap (fun b => (b.queue.filter has).map (fun w => (b.slice, w)))
  let blocks := (m.blocks.map (fun b => if b.part = p then { b with queue := b.queue.filter (fun w => !has w) } else b)).filter
    (fun b => !(b.state == .queued && b.queue.isEmpty))
  gone.foldl (fun m g => m.waiterFlight g.1 g.2) { m with blocks := blocks }

/-- Whether every request of the killed tasks of a core has returned or completed, stores that wait to be combined and those
combined with another task's included (R247). (log 32, DEDUCED) -/
def Mach.quietTag (m : Mach) (c : Nat) (tasks : List Nat) : Bool :=
  !m.packets.any (fun p => p.answers == 0 && p.core == c && (tasks.contains p.task || p.also.any tasks.contains)) &&
  !(m.core c).combine.any (fun e => e.tasks.any tasks.contains)

/-! ### Cores at reset (R24, R275, R279) -/

/-- A core's registers and scratchpad at their reset values. Banks marked failed stay so until power-on (R137), and the slice
maps it was sent are no register of it (R147); its place in the network is not touched, and requests that wait there are still
to be answered (R179). -/
def Mach.resetCore (m : Mach) (c : Nat) : Mach :=
  let r := m.core c
  let m := (m.folds.filter (fun f => f.core == c)).foldl Mach.endFold (m.wipe c 0 0x200000)
  { m with
    cores := Table.set m.cores c { failed := r.failed, corrections := r.corrections, maps := r.maps,
                                     waiters := r.waiters.filter (fun w => (m.packet w.1).isSome) },
    ctxs := (List.range 12).foldl (fun t x => Table.drop t (16 * c + x)) m.ctxs,
    pends := m.pends.filter (fun p => p.core != c),
    foldStores := m.foldStores.filter (fun f => f.core != c),
    ownStores := m.ownStores.filter (fun w => w.1 != c),
    invals := m.invals.filter (fun v => v.core != c),
    scratchBad := m.scratchBad.filter (fun k => keyCore k != c), l1Bad := m.l1Bad.filter (fun b => b.1 != c) }

end Sys2Proof.Machine
end

