-- ==== Sys2Proof/Machine/Registers.lean ====
section
/-!
DEFINITION. The system registers: their values (R24, R361) and the outcome of a write of each (R25 to R31, R362). Each
write is one operation that CSWR and the register's own row of the table share.
-/
namespace Sys2Proof.Machine

/-! ### Values -/

def boolNat (b : Bool) : Nat := if b then 1 else 0

/-- FQHEAD (R254). -/
def DiePart.fqHead (q : DiePart) : Nat :=
  q.lost * 2 ^ 32 + ((q.fq.head?.map (·.1)).getD q.seq) * 2 ^ 16 + q.fq.length

/-- PARTCFG of a die, whose E2E is `e2e` (R275). -/
def Part.cfg (x : Part) (p e2e : Nat) : Nat :=
  x.rows * 2 ^ 48 + boolNat x.expert * 2 ^ 47 + p * 2 ^ 44 + e2e * 2 ^ 40 + x.pcb

/-- CAPS0 to CAPS7 (R443, R232, R265). -/
def capsValue (n : Nat) (image : Option (List Byte)) : Nat :=
  match n with
  | 0 => (Config.fwifPred image + 1) * 2 ^ 32 + (Config.steppingPred + 1) * 2 ^ 16 + 0x4E30
  | 2 => 0x030D40 * 2 ^ 24 + 0x40 * 2 ^ 16 + 0x17C
  | 3 => 0x1800 * 2 ^ 48 + 0x0C00 * 2 ^ 32 + 0x0900 * 2 ^ 16
  | _ => 0

/-- The value of the register at an index other than FDUTY. (log 9, DEDUCED) -/
def Mach.csr (m : Mach) (i : Nat) : Word :=
  let v := m.me
  let r := m.myCore
  let p := m.myPart
  if i = 0x000 then BitVec.ofNat 64 v.wp
  else if i = 0x001 then v.pc
  else if i = 0x002 then v.cause
  else if i = 0x003 then v.badaddr
  else if i = 0x004 then v.brsrc
  else if i = 0x005 then v.trappc
  else if i = 0x010 then v.fpmode
  else if i = 0x011 then v.fpflags.setWidth 64
  else if i = 0x012 then v.policy
  else if i = 0x013 then v.foldstat
  else if i = 0x014 then r.tasklim
  else if i = 0x020 then BitVec.ofNat 64 r.cycles
  else if i = 0x021 then BitVec.ofNat 64 m.now
  else if i = 0x022 then BitVec.ofNat 64 m.cur.core
  else if i = 0x023 then r.teamid
  else if i = 0x024 then BitVec.ofNat 64 r.stealdom
  else if i = 0x030 then BitVec.ofNat 64 r.carve
  else if i = 0x031 then r.envcfg
  else if i = 0x032 then r.wspool
  else if i = 0x033 then r.mxgate
  else if 0x040 ≤ i && i < 0x048 then (m.chan m.cur.core (i - 0x040)).cfg
  else if 0x050 ≤ i && i < 0x058 then BitVec.ofNat 64 (capsValue (i - 0x050) m.image)
  else if 0x100 ≤ i && i < 0x140 then BitVec.ofNat 64 (r.bankfmt.getD (i - 0x100) 0)
  else if i = 0x800 then (m.diePart (dieOfCore m.cur.core) p).brcfg
  else if i = 0x801 then BitVec.ofNat 64 (m.diePart (dieOfCore m.cur.core) p).fqHead
  else if i = 0x802 then BitVec.ofNat 64 ((m.part p).cfg p (m.diePart (dieOfCore m.cur.core) p).e2e)
  else 0

/-- FDUTY as a core reads it: in the cycle of a change, the old or the new duty (R263, R361). (log 13, DESIGN CHOICE) -/
def State.fduty (s : State) (c : Nat) : Nat × State :=
  match Table.find s.power.dutyWas c with
  | some (at_, old) =>
    if (s.m.core c).cycles ≤ at_ + 1 then
      (if Config.seesNewDuty s.m.free then s.power.dutyOf c else old, { s with m := { s.m with free := s.m.free + 1 } })
    else (s.power.dutyOf c, s)
  | none => (s.power.dutyOf c, s)

/-- Whether a register may be named only at runtime privilege, and whether only its write is (R24, R25). -/
def csrRuntime (i : Nat) : Bool :=
  i == 0x005 || i == 0x014 || i == 0x023 || (0x030 ≤ i && i < 0x034) || (0x040 ≤ i && i < 0x048) || (0x800 ≤ i && i < 0x803)

/-- CSRD (R361, R25). -/
def execCsrd (d : BitVec 5) (i : BitVec 12) (s : State) : Host.Outcome State Fault Refusal :=
  if i = 0x034 then
    let (v, s) := s.fduty s.m.cur.core
    s.onMach (fun m => (m.writeW d (BitVec.ofNat 64 v)).done)
  else
    s.onMach (fun m =>
      if csrRuntime i.toNat && !m.me.rt then m.trapMe { cause := .privileged, bad := m.wordBad }
      else (m.writeW d (m.csr i.toNat)).done)

/-! ### Scope C -/

/-- A write of WP (R27). (log 14, DEDUCED) -/
def Mach.writeWp (m : Mach) (v : Word) : Res Mach :=
  let c := m.cur.core
  let bad : Res Mach := .error { cause := .workspaceBounds }
  match (m.core c).frameNo v.toNat with
  | none => bad
  | some i =>
    if m.cur.ctx = 0 && ((v.toNat ≠ m.me.wp && m.frameLive c i) || i + 1 == (m.core c).poolCount) then bad
    else .ok (m.modMe (fun x => { x with wp := v.toNat }))

/-- A write of FPMODE, which reseeds the generator (R209, R213). -/
def Mach.writeFpmode (m : Mach) (v : Word) : Res Mach :=
  if 5 ≤ field v 0 3 || field v 8 2 = 3 then .error { cause := .reservedField }
  else
    let v := v &&& 0xFFFFFFFF0000030F
    .ok (m.modMe (fun x => { x with fpmode := v, gen := seedGen v m.cur.core m.cur.ctx m.now }))

/-- A write of FPFLAGS, and of FOLDSTAT: bits written as 1 clear (R211, R198). -/
def Mach.writeFpflags (m : Mach) (v : Word) : Mach := m.modMe (fun x => { x with fpflags := clearFlags x.fpflags v })
def Mach.writeFoldstat (m : Mach) (v : Word) : Mach := m.modMe (fun x => { x with foldstat := x.foldstat &&& ~~~v })

/-! ### Scope K -/

/-- Whether the pool and the store lie in a scratchpad of `size` bytes. -/
def Core.fits (r : Core) (size : Nat) : Bool :=
  decide (r.poolBase + 2048 * r.poolCount ≤ size) && decide (r.envBase + 96 * r.envCount ≤ size)

/-- CARVE takes a value: as the scratchpad grows, its new banks are RAW and the L1 keeps no more lines than it holds;
as it shrinks, the released words are discarded, with the stores to them, and are full for an LDS that waits at one (R28).
(log 14, DEDUCED; log 67, DESIGN CHOICE) -/
def Mach.recarve (m : Mach) (c v : Nat) : Mach :=
  let m := m.settleOwn c
  let r := m.core c
  let old := r.scratchSize
  let new := ({ r with carve := v } : Core).scratchSize
  let m := if new < old then
      let m := m.wipe c new (old - new)
      { m with scratchBad := m.scratchBad.filter (fun k => !(keyCore k == c && decide (new ≤ keyOff k))) }
    else m
  m.modCore c (fun r => { r with
    carve := v,
    l1 := r.l1.drop (r.l1.length - v * 1024),
    bankfmt := (List.range 64).map (fun b =>
      if old ≤ 32768 * b && 32768 * b < new then 0 else r.bankfmt.getD b 0) })

/-- A write of CARVE (R28). The value is its bits [2:0]: bits above are ignored and read zero.
(log 9, DEDUCED; log 14, DEDUCED) -/
def Mach.writeCarve (m : Mach) (v : Word) : Res Mach :=
  let c := m.cur.core
  let r := m.core c
  if field v 0 3 < 2 || 6 < field v 0 3 then .error { cause := .reservedField }
  else if field r.teamid 0 16 ≠ 0 then .error { cause := .barrierTeamInvalid }
  else if !r.fits ({ r with carve := field v 0 3 } : Core).scratchSize then .error { cause := .workspaceBounds }
  else .ok (m.recarve c (field v 0 3))

/-- Whether bank `b` holds any part of `n` bytes from `base`. -/
def bankHolds (b base n : Nat) : Bool := decide (base < 32768 * (b + 1)) && decide (32768 * b < base + n)

/-- A write of BANKFMT[b] (R29). Bits above [4:0] are ignored and read zero. (log 9, DEDUCED) -/
def Mach.writeBankfmt (m : Mach) (b : Nat) (v : Word) : Res Mach :=
  let r := m.myCore
  let f := field v 0 5
  if 0x11 ≤ f then .error { cause := .reservedField }
  else if f ≠ 0 && (bankHolds b r.poolBase (2048 * r.poolCount) || bankHolds b r.envBase (96 * r.envCount) ||
      decide (r.scratchSize ≤ 32768 * b)) then .error { cause := .bankFormatMismatch }
  else .ok (m.modCore m.cur.core (fun r => { r with bankfmt := r.bankfmt.set b f }))

/-- The condition of R30 on the time of a write: no helper is live and no frame of the store is referenced. -/
def Mach.storeIdle (m : Mach) (c : Nat) : Bool :=
  !((List.range 10).any (fun x => (m.ctx c (x + 1)).live)) &&
  (List.range (m.core c).envCount).all (fun i =>
    let w := m.ctl (m.envKey c i)
    ctlRefs w == 0 && ctlFlight w == 0)

/-- The condition of R30 on the two regions: RAW scratchpad banks, no overlap. -/
def Core.regionsOk (r : Core) : Bool :=
  let pool := 2048 * r.poolCount
  let env := 96 * r.envCount
  r.fits r.scratchSize &&
  (List.range 64).all (fun b => !(bankHolds b r.poolBase pool || bankHolds b r.envBase env) || r.bankfmt.getD b 0 == 0) &&
  (decide (r.poolBase + pool ≤ r.envBase) || decide (r.envBase + env ≤ r.poolBase))

/-- ENVCFG or WSPOOL takes a value, if R30 allows it. -/
def Mach.writeRegion (m : Mach) (r : Core) (pool : Bool) : Res Mach :=
  let c := m.cur.core
  if !m.storeIdle c then .error { cause := .helperExhausted }
  else if !r.regionsOk || (pool && (r.frameNo (m.ctx c 0).wp).isNone) then .error { cause := .workspaceBounds }
  else .ok (m.setCore c r)

/-- A write of ENVCFG (R93, R30). -/
def Mach.writeEnvcfg (m : Mach) (v : Word) : Res Mach :=
  let n := field v 32 16
  if n = 0 || 16384 < n || field v 0 12 ≠ 0 then .error { cause := .reservedField }
  else m.writeRegion { m.myCore with envcfg := v &&& 0x0000FFFF001FFFFF } false

/-- A write of WSPOOL (R363, R30). (log 14, DEDUCED) -/
def Mach.writeWspool (m : Mach) (v : Word) : Res Mach :=
  let n := field v 32 16
  if n < 3 || 1024 < n || field v 0 11 ≠ 0 then .error { cause := .reservedField }
  else m.writeRegion { m.myCore with wspool := v &&& 0x0000FFFF001FFFFF } true

/-- A write of STEALDOM (R81). -/
def Mach.writeStealdom (m : Mach) (v : Word) : Res Mach :=
  if 5 ≤ field v 0 3 then .error { cause := .stealDomainInvalid }
  else .ok (m.modCore m.cur.core (fun r => { r with stealdom := field v 0 3 }))

/-- A write of TEAMID (R85). The manual does not say how a team is configured: the first write that names a team no other
core of the partition holds configures it, on the group named, with no phase completed (R86). DESIGN CHOICE.
(log 10, DESIGN CHOICE) -/
def Mach.writeTeamid (m : Mach) (v : Word) : Mach :=
  let c := m.cur.core
  let p := m.myPart
  let t := field v 0 16
  let held := (m.coresOf p).any (fun d => d != c && field (m.core d).teamid 0 16 == t)
  let m := m.modCore c (fun r => { r with teamid := v &&& 0xFFFFFFFF })
  if t = 0 || held then m
  else m.modPart p (fun x => { x with teams := Table.set x.teams t { group := field v 16 6 } })

/-! ### Scope D -/

/-- The pool units that the configured partitions other than `p` hold on a die (R111). -/
def Mach.poolOthers (m : Mach) (d p : Nat) : Nat :=
  (((List.range 8).filter (fun q => q != p && (m.part q).state != .absent)).map (fun q => field (m.diePart d q).brcfg 0 9)).foldl (· + ·) 0

/-- A write of BRCFG (R110, R111); without EXPERT, WAITMAX and AGESHIFT keep their values (R6). A slice acts on the
value before until it takes the new one (R31). -/
def Mach.writeBrcfg (m : Mach) (v : Word) : Res Mach :=
  let p := m.myPart
  let d := dieOfCore m.cur.core
  let old := (m.diePart d p).brcfg
  let expert : Word := 0xFFF0000F00000000
  let keep := if (m.part p).expert then 0 else expert
  let new := (v &&& 0xFFFFFFFFFFFF01FF &&& ~~~keep) ||| (old &&& keep)
  if 320 < field new 0 9 || 320 < m.poolOthers d p + field new 0 9 then .error { cause := .reservedField }
  else
    let m := (List.range 32).foldl (fun m i => m.modSlice (32 * d + i) (fun x =>
      { x with brcfg := Table.set x.brcfg p (Table.get x.brcfg p old) })) m
    .ok (m.modDiePart d p (fun q => { q with brcfg := new }))

/-- A write of PARTCFG of a die: E2E, with EXPERT set (R275). The die's slices and its launcher act on the value before until
they take the new one (R31). -/
def Mach.writePartcfg (m : Mach) (v : Word) : Res Mach :=
  let p := m.myPart
  let d := dieOfCore m.cur.core
  let old := (m.diePart d p).e2e
  if !(m.part p).expert then .ok m
  else if 7 < field v 40 4 then .error { cause := .reservedField }
  else
    let m := (List.range 32).foldl (fun m i => m.modSlice (32 * d + i) (fun x =>
      { x with e2e := Table.set x.e2e p (Table.get x.e2e p old) })) m
    let m := m.modDie d (fun x => { x with e2e := Table.set x.e2e p (Table.get x.e2e p old) })
    .ok (m.modDiePart d p (fun q => { q with e2e := field v 40 4 }))

/-! ### Writes -/

/-- A write of the register at an index (R362). (log 9, DEDUCED) -/
def Mach.writeCsr (m : Mach) (i : Nat) (v : Word) : Res Mach :=
  let c := m.cur.core
  if i = 0x000 then m.writeWp v
  else if i = 0x005 then .ok (m.modMe (fun x => { x with trappc := v }))
  else if i = 0x010 then m.writeFpmode v
  else if i = 0x011 then .ok (m.writeFpflags v)
  else if i = 0x012 then .ok (m.modMe (fun x => { x with policy := v &&& 0xFFFFFFFF }))
  else if i = 0x013 then .ok (m.writeFoldstat v)
  else if i = 0x014 then .ok (m.modCore c (fun r => { r with tasklim := v &&& 0xFFFFFFFF }))
  else if i = 0x023 then .ok (m.writeTeamid v)
  else if i = 0x024 then m.writeStealdom v
  else if i = 0x030 then m.writeCarve v
  else if i = 0x031 then m.writeEnvcfg v
  else if i = 0x032 then m.writeWspool v
  else if i = 0x033 then .ok (m.modCore c (fun r => { r with mxgate := v &&& 0xFFFFFFFF }))
  else if 0x040 ≤ i && i < 0x048 then m.writeChcfg (i - 0x040) v
  else if 0x100 ≤ i && i < 0x140 then m.writeBankfmt (i - 0x100) v
  else if i = 0x800 then m.writeBrcfg v
  else if i = 0x802 then m.writePartcfg v
  else .ok m

/-- The checks of a write at an index, then the write `f` of the word read (R25, R362). -/
def Mach.cswr (m : Mach) (a : BitVec 5) (i : Nat) (f : Mach → Word → Res Mach) : Mach :=
  m.settle (do
    if (csrRuntime i || i == 0) && !m.me.rt then .error { cause := .privileged, bad := m.wordBad }
    let v ← m.readW a
    let m ← f m v
    .ok m.done)

/-- CSWR (R362, R25). -/
def execCswr (a : BitVec 5) (i : BitVec 12) (s : State) : Host.Outcome State Fault Refusal :=
  s.onMach (fun m => m.cswr a i.toNat (fun m v => m.writeCsr i.toNat v))

/-- WP_WRITE (R27): it waits for the context's results as a marked instruction does. -/
def execWpWrite (a : BitVec 5) (s : State) : Host.Outcome State Fault Refusal :=
  s.onMach (fun m =>
    if m.outstanding m.cur.core m.me.task then m.stay .marker else m.cswr a 0 Mach.writeWp)

/-- CARVE_WRITE (R28). -/
def execCarveWrite (a : BitVec 5) (s : State) : Host.Outcome State Fault Refusal :=
  s.onMach (fun m => m.cswr a 0x030 Mach.writeCarve)

/-- BANKFMT_WRITE (R29). -/
def execBankfmtWrite (a : BitVec 5) (b : BitVec 6) (s : State) : Host.Outcome State Fault Refusal :=
  s.onMach (fun m => m.cswr a (0x100 + b.toNat) (fun m v => m.writeBankfmt b.toNat v))

/-- ENVCFG_WRITE (R93). -/
def execEnvcfgWrite (a : BitVec 5) (s : State) : Host.Outcome State Fault Refusal :=
  s.onMach (fun m => m.cswr a 0x031 Mach.writeEnvcfg)

/-- WSPOOL_WRITE (R363). -/
def execWspoolWrite (a : BitVec 5) (s : State) : Host.Outcome State Fault Refusal :=
  s.onMach (fun m => m.cswr a 0x032 Mach.writeWspool)

/-- CHCFG_WRITE (R185). -/
def execChcfgWrite (a : BitVec 5) (ch : BitVec 3) (s : State) : Host.Outcome State Fault Refusal :=
  s.onMach (fun m => m.cswr a (0x040 + ch.toNat) (fun m v => m.writeChcfg ch.toNat v))

/-- FPMODE_WRITE (R209). -/
def execFpmodeWrite (a : BitVec 5) (s : State) : Host.Outcome State Fault Refusal :=
  s.onMach (fun m => m.cswr a 0x010 Mach.writeFpmode)

/-- FPFLAGS_WRITE (R211). -/
def execFpflagsWrite (a : BitVec 5) (s : State) : Host.Outcome State Fault Refusal :=
  s.onMach (fun m => m.cswr a 0x011 (fun m v => .ok (m.writeFpflags v)))

/-- FOLDSTAT_WRITE (R198). -/
def execFoldstatWrite (a : BitVec 5) (s : State) : Host.Outcome State Fault Refusal :=
  s.onMach (fun m => m.cswr a 0x013 (fun m v => .ok (m.writeFoldstat v)))

/-- STEALDOM_WRITE (R81). -/
def execStealdomWrite (a : BitVec 5) (s : State) : Host.Outcome State Fault Refusal :=
  s.onMach (fun m => m.cswr a 0x024 Mach.writeStealdom)

/-- BRCFG_WRITE (R111). -/
def execBrcfgWrite (a : BitVec 5) (s : State) : Host.Outcome State Fault Refusal :=
  s.onMach (fun m => m.cswr a 0x800 Mach.writeBrcfg)

/-- PARTCFG_WRITE (R275). -/
def execPartcfgWrite (a : BitVec 5) (s : State) : Host.Outcome State Fault Refusal :=
  s.onMach (fun m => m.cswr a 0x802 Mach.writePartcfg)

end Sys2Proof.Machine
end

