-- ==== Sys2Proof/Machine/System.lean ====
section
/-!
DEFINITION. Barriers (R85 to R88, R344, R345), MASKW (R388), traps, the fault queue, held tasks and TLB invalidation
(R248 to R256, R421, R422), refused words (R331), fetch faults (R250) and TASKLIM (R65, R66).
-/
namespace Sys2Proof.Machine

/-! ### Teams (R85) -/

/-- Whether cores form a rectangle, and the position of core `c` in it, row-major. -/
def rectSlot (ms : List Nat) (c : Nat) : Option Nat :=
  let rows := ms.map (· / 64)
  let cols := ms.map (· % 64)
  let r0 := rows.foldl min 16
  let r1 := rows.foldl max 0
  let c0 := cols.foldl min 64
  let c1 := cols.foldl max 0
  let all := (List.range (r1 + 1 - r0)).flatMap (fun i => (List.range (c1 + 1 - c0)).map (fun j => 64 * (r0 + i) + c0 + j))
  if all.all ms.contains && all.length == ms.length then all.idxOf? c else none

/-- The checks of R85: the team's number, the team, and its members. -/
def Mach.teamCheck (m : Mach) : Res (Nat × Team × List Nat) :=
  let bad : Res (Nat × Team × List Nat) := .error { cause := .barrierTeamInvalid }
  let v := m.myCore.teamid
  let t := field v 0 16
  if t = 0 then bad
  else match m.groupOf m.myPart (field v 16 6), Table.find (m.part m.myPart).teams t with
    | some g, some tm =>
      if tm.group = field v 16 6 && rectSlot g.members m.cur.core == some (field v 22 10) then .ok (t, tm, g.members) else bad
    | _, _ => bad

/-- The narrowest scope that contains every member: 1 cluster, 2 die, 3 device (R151, R164). -/
def teamScope (ms : List Nat) : Nat :=
  let c := ms.headD 0
  if ms.all (fun x => clusterOf x == clusterOf c) then 1
  else if ms.all (fun x => dieOfCore x == dieOfCore c) then 2
  else 3

def Mach.modTeam (m : Mach) (p t : Nat) (f : Team → Team) : Mach :=
  m.modPart p (fun x => { x with teams := match Table.find x.teams t with
    | some tm => Table.set x.teams t (f tm)
    | none => x.teams })

/-- The phase count as a destination holds it (R86). -/
def phaseWord (n : Nat) : Nat := n % 2 ^ 32

/-- The arrival of BARA: counted in the incomplete phase, or held for the next one (R86). -/
def Mach.arriveTeam (m : Mach) (t : Nat) (tm : Team) (d : BitVec 5) (cr : Nat) : Mach :=
  let c := m.cur.core
  let id := m.nextId
  if tm.arrived.any (fun a => a.1 == c) then
    ((m.late (m.lateW d) (.token true)).modTeam m.myPart t (fun x => { x with next := x.next ++ [(c, cr, id)] })).done
  else
    ((m.late (m.lateW d) (.value (phaseWord tm.phase) 0) true).modTeam m.myPart t (fun x => { x with arrived := x.arrived ++ [(c, cr)] })).done

/-- BARA (R344): w[d] becomes empty before the release. -/
def execBara (d : BitVec 5) (c : BitVec 3) (s : State) : Host.Outcome State Fault Refusal :=
  s.onMach (fun m =>
    if m.cur.ctx = 11 then m.trapMe { cause := .barrierTeamInvalid }
    else match m.teamCheck with
      | .error t => m.trapMe t
      | .ok (t, tm, _) => (m.emptyAll (m.lateW d)).fenced false true false (fun m => m.arriveTeam t tm d c.toNat))

/-- BARW (R345, R87). -/
def execBarw (a : BitVec 5) (s : State) : Host.Outcome State Fault Refusal :=
  s.onMach (fun m =>
    match m.readW a, (if m.cur.ctx = 11 then .error { cause := .barrierTeamInvalid } else m.teamCheck) with
    | .error t, _ => m.trapMe t
    | _, .error t => m.trapMe t
    | .ok v, .ok (_, tm, ms) =>
      let p := field v 0 32
      let ahead := (phaseWord tm.phase + 2 ^ 32 - p) % 2 ^ 32
      if ahead = 0 then
        if tm.arrived.any (fun x => x.1 == m.cur.core) then m.stay (.barrier tm.phase)
        else m.trapMe { cause := .barrierTeamInvalid }
      else if ahead < 2 ^ 31 then m.fenced true false false (fun m => (m.acquire (teamScope ms)).done)
      else m.trapMe { cause := .barrierTeamInvalid })

/-- The carve requests of a phase: that of the member of the lowest SLOT that made one (R88). -/
def carveAsked (arrived : List (Nat × Nat)) : Option Nat :=
  ((arrived.filter (fun a => a.2 != 0)).foldl (fun (b : Option (Nat × Nat)) a =>
    match b with
    | some x => if a.1 < x.1 then some a else some x
    | none => some a) none).map (·.2)

/-- The CARVE of every member neither fenced nor switched off changes, if it may on each (R88). -/
def Mach.carveTeam (m : Mach) (ms : List Nat) (v : Nat) : Mach :=
  let live := ms.filter (fun c => !m.isFenced c)
  if live.all (fun c => (m.core c).fits ({ m.core c with carve := v } : Core).scratchSize) then
    live.foldl (fun m c => m.recarve c v) m
  else m

/-- The arrivals held for the next phase that count in it: the first of each core; the others stay held. -/
def splitNext : List (Nat × Nat × Nat) → List (Nat × Nat) → List (Nat × Nat × Nat) × List (Nat × Nat × Nat)
  | [], _ => ([], [])
  | a :: t, seen =>
    if seen.any (fun x => x.1 == a.1) then
      let (x, y) := splitNext t seen
      (x, a :: y)
    else
      let (x, y) := splitNext t ((a.1, a.2.1) :: seen)
      (a :: x, y)

/-- PHASE_COMPLETE (R86, R88): every member has arrived, or is fenced or switched off; a phase in which no core has arrived
stays open. (log 10, DESIGN CHOICE) -/
def execPhaseComplete (part team : Nat) (s : State) : Host.Outcome State Fault Refusal :=
  s.onMach (fun m =>
    match Table.find (m.part part).teams team with
    | none => m
    | some tm =>
      match m.groupOf part tm.group with
      | none => m
      | some g =>
        let ms := g.members
        if ms.all (fun c => m.isFenced c || tm.arrived.any (fun a => a.1 == c)) && !tm.arrived.isEmpty then
          let m := match carveAsked tm.arrived with
            | some v => m.carveTeam ms v
            | none => m
          let (now, later) := splitNext tm.next []
          let m := m.modTeam part team (fun x => { x with phase := x.phase + 1, arrived := now.map (fun a => (a.1, a.2.1)), next := later })
          now.foldl (fun m a => m.resolve a.2.2 (phaseWord (tm.phase + 1))) m
        else m)

/-! ### MASKW (R73 to R75, R388) -/

/-- MASKW: `n` is the count less one. (log 42, DEDUCED) -/
def execMaskw (n : BitVec 6) (s : State) : Host.Outcome State Fault Refusal :=
  s.onMach (fun m =>
    if m.cur.ctx = 11 then m.done
    else if m.me.window ≠ 0 then m.trapMe { cause := .maskWindowLimit }
    else m.done.modMe (fun x => { x with window := n.toNat + 1 }))

/-! ### Traps -/

/-- TRAP (R422). -/
def execTrap (c : BitVec 16) (s : State) : Host.Outcome State Fault Refusal :=
  s.onMach (fun m => m.trapMe { cause := .trapInstruction, bad := some (c.setWidth 64) })

/-- TRAP with BRK = 1 (R422). -/
def execTrapBrk (c : BitVec 16) (s : State) : Host.Outcome State Fault Refusal :=
  s.onMach (fun m => m.trapMe { cause := .breakpoint, bad := some (c.setWidth 64) })

/-- RTE (R249). -/
def execRte (s : State) : Host.Outcome State Fault Refusal :=
  s.onMach (fun m => m.settle (do
    m.needRuntime
    m.returnFromTrap))

/-- FETCH_FAULT (R250): the fault that fetch at the context's PC found. No instruction issues. -/
def execFetchFault (cause : Cause) (addr : BitVec 64) (s : State) : Host.Outcome State Fault Refusal :=
  s.onMach (fun m => m.raise m.cur.core m.cur.ctx { cause := cause, bad := addr, brsrc := m.me.last } m.me.pc)

/-- ILLEGAL_ENCODING (R331, R305): a word that `decode` refuses, with the cause of the first stage that fails. -/
def refusedCause (w : IWord) (rt : Bool) : Cause :=
  match decode w with
  | .error (.reserved need) =>
    let denied := match need with
      | .task => false
      | .runtime => !rt
      | .csrRead i => csrRuntime i.toNat && !rt
      | .csrWrite i => (csrRuntime i.toNat || i == 0) && !rt
    if denied then .privileged else .reservedField
  | _ => .illegalEncoding

/-- ILLEGAL_ENCODING (R331). -/
def execIllegalEncoding (w : BitVec 32) (s : State) : Host.Outcome State Fault Refusal :=
  s.onMach (fun m => m.trapMe { cause := refusedCause w m.me.rt, bad := some (w.setWidth 64) })

/-! ### Fault queue and held tasks (R253 to R256) -/

/-- The 64 bytes of an entry (R255). -/
def FqEntry.image (e : FqEntry) (seq : Nat) : Nat :=
  seq * 2 ^ 48 + e.ticket * 2 ^ 32 + e.ctx.getD 0 % 16 * 2 ^ 28 + e.core.getD 0 % 1024 * 2 ^ 18 + boolNat e.eng * 2 ^ 9 +
  boolNat e.held * 2 ^ 8 + 2 ^ 7 + e.cause +
  2 ^ 64 * ((e.bad.getD 0).toNat + 2 ^ 64 * ((e.pc.getD 0).toNat + 2 ^ 64 * (e.aux0.toNat + 2 ^ 64 * e.aux1.toNat)))

/-- FQPOP (R378): the pop is performed at issue, and its entry returned late. (log 41, DEDUCED) -/
def execFqpop (v : BitVec 4) (s : State) : Host.Outcome State Fault Refusal :=
  s.onMach (fun m =>
    match m.needRuntime with
    | .error t => m.trapMe t
    | .ok () => m.popping (some v) [] (.ok ()) (
        let d := dieOfCore m.cur.core
        let p := m.myPart
        match (m.diePart d p).fq with
        | [] => .ok (m.lateV v (.value 0 0)).done
        | (seq, e) :: t =>
          let id := m.nextId
          let m := (m.modDiePart d p (fun q => { q with fq := t })).lateV v (.value (e.image seq) 0)
          .ok ({ m with pends := m.pends.map (fun q => if q.id = id then { q with entry := true } else q) } : Mach).done))

/-- The core whose held task a ticket names, on a die of a partition. -/
def Mach.holder (m : Mach) (d p t : Nat) : Option Nat :=
  (m.cores.find? (fun e => m.inPart p e.1 && dieOfCore e.1 == d && e.2.holds.any (fun h => h.ticket == t))).map (·.1)

/-- RESUME (R406): it is performed at issue. (log 41, DEDUCED) -/
def execResume (a : BitVec 5) (s : State) : Host.Outcome State Fault Refusal :=
  s.onMach (fun m => m.settle (do
    m.needRuntime
    let v ← m.readW a
    if field v 17 47 ≠ 0 then .error { cause := .reservedField }
    let t := field v 0 16
    let named (h : Hold) : Bool := h.ticket == t
    match m.holder (dieOfCore m.cur.core) m.myPart t with
    | none => .ok m.done
    | some c =>
      if v.getLsbD 16 then .ok (m.killHolds c named).done
      else .ok (m.modCore c (fun r => { r with holds := r.holds.filter (fun h => !named h),
                                               resumed := r.resumed ++ r.holds.filter named })).done))

/-! ### TLBINV (R421) -/

/-- The units of a partition that an invalidation is sent to: its cores, the launchers, and the TLBs of its clusters
(at 2,048 and on). -/
def Mach.invalUnits (m : Mach) (p : Nat) : List Nat :=
  m.coresOf p ++ (List.range 4).map launcherEnd ++ ((List.range 128).filter (fun k => m.inPart p (8 * k))).map (2048 + ·)

/-- The invalidation is sent to every unit, and the context waits for their acknowledgements (R67, R421). (log 41, DEDUCED) -/
def Mach.sendInval (m : Mach) (va : Option Nat) : Mach :=
  let v : Inval := { id := m.nextId, core := m.cur.core, task := m.me.task, va := va, todo := m.invalUnits m.myPart }
  ({ m.fresh with invals := m.invals ++ [v] } : Mach).await (.inval v.id)

/-- TLBINV of an address (R421). (log 41, DEDUCED) -/
def execTlbinv (a : BitVec 5) (s : State) : Host.Outcome State Fault Refusal :=
  s.onMach (fun m => m.settle (do
    m.needRuntime
    let va ← m.readW a
    if !isGv va then .error { cause := .addressClass, bad := va }
    .ok (m.sendInval (some va.toNat))))

/-- TLBINV of everything (R421). (log 41, DEDUCED) -/
def execTlbinvAll (_a : BitVec 5) (s : State) : Host.Outcome State Fault Refusal :=
  s.onMach (fun m => m.settle (do
    m.needRuntime
    .ok (m.sendInval none)))

/-! ### TASKLIM (R65, R66) -/

/-- The count of context `x` of core `c` has reached its limit. A wait in LDS is cut off in a trap entry too, at runtime
privilege. (log 15, DEDUCED) -/
def Mach.overrunNow (m : Mach) (c x : Nat) : Mach :=
  let v := m.ctx c x
  let told := m.modCtx c x (fun v => { v with overran := true, deferred := false })
  match v.wait with
  | .sync id =>
    match told.withdraw id with
    | (true, m) => m.enterTrap c x { cause := .syncLoadTimeout } v.last
    | (false, m) => m
  | .reply _ _ => m.modCtx c x (fun v => { v with deferred := true })
  | _ =>
    if v.rt && v.trapped then m.modCtx c x (fun v => { v with deferred := true })
    else told.enterTrap c x { cause := .taskOverrun } v.pc

/-- TASK_OVERRUN (R66). (log 15, DEDUCED) -/
def execTaskOverrun (core ctx : Nat) (s : State) : Host.Outcome State Fault Refusal :=
  s.onMach (fun m => if m.overrunDue core ctx then m.overrunNow core ctx else m)

/-- DEFERRED_TASK_OVERRUN (R66): at the first boundary after the reply or the RTE. -/
def execDeferredTaskOverrun (core ctx : Nat) (s : State) : Host.Outcome State Fault Refusal :=
  s.onMach (fun m =>
    let v := m.ctx core ctx
    if m.overrunDue core ctx && v.deferred && !v.defers then
      (m.modCtx core ctx (fun v => { v with overran := true, deferred := false })).enterTrap core ctx { cause := .taskOverrun } v.pc
    else m)

/-! ### MIGR (R258, R259, R390) -/

/-- The forwarding entry that a task control block asks for. -/
def tcbForward (ws : List Word) (now : Nat) : Forward :=
  let w0 := ws.getD 0 0
  let w1 := ws.getD 1 0
  { dest := field w0 0 10, extents := (ws.drop 2).map (fun w => (field w 0 21, field w 21 21)),
    env0 := field w1 0 14, envn := field w1 16 15, chmask := field w0 16 8, life := field w0 32 16 * 10000, used := now }

/-- Whether a zero bit of a task control block is set, or a field has no meaning. -/
def tcbReserved (ws : List Word) : Bool :=
  let w0 := ws.getD 0 0
  let w1 := ws.getD 1 0
  field w0 15 1 != 0 || field w0 25 7 != 0 || field w0 48 16 != 0 || field w1 14 2 != 0 || field w1 31 33 != 0 ||
  field w0 10 5 == 0 || decide (16 < field w0 10 5) || field w0 32 16 == 0 || decide (16384 < field w1 16 15) ||
  (ws.drop 2).any (fun w => field w 42 22 != 0 || field w 0 3 != 0 || field w 21 3 != 0 || field w 21 21 == 0)

/-- The pool frames of a core that a list of extents touches. -/
def Core.framesIn (r : Core) (xs : List (Nat × Nat)) : List Nat :=
  (List.range r.poolCount).filter (fun i => xs.any (fun x => decide (r.frameAt i < x.1 + x.2) && decide (x.1 < r.frameAt i + 2048)))

/-- Whether anything stands in the way of a migration (R258). -/
def Mach.migrBlocked (m : Mach) (c : Nat) (f : Forward) : Bool :=
  let r := m.core c
  let d := m.core f.dest
  f.dest == c || m.isFenced f.dest ||
  (List.range 10).any (fun x => (m.ctx c (x + 1)).live &&
    f.extents.any (fun e => decide (e.1 ≤ (m.ctx c (x + 1)).wp) && decide ((m.ctx c (x + 1)).wp < e.1 + e.2))) ||
  !r.seqs.isEmpty || (m.cluster (clusterOf c)).seqs.any (fun q => q.core == c) ||
  (List.range f.envn).any (fun i => !ctlFree (m.ctl (m.envKey f.dest (f.env0 + i)))) ||
  (d.framesIn f.extents).any (fun i => m.frameLive f.dest i || d.used.contains i || Table.get d.pins i 0 != 0) ||
  (List.range 8).any (fun ch => f.chmask.testBit ch && (m.chan f.dest ch).mode != 0)

/-- The checks of R258 after privilege, in their order. -/
def Mach.migrCause (m : Mach) (c : Nat) (ws : List Word) : Option Cause :=
  let f := tcbForward ws m.now
  let top := f.env0 + f.envn
  if tcbReserved ws || (m.core c).envCount < top || (m.core f.dest).envCount < top then some .reservedField
  else if !m.inPart m.myPart f.dest then some .partitionViolation
  else if f.extents.any (fun e => decide (m.scratchSize c < e.1 + e.2) || decide (m.scratchSize f.dest < e.1 + e.2)) then some .windowBounds
  else if m.migrBlocked c f then some .migrationFailed
  else if 64 ≤ (m.core c).forwards.length + ((m.core c).migrations.filter (·.held.isNone)).length then some .forwardTableFull
  else none

/-- The task control block at an LW address (R390). -/
def Mach.readTcb (m : Mach) (b : Word) : Res (List Word) :=
  let c := m.cur.core
  if !isLw b || !classOk b then .error { cause := .addressClass, bad := b }
  else if b.toNat % 8 ≠ 0 then .error { cause := .misalignedData, bad := b }
  else if m.scratchSize c ≤ offOf b then .error { cause := .windowBounds, bad := b }
  else
    let k := scratchKey c (offOf b)
    let n := field (m.word k) 10 5
    if m.scratchSize c < offOf b + 16 + 8 * n then .error { cause := .windowBounds, bad := b }
    else if (wordsOf k (16 + 8 * n)).any (fun w => m.scratchBad.contains w) then .error { cause := .scratchUncorrectable, bad := b }
    else .ok ((List.range (2 + n)).map (fun i => m.word (k + 8 * i)))

/-- MIGR (R390): the steps of R259 are done when the streamer finishes. (log 21, DEDUCED) -/
def execMigr (t a : BitVec 5) (s : State) : Host.Outcome State Fault Refusal :=
  s.onMach (fun m => m.settle (do
    m.needRuntime
    let b ← m.readW a
    let ws ← m.readTcb b
    match m.migrCause m.cur.core ws with
    | some e => .error { cause := e }
    | none =>
      let id := m.nextId
      .ok ((m.late (m.lateW t) (.token false)).modCore m.cur.core (fun r =>
        { r with migrations := r.migrations ++ [{ fwd := tcbForward ws m.now, team := (ws.getD 0 0).getLsbD 24, token := id }] })).done))

/-- The marks of uncorrectable words once the 12 words of a frame are copied from key `k` to key `d` (R137). -/
def moveMarks (bad : List Nat) (k d : Nat) : List Nat :=
  (List.range 12).foldl (fun l i => if bad.contains (k + 8 * i) then insertNat l (d + 8 * i) else eraseNat l (d + 8 * i)) bad

/-- Frames of an environment store copied to the same indices at another core, and marked MOVED (R106, R259).
(log 21, DEDUCED) -/
def Mach.moveFrames (m : Mach) (c d i0 n : Nat) : Mach :=
  (List.range n).foldl (fun m i =>
    let k := m.envKey c (i0 + i)
    let m := { m with mem := Mem.copy m.mem k (m.envKey d (i0 + i)) 96, scratchBad := moveMarks m.scratchBad k (m.envKey d (i0 + i)) }
    m.write (k + 8) 8 (m.ctl k ||| 0x0000400000000000).toNat) m

/-- The pin counts and generations of the pool frames in the extents. (log 21, DEDUCED) -/
def Mach.movePins (m : Mach) (c d : Nat) (xs : List (Nat × Nat)) : Mach :=
  ((m.core c).framesIn xs).foldl (fun m i =>
    match (m.core d).frameNo ((m.core c).frameAt i) with
    | some j => m.modCore d (fun r => { r with pins := Table.set r.pins j (Table.get (m.core c).pins i 0),
                                               gens := Table.set r.gens j (Table.get (m.core c).gens i 0),
                                               used := if Table.get (m.core c).pins i 0 = 0 then r.used else insertNat r.used j })
    | none => m) m

/-- Channels moved with their queued state; a level-1 channel's requests move with it, and the buffers and tokens of its posts
lie at the same LW offsets of the destination. They join its queue whatever its length. (log 21, DEDUCED) -/
def Mach.moveChans (m : Mach) (c d mask : Nat) : Mach :=
  ((List.range 8).filter (fun ch => mask.testBit ch)).foldl (fun m ch =>
    let old := m.chan c ch
    let k := { old with posts := old.posts.map (fun (p : Post) => { p with buf := keyAt d p.buf }) }
    let m := { m with pends := m.pends.map (fun (p : Pend) =>
      if old.posts.any (fun q => q.token == p.id) then { p with words := p.words.map (keyAt d), wasFull := p.wasFull.map (keyAt d) } else p) }
    let reqs := (m.core c).level1.filter (fun e => e.1 == ch)
    let m := m.modChan d ch (fun _ => { k with running := 0 })
    let m := m.modCore d (fun r => { r with level1 := r.level1 ++ reqs })
    let m := m.modCore c (fun r => { r with level1 := r.level1.filter (fun e => e.1 != ch) })
    m.modChan c ch (fun _ => { running := k.running })) m

/-- TEAMID and the arrival in the incomplete phase moved (R259). (log 21, DEDUCED) -/
def Mach.moveTeam (m : Mach) (c d : Nat) : Mach :=
  let t := (m.core c).teamid
  let p := (m.partOf c).getD 0
  let m := (m.modCore d (fun r => { r with teamid := t })).modCore c (fun r => { r with teamid := 0 })
  m.modTeam p (field t 0 16) (fun x => { x with
    arrived := x.arrived.map (fun a => if a.1 = c then (d, a.2) else a),
    next := x.next.map (fun a => if a.1 = c then (d, a.2) else a) })

/-- The requests that a core holds for a migration (R259, R390). (log 21, DEDUCED) -/
def Mach.heldFor (m : Mach) (c : Nat) (f : Forward) : List Nat :=
  (m.packets.filter (fun p => p.dst == c && p.answers == 0 && (p.phase == .arrived || p.phase == .held) &&
    (p.src != c || p.body.isMessage) && (f.takes c (p.via != 0) p.body || f.takesFold p.body))).map (·.id)

/-- The migrations of a core whose held requests have all been performed at DEST end: the token is written 0 (R259).
(log 21, DEDUCED) -/
def Mach.endMigrations (m : Mach) (c : Nat) : Mach :=
  ((m.core c).migrations.filter (fun g => (g.held.map (fun ids => ids.all m.sentDone)).getD false)).foldl
    (fun m g => (m.dropMigration c g.token).resolve g.token 0) m

/-- MIGRATION_COMPLETE (R259): steps 2 to 6 of the oldest migration whose entry is not installed, after which step 7 goes on
as the held requests are sent on; or, with DEST fenced, the token written 1 and an entry. (log 21, DEDUCED) -/
def execMigrationComplete (core : Nat) (s : State) : Host.Outcome State Fault Refusal :=
  s.onMach (fun m =>
    match m.migrating core with
    | none => m
    | some g =>
      let f := g.fwd
      if m.isFenced f.dest then
        ((m.dropMigration core g.token).postAt core { cause := Cause.migrationFailed.code, core := core }).resolve g.token 1
      else
        let m := m.copyWords core (extentWords f.extents).length
        let m := m.movePins core f.dest f.extents
        let m := m.moveFrames core f.dest f.env0 f.envn
        let m := m.moveChans core f.dest f.chmask
        let m := if g.team then m.moveTeam core f.dest else m
        let ids := m.heldFor core f
        let m := m.modMigration core g.token (fun g => { g with held := some ids })
        (m.modCore core (fun r => { r with forwards := r.forwards ++ [{ f with used := m.now }] })).endMigrations core)

/-- FORWARD_EXPIRY (R260): entry `idx` of a core has not forwarded for its life; every pool frame that its extents touch is
force-released (R104). (log 22, DEDUCED) -/
def execForwardExpiry (core idx : Nat) (s : State) : Host.Outcome State Fault Refusal :=
  s.onMach (fun m =>
    match (m.core core).forwards[idx]? with
    | none => m
    | some f =>
      if f.used + f.life ≤ m.now then
        let m := m.modCore core (fun r => { r with forwards := dropNth r.forwards idx, expired := r.expired ++ [f] })
        ((m.core core).framesIn f.extents).foldl (fun m i => m.releaseFrame core i) m
      else m)

end Sys2Proof.Machine
end

