-- ==== Sys2Proof/Machine/Replies.lean ====
section
/-!
DEFINITION. Requests at their homes and replies at their senders: memory (R113, R134, R150), handles (R101, R107), remaps
(R149), park replies (R118, R119), acknowledgements, and fold results (R195 to R199).
-/
namespace Sys2Proof.Machine

/-! ### Memory requests -/

/-- A request next at a core. An LDS whose word is empty waits, and is sent no more (R385). -/
def Mach.requestAtCore (m : Mach) (p : Packet) (op : MemOp) (k : Nat) : Mach :=
  match m.performCore p.dst op k (m.forwardGone p) with
  | some (b, m) => m.answer p b
  | none =>
    match op with
    | .sync take =>
      if (m.core p.dst).waiters.length < 64 then
        (m.modCore p.dst (fun r => { r with waiters := r.waiters ++ [(p.id, k, take)] })).modPacket p.id
          (fun q => { q with phase := .done, noticed := true })
      else m
    | _ => m

/-- On whose behalf a packet acts: an engine's is no context's (R156). -/
def Packet.requester (p : Packet) (va : Word) : Requester :=
  { core := p.core, tasks := if p.seq = 0 then p.task :: p.also else [], ctxs := if p.seq = 0 then p.ctxs else [], va := va, pc := p.pc }

/-- A request next at a slice: answered by remap, held for a retired slice's writeback or a hot stack, or performed. A frame
that still stands at a retired slice is served by the new home (R128, R148, R149). (log 22, DEDUCED) -/
def Mach.requestAtSlice (m : Mach) (p : Packet) (op : MemOp) (pa : Nat) (va : Word) (pk : Bool) : Mach :=
  if (m.slice (p.dst - 1024)).retired then m.answer p (m.remapBody p.dst)
  else if m.memHeld pa then m
  else
    let (b, m) := m.performSlice op pa (p.requester va) pk
    m.answer p b

/-- Whether the request of a fold has reached the tree, and has not exhausted its re-sends (R177, R195). -/
def Mach.foldRuns (m : Mach) (f : Fold) : Bool :=
  (m.packet f.packet).any (fun p => p.phase == .done) && !m.packets.any (fun r => r.answers == f.packet)

/-- A migration under way at a member holds the read of a fold that falls within its extents (R390). (log 21, DEDUCED) -/
def Mach.foldHeld (m : Mach) (f : Fold) (c : Nat) : Bool :=
  (m.core c).migrations.any (fun g => g.held.isNone && g.fwd.coversFold (offOf f.fa))

/-- One member's read of a fold, at the member, and the root's answer after the last of them (R195). (log 39, DESIGN CHOICE) -/
def Mach.foldMember (m : Mach) (id c : Nat) : Mach :=
  ({ m with folds := m.folds.map (fun f =>
      if f.id = id && f.unread.contains c && m.foldRuns f && !m.foldHeld f c then
        { f with unread := eraseNat f.unread c, got := f.got ++ [(c, m.foldRead f c)] }
      else f) } : Mach).foldAnswer id

/-- MEMORY_REQUEST (R113): the next request of an endpoint at a home, or a fold load at its root; an endpoint of 2048 + n is
fold n at a member. (log 39, DESIGN CHOICE) -/
def execMemoryRequest (src dst : Nat) (s : State) : Host.Outcome State Fault Refusal :=
  s.onMach (fun m =>
    if 2048 ≤ src then m.foldMember (src - 2048) dst
    else match m.next src dst false with
      | some p =>
        match p.body with
        | .mem op a va pk => if dst < 1024 then m.requestAtCore p op a else m.requestAtSlice p op a va pk
        | .fold id => (m.modPacket p.id (fun q => { q with phase := .done, noticed := true })).foldAnswer id
        | _ => m
      | none => m)

/-! ### Remap replies (R149) -/

/-- The body with which a request completes after four remap replies in a row: a precise fault where its context waits
for the reply. -/
def remapFailure : Body → Body
  | .mem _ _ _ pk => .failed .sliceRemapRetryExhausted pk
  | .park _ _ _ _ _ _ => .parked 2 .sliceRemapRetryExhausted
  | _ => .failed .sliceRemapRetryExhausted false

/-- The home of a request under its sender's table. -/
def Mach.rehash (m : Mach) (p : Packet) : Nat :=
  match p.body with
  | .mem _ pa va pk =>
    m.homeEnd p.src pa (if pk then (match m.lookup p.core va.toNat .load with | .ok (l, _) => hashUnit l.pte | .error _ => 0x4000) else 128)
  | .park _ _ base size _ _ => m.homeEnd p.src base size
  | .probe base size _ => m.homeEnd p.src base size
  | _ => p.dst

/-- REMAP_REPLY (R149): the requester takes the table, and the request is sent again to its new home, or completes. -/
def execRemapReply (id : Nat) (s : State) : Host.Outcome State Fault Refusal :=
  s.onMach (fun m =>
    match m.arrivedReply id with
    | none => m
    | some r =>
      match r.body, m.packet r.answers with
      | .remap d gen map, some q =>
        let m := m.setMap q.src d { gen := gen, map := map }
        if 3 ≤ q.remaps then (m.modPacket r.id (fun r => { r with body := remapFailure q.body })).unhold q.id
        else
          let dst := m.rehash q
          let behind := m.behindResend { q with dst := dst }
          ((m.retire r.id).modPacket q.id (fun p =>
            { p with dst := dst, phase := if behind = 0 then .flying else .waiting, slot := if behind = 0 then p.slot else none,
                     heldBy := behind, sends := 1, remaps := q.remaps + 1, noticed := false, golden := false,
                     mapGen := gen })).launch q.src false
      | _, _ => m)

/-! ### Handle operations (R101, R107) -/

/-- A handle operation at its home: the reply (R99, R107, R229, R366). A channel arrival whose application fails is reported
(R101). (log 37, DEDUCED) -/
def Mach.handleDone (m : Mach) (op : HandleOp) (h : Handle) (rt : Bool) (applier : Nat) (a : Nat := hHome h) : Body × Mach :=
  let p := (m.partOf applier).getD 0
  let out (r : Except Cause Mach) : Body × Mach :=
    match r with
    | .ok m => (.handled none 0, m)
    | .error e => (.handled (some e) 0, m)
  match op with
  | .accept =>
    match m.takeApp p h true a with
    | .ok m => (.handled none 0, m)
    | .error e => (.handled (some e) 0, m.complainHandle (if m.isFenced a then applier else a) e h applier)
  | .unref => (.handled none 0, m.unref p h applier a)
  | .unfly => (.handled none 0, m.dropFlight p h a)
  | .dup => out (m.dupRef p h a)
  | .drop => out (m.dropRef p h a)
  | .take => out (m.takeApp p h rt a)
  | .giveBack => (.handled none 0, m.untakeApp p h applier a)
  | .bind => out (m.bindRef p h rt a)
  | .info => (.data (m.handleInfo p h a), m.touch h a)
  | .peek =>
    match m.live p h a with
    | .ok (_, k) => (.handled (if ctlRt (m.ctl k) && !rt then some .privileged else none) 0, m.touch h a)
    | .error _ => (.handled none 0, m)
  | .cancel => (.handled none 0, m.cancelTicket h.toNat)
  | .restart => (.handled none 0, m.resumeTicket h.toNat)

/-- HANDLE_REQUEST (R107). -/
def execHandleRequest (src dst : Nat) (s : State) : Host.Outcome State Fault Refusal :=
  s.onMach (fun m =>
    match m.next src dst false with
    | some p =>
      match p.body with
      | .handle op h rt =>
        let (b, m) := m.handleDone op h rt p.core p.dst
        m.answer p b
      | _ => m
    | none => m)

/-- The applications of further lanes taken at the own core: the lane that fails with its cause, or the lanes left. -/
def Mach.takeOn (m : Mach) (c : Nat) (rt : Bool) : List ParkLane → Mach × Option (ParkLane × Cause) × List ParkLane
  | [] => (m, none, [])
  | l :: t =>
    let p := (m.partOf c).getD 0
    if !m.inPart p (hHome l.2.1) then (m, some (l, .partitionViolation), [])
    else if hHome l.2.1 = c then
      match m.takeApp p l.2.1 rt with
      | .error e => (m, some (l, e), [])
      | .ok m => m.takeOn c rt t
    else (m, none, l :: t)

/-- The lanes before one. -/
def lanesBefore (l : ParkLane) (all : List ParkLane) : List ParkLane := all.takeWhile (fun x => x != l)

/-- A lane's application has failed: those taken before it are returned, and the instruction traps. -/
def Mach.failTake (m : Mach) (c x task : Nat) (pc : Word) (lane : Bool) (all : List ParkLane) (l : ParkLane) (e : Cause) : Mach :=
  (m.returnApps c task (lanesBefore l all)).raise c x (laneFail lane l e) pc

/-- The wait of a request that exhausted its re-sends ends with no effect of its own (R177, R261): the applications taken
are returned, and what was reserved is given up. (log 17, DEDUCED) -/
def Mach.lostReply (m : Mach) (c x task : Nat) (k : Cont) : Mach :=
  let m := match k with
    | .start _ _ helper frame => m.unreserve c helper frame
    | .take _ (l :: _) all => m.returnApps c task (lanesBefore l all)
    | _ => m
  m.modCtx c x Ctx.waited

/-- The reply to a handle operation for the waiting context `x` at `pc` (R101, R67). -/
def Mach.handleBack (m : Mach) (now c x task : Nat) (pc : Word) (k : Cont) (h : Handle) (out : Option Cause) : Mach :=
  if out = some .retransmitExhausted then
    match k with
    | .efork j copy mtx rest => m.forkReply c x pc j copy mtx rest none
    | _ => m.lostReply c x task k
  else match k, out with
    | .counted, none => m.modCtx c x Ctx.waited
    | .counted, some e => m.raise c x (handleTrap e h) pc
    | .spawn h args, none =>
      match m.pushNewest c { h := h, args := args, tag := (m.ctx c x).tag } with
      | some m => m.modCtx c x Ctx.waited
      | none => (m.returnApp c task h).raise c x { cause := .helperExhausted } pc
    | .spawn h _, some e => m.raise c x (handleTrap e h) pc
    | .start h args helper frame, none =>
      (m.startTask now c helper ((m.core c).frameAt frame) { h := h, args := args }).modCtx c x Ctx.waited
    | .start h _ helper frame, some e => (m.unreserve c helper frame).raise c x (handleTrap e h) pc
    | .bind ch h level prio, none =>
      if m.canBind c ch then (m.bindChan c ch h level prio).modCtx c x Ctx.waited
      else (m.tellHome c .unref h).raise c x { cause := .channelBindConflict } pc
    | .bind _ h _ _, some e => m.raise c x (handleTrap e h) pc
    | .take lane (l :: _) all, some e => m.failTake c x task pc lane all l e
    | .take lane (_ :: t) all, none =>
      match m.takeOn c (m.ctx c x).rt t with
      | (m, some (l, e), _) => m.failTake c x task pc lane all l e
      | (m, none, rest) => m.takeNext c x task pc lane rest all
    | .efork j copy mtx rest, out => m.forkReply c x pc j copy mtx rest out
    | _, _ => m

/-- The reply to a park request for the waiting context `x` (R118, R119): outcome 0 APPLIED, 1 PARKED, 2 refused. A block
outside the partition's HBM is an error reply: the application is returned, with an entry, and the instruction goes on (R134,
R277). (log 73, DEDUCED) -/
def Mach.parkBack (m : Mach) (c x task : Nat) (pc : Word) (lane parked : Bool) (todo : List ParkLane) (n : Nat) (e : Cause) : Mach :=
  match todo with
  | [] => m
  | l :: t =>
    if n = 2 && e = .partitionViolation then
      (((m.returnApp c task l.2.1).errorEntry c e l.2.2.1 pc (some x))).parkNext c x task pc lane parked t
    else if n = 2 && e ≠ .retransmitExhausted then
      (m.returnApps c task (l :: t)).raise c x
        { cause := e, bad := l.2.2.1, brsrc := if lane then BitVec.ofNat 64 l.1 else 0 } pc
    else m.parkNext c x task pc lane (parked || n == 1) t

/-- Whether a START that waits for its reply cannot be dispatched yet: requests of its core to the handle's home are still on
their way, before which its dispatch read would pass (R107, R152). (log 37, DEDUCED) -/
def Mach.startWaits (m : Mach) (c task : Nat) (h : Handle) : Bool :=
  match m.ctxOf c task with
  | none => false
  | some x =>
    match (m.ctx c x).wait with
    | .reply _ (.start _ args _ _) => !m.homeReady c { h := h, args := args }
    | _ => false

/-- HANDLE_REPLY (R101): the reply `id` to a handle operation or a park request, for the context that waits for it; none
waits for an operation that a channel or a returned application makes, nor once its task is killed. -/
def Mach.handleReply (m : Mach) (now id : Nat) : Mach :=
  match m.arrivedReply id with
  | none => m
  | some r =>
    let req := (m.packet r.answers).map Packet.body
    match r.body, req with
    | .handled out _, some (.handle op h _) =>
      if out.isNone && m.startWaits r.core r.task h then m
      else
      let m := m.settleReply r
      if op = .giveBack || op = .unref || op = .unfly then m
      else if op = .accept then m.settleArrival r.core r.answers h out.isNone
      else match m.ctxOf r.core r.task with
        | none => m
        | some x =>
          match (m.ctx r.core x).wait with
          | .reply pc k =>
            if op = .cancel && out.isNone && m.cancelling h.toNat then
              m.modCtx r.core x (fun v => { v with wait := .reply pc (.cancelled h.toNat) })
            else m.handleBack now r.core x r.task pc k h out
          | _ => m
    | .parked n e, _ =>
      let m := m.settleReply r
      match m.ctxOf r.core r.task with
      | none => m
      | some x =>
        match (m.ctx r.core x).wait with
        | .reply pc (.park lane todo parked) => m.parkBack r.core x r.task pc lane parked todo n e
        | _ => m
    | _, _ => m

/-- HANDLE_REPLY (R101). -/
def execHandleReply (id : Nat) (s : State) : Host.Outcome State Fault Refusal :=
  s.onMach (fun m => m.handleReply s.now id)

/-! ### Acknowledgements (R150) -/

/-- The STG that a packet belongs to counts it (R199). -/
def Mach.foldAcked (m : Mach) (id c : Nat) (failed fenced : Bool) : Mach :=
  match m.foldStores.find? (fun f => f.unacked.contains id) with
  | none => m
  | some f =>
    let f := { f with unacked := eraseNat f.unacked id,
                      absent := if fenced then c :: f.absent else f.absent,
                      part := if failed && !fenced then c :: f.part else f.part }
    ({ m with foldStores := m.foldStores.filter (fun g => g.id != f.id) }).settleStg f

/-- A stolen entry is dispatched by its thief, which counts the dispatch (R77); with no helper or frame free at its arrival, its
queue pre-empted (R246), or its dispatchers held to source 0 by a context switch (R257), it joins the thief's own deque at
the newest end, and it waits while neither can be (R82). (log 35, DEDUCED) -/
def Mach.takeStolen (m : Mach) (now c : Nat) (e : Entry) : Option Mach :=
  if (m.freeHelper c).isSome && (m.freeFrame c).isSome && m.mayTake c e && (m.part ((m.partOf c).getD 0)).state == .running then
    if m.homeReady c e then some ((m.modCore c (fun r => r.counted 4)).dispatchEntry now c e) else none
  else m.pushNewest c e

/-- Whether an operation only reads. -/
def MemOp.reads : MemOp → Bool
  | .load _ => true
  | .loadLine => true
  | .sync take => !take
  | _ => false

/-- What an acknowledgement of the request `q` does when no context waits for it: a failed store is reported (R134), an
apply message frees its send-queue entry and is reported if its home was fenced (R339), a wake that failed is reported
(R124), and a steal ends (R82). -/
def Mach.acknowledge (m : Mach) (now : Nat) (q r : Packet) : Mach :=
  let freed (m : Mach) : Mach := if q.seq = 0 then m.modCore q.core (fun c => { c with sendq := c.sendq - 1 }) else m
  match q.body, r.body with
  | .apply h _ _ _, .failed .applyTargetFenced _ => (freed m).complainHandle q.core .applyTargetFenced h q.core
  | .apply _ _ _ _, _ => freed m
  | .wake e, .failed cause _ => m.wakeFailed (q.src - 1024) q.dst cause e
  | .stealAsk, .stolen out =>
    let m := m.modCore q.core (fun c => { c with stealing := false })
    match out with
    | none =>
      if (m.victims q.core q.core).length ≤ (m.core q.core).tried then
        m.modCore q.core (fun c => { c with tried := 0, stealWait := some c.cycles })
      else m
    | some e =>
      let m := m.modCore q.core (fun c => { c with tried := 0, stealWait := none })
      (m.takeStolen now q.core e).getD m
  | .mem op _ va _, .failed e _ => if q.seq != 0 && op.reads then m else m.errorEntry q.core e va q.pc q.ctxs.head?
  | _, _ => m

/-- A reply that its sender cannot yet take: a stolen entry that finds no place, and the failure of a fold load whose words an
earlier late result is bound for (R19, R82). -/
def Mach.replyWaits (m : Mach) (now : Nat) (q r : Packet) : Bool :=
  match q.body, r.body with
  | .stealAsk, .stolen (some e) => (m.takeStolen now q.core e).isNone
  | .fold id, _ => m.folds.any (fun f => f.id == id && (m.findPend f.pend).any m.behind)
  | _, _ => false

/-- The result of a fold written, and the end of the wait of an LDG.t, with its trap (R197). -/
def Mach.foldDone (m : Mach) (f : Fold) (v : Nat) (fl : BitVec 5) (trap : Option Cause) : Mach :=
  let m := m.endFold f
  let m := match m.findPend f.pend with | some p => m.writeLate p v fl | none => m
  match m.ctxOf f.core f.task with
  | none => m
  | some x =>
    match (m.ctx f.core x).wait with
    | .reply _ (.fold id fa) =>
      if id = f.pend then
        match trap with
        | some e => m.enterTrap f.core x { cause := e, bad := fa } (m.ctx f.core x).pc
        | none => m.modCtx f.core x Ctx.waited
      else m
    | _ => m

/-- Whether the result of a fold may be written: no earlier late result is bound for its words (R19). -/
def Mach.foldFree (m : Mach) (f : Fold) : Bool := !(m.findPend f.pend).any m.behind

/-- ACKNOWLEDGEMENT (R150): the reply `id` to a request that no late result awaits. A store on a parkable page ends its
context's wait, or traps (R333); an engine's request has its answer (R152); a scatter goes on with its next lane (R436); a
fold load that has exhausted its re-sends receives zero (R177, R384). -/
def Mach.acknowledged (m : Mach) (now id : Nat) : Mach :=
  match m.arrivedReply id with
  | none => m
  | some r =>
    match m.packet r.answers with
    | none => m
    | some q =>
      let ours := match r.body with
        | .ack => true | .failed _ _ => true | .data _ => true | .line _ => true | .stolen _ => true | _ => false
      let awaited := m.pends.any (fun p => match p.late with | .parts x => x.wait.any (fun w => w.2.2 == q.id) | _ => false)
      if !ours || awaited || m.replyWaits now q r then m
      else if m.engineAsked q.id then
        (m.settleReply r).noteAnswer q.id (match r.body with | .data v => some v | _ => some 0)
          (match r.body with | .failed e _ => some e | _ => none)
      else
        let m := m.settleReply r
        if m.foldStores.any (fun f => f.unacked.contains q.id) then
          m.foldAcked q.id q.dst (match r.body with | .failed _ _ => true | _ => false) (r.body == .failed .coreFenced false)
        else
          match q.body, (m.ctxOf r.core r.task).map (fun x => (x, (m.ctx r.core x).wait)) with
          | .fold f, _ =>
            match m.folds.find? (fun g => g.id == f) with
            | some g => m.foldDone g 0 0 none
            | none => m
          | _, some (x, .reply pc (.access i a lane todo undo)) =>
            if i = q.id then
              match r.body with
              | .failed e true =>
                (m.undone r.core x undo).raise r.core x { cause := e, bad := a, brsrc := BitVec.ofNat 64 (lane.getD 0) } pc
              | _ => (m.acknowledge now q r).scatterNext r.core x r.task pc undo todo
            else m.acknowledge now q r
          | _, _ => m.acknowledge now q r

/-- ACKNOWLEDGEMENT (R150). (log 35, DEDUCED) -/
def execAcknowledgement (id : Nat) (s : State) : Host.Outcome State Fault Refusal :=
  s.onMach (fun m => m.acknowledged s.now id)

/-! ### Fold results (R195, R197, R198) -/

/-- The reply with a fold's result, if it has come back. (log 39, DESIGN CHOICE) -/
def Mach.foldReply (m : Mach) (f : Fold) : Option (Nat × BitVec 5) :=
  m.packets.findSome? (fun r =>
    match r.body with
    | .folded v fl => if r.answers == f.packet && m.arrivedReply r.id == some r then some (v, fl) else none
    | _ => none)

/-- FOLD_RESULT (R195): the root's answer has come. -/
def execFoldResult (id : Nat) (s : State) : Host.Outcome State Fault Refusal :=
  s.onMach (fun m =>
    match m.folds.find? (fun f => f.id == id) with
    | none => m
    | some f =>
      match m.foldReply f with
      | none => m
      | some (v, fl) =>
        if m.foldFree f then
          let m := m.modTask f.core f.task (fun x => { x with foldstat := foldCount x.foldstat f.absents f.partials })
          m.foldDone f v fl (if !f.partials.isEmpty then some .foldPartialFault
                             else if !f.absents.isEmpty then some .foldIncomplete else none)
        else m)

/-- FOLD_TREE_TIMEOUT (R197): no result 100 µs after issue. (log 3, DESIGN CHOICE) -/
def execFoldTreeTimeout (id : Nat) (s : State) : Host.Outcome State Fault Refusal :=
  s.onMach (fun m =>
    match m.folds.find? (fun f => f.id == id) with
    | none => m
    | some f =>
      if f.since + 100000 ≤ m.now && m.foldFree f then
        (m.postAt f.core { cause := Cause.foldTreeTimeout.code, core := f.core, bad := f.fa,
                           ctx := (m.packet f.packet).bind (·.ctxs.head?), pc := (m.packet f.packet).map (·.pc) }).foldDone
          f 0 0 (some .foldTreeTimeout)
      else m)

end Sys2Proof.Machine
end

