-- ==== Sys2Proof/Machine/Network.lean ====
section
/-!
DEFINITION. Packets in flight: arrival, NACKs, re-sends, the golden pair, links (R174 to R180), and the draining of the
write-combining buffer (R145).
-/
namespace Sys2Proof.Machine

/-! ### Requests that complete without a reply (R177) -/

/-- The body with which a request completes that has exhausted its re-sends. (log 17, DEDUCED) -/
def exhaustedBody : Body → Body
  | .message _ _ => .status 1
  | .handle .info _ _ => .failed .retransmitExhausted false
  | .handle _ _ _ => .handled (some .retransmitExhausted) 0
  | .park _ _ _ _ _ _ => .parked 2 .retransmitExhausted
  | .stealAsk => .stolen none
  | _ => .failed .retransmitExhausted false

/-- Whether the reply to a packet has reached its sender. -/
def Mach.replied (m : Mach) (p : Packet) : Bool := m.packets.any (fun r => r.answers == p.id && r.phase == .arrived)

/-- The entry about a packet: the address that its request concerns, and the context, instruction or command record that it
comes from (R255). (log 8, DEDUCED) -/
def Mach.packetEntry (m : Mach) (p : Packet) (cause : Cause) : FqEntry :=
  { cause := cause.code, core := p.core, ctx := p.ctxs.head?,
    bad := match p.body with
      | .mem _ _ va _ => some va
      | .park _ va _ _ _ _ => some va
      | .fold id => (m.folds.find? (fun f => f.id == id)).map (·.fa)
      | _ => none,
    pc := if p.ctxs.isEmpty && p.seq == 0 then none else some p.pc }

/-- One packet completes with RETRANSMIT_EXHAUSTED: an entry at its sender's die, whose AUX0 bit 0 tells a NACK of the
last send, and its completion, which reaches its sender at once. (log 8, DEDUCED; log 17, DEDUCED) -/
def Mach.exhaustOne (m : Mach) (p : Packet) : Mach :=
  let m := m.postEnd p.src p.core { m.packetEntry p .retransmitExhausted with aux0 := BitVec.ofNat 64 (boolNat p.nackedLast) }
  let m := ({ m with packets := m.packets.filter (fun q => q.answers != p.id) } : Mach).dropWaiter p.id
  let m := m.modPacket p.id (fun q => { q with phase := .done })
  { m.fresh with packets := m.packets ++ [{ id := m.nextId, src := p.src, dst := p.src, reply := true, body := exhaustedBody p.body,
                                            phase := .arrived, core := p.core, task := p.task, also := p.also, answers := p.id }] }

/-- A packet exhausts its re-sends: it and every later packet outstanding on its pair channel complete, and the channel
is closed, for new requests of either plane. (log 17, DEDUCED; log 19, DESIGN CHOICE) -/
def Mach.exhaust (m : Mach) (p : Packet) : Mach :=
  let later := m.packets.filter (fun q => q.src == p.src && q.dst == p.dst && q.reply == p.reply && q.answers == 0 && p.id ≤ q.id &&
    !m.replied q)
  let m := later.foldl Mach.exhaustOne m
  if m.closed.contains (p.src, p.dst) then m else { m with closed := m.closed ++ [(p.src, p.dst)] }

/-! ### Arrival (R174, R176, R177, R180) -/

/-- A packet that its destination accepts: into its window, where a golden request is held when it is not next on its
channel or its consumer cannot take it; another that is next is then dropped with a NACK. (log 18, DEDUCED) -/
def Mach.accept (m : Mach) (p : Packet) : Mach :=
  let next := m.head p.src p.dst p.reply == some p
  let phase (x : Phase) : Mach := m.fresh.modPacket p.id (fun q => { q with phase := x, came := m.nextId })
  if p.answers ≠ 0 || p.src == p.dst || (next && m.canTake p) then phase .arrived
  else if p.golden then phase .held
  else if next then m.modPacket p.id (fun q => { q with phase := .nacked, nackedLast := true })
  else phase .arrived

/-- PACKET_ARRIVAL (R176): a packet whose source is its destination crosses no link and no router. (log 18, DEDUCED) -/
def execPacketArrival (id : Nat) (fate : Fate) (s : State) : Host.Outcome State Fault Refusal :=
  s.onMach (fun m =>
    match m.packet id with
    | none => m
    | some p =>
      if p.phase != .flying then m
      else if p.src = p.dst then m.accept p
      else match fate with
        | .taken => m.accept p
        | .badCrc die =>
          (m.post (die % 4) ((m.partOf p.core).getD 0) { cause := Cause.networkCrc.code }).modPacket id (fun q => { q with phase := .lost })
        | .full =>
          if p.answers = 0 && !p.reply && !p.golden then
            m.modPacket id (fun q => { q with phase := .nacked, nackedLast := true })
          else m)

/-! ### Re-sends (R177) -/

/-- NACK_RESEND (R177): 256 network cycles after the NACK. (log 18, DEDUCED) -/
def execNackResend (id : Nat) (s : State) : Host.Outcome State Fault Refusal :=
  s.onMach (fun m =>
    match m.packet id with
    | some p => if p.phase == .nacked && !p.noticed then m.resend p else m
    | none => m)

/-- E2E_TIMER_EXPIRY (R177): a request that is not acknowledged is sent again; one of a closed channel completes.
(log 3, DESIGN CHOICE; log 17, DEDUCED) -/
def execE2eTimerExpiry (id : Nat) (s : State) : Host.Outcome State Fault Refusal :=
  s.onMach (fun m =>
    match m.packet id with
    | some p =>
      if p.answers ≠ 0 || p.noticed || p.phase == .waiting || p.src == p.dst then m
      else if p.sends = closedSends then m.exhaustOne p
      else m.resend p
    | none => m)

/-! ### The golden pair (R174, R177) -/

def goldenPairs : Nat := 37280

/-- The golden pair at a time, and the pair of a packet. -/
def goldenAt (now : Nat) : Nat := now / 540 % goldenPairs
def Packet.pair (p : Packet) : Option Nat := p.slot.map (fun n => 32 * p.src + n)

/-- The packets whose golden send ended unanswered with the last period. (log 16, DEDUCED) -/
def Mach.goldenLost (m : Mach) : List Packet :=
  m.packets.filter (fun p => p.golden && p.answers == 0 && p.sends == 16 && !p.noticed && !m.replied p &&
    p.pair != some (goldenAt m.now))

/-- A packet of the golden pair is sent, or sent again; one that waits in its destination's window is held there.
(log 78, DESIGN CHOICE) -/
def Packet.gild (p : Packet) : Packet :=
  { p with golden := true, nackedLast := false, sends := if p.sends = 15 then 16 else p.sends,
           phase := match p.phase with
             | .lost => .flying
             | .nacked => .flying
             | .arrived => if p.answers = 0 then .held else .arrived
             | x => x }

/-- Whether a packet was sent golden in a period that has ended, and has not been delivered (R180). -/
def Mach.goldenLate (m : Mach) (p : Packet) : Bool := p.golden && p.phase == .flying && p.pair != some (goldenAt m.now)

/-- Its GOLDEN_TIMEOUT entry, at its sender's die; the packet continues under R177. (log 8, DEDUCED; log 16, DEDUCED) -/
def Mach.goldenTimeout (m : Mach) (p : Packet) : Mach :=
  (m.postEnd p.src p.core (m.packetEntry p .goldenTimeout)).modPacket p.id (fun q => { q with phase := .lost })

/-- GOLDEN_PERIOD (R174): the last period's packet that is undelivered has its entry (R180). A cached reply of a golden
packet is sent again with it (R179). (log 3, DESIGN CHOICE) -/
def execGoldenPeriod (s : State) : Host.Outcome State Fault Refusal :=
  s.onMach (fun m =>
    let m := (m.packets.filter m.goldenLate).foldl Mach.goldenTimeout m
    let m := m.goldenLost.foldl Mach.exhaust m
    let k := goldenAt m.now
    let now (p : Packet) : Bool := p.pair == some k && p.phase != .waiting && p.sends != closedSends
    let gold := (m.packets.filter now).map (·.id)
    { m with packets := m.packets.map (fun p =>
        if now p then (if p.golden then p else p.gild)
        else if p.answers ≠ 0 && gold.contains p.answers && p.phase == .lost then { p with phase := .flying }
        else { p with golden := false }) })

/-- HOLD_NOTICE (R174): no more sends of the held packet. (log 3, DESIGN CHOICE) -/
def execHoldNotice (id : Nat) (s : State) : Host.Outcome State Fault Refusal :=
  s.onMach (fun m => m.modPacket id (fun p => if p.phase == .held then { p with noticed := true } else p))

/-- GOLDEN_TIMEOUT (R180): a golden flit is undelivered at the end of its period. (log 3, DESIGN CHOICE; log 16, DEDUCED) -/
def execGoldenTimeout (id : Nat) (s : State) : Host.Outcome State Fault Refusal :=
  s.onMach (fun m =>
    match m.packet id with
    | some p => if m.goldenLate p then m.goldenTimeout p else m
    | none => m)

/-! ### Links (R180, R142) -/

/-- An entry about a die in the queue of every configured partition. (log 20, DEDUCED) -/
def Mach.postDie (m : Mach) (d : Nat) (e : FqEntry) : Mach :=
  ((List.range 8).filter (fun p => (m.part p).state != .absent)).foldl (fun m p => m.post d p e) m

/-- LINK_DOWN (R180): a mesh link of a die, or the Treaz Link port of a peer, which is then unreachable.
(log 19, DESIGN CHOICE; log 20, DEDUCED) -/
def execLinkDown (die link : Nat) (port : Option Nat) (s : State) : Host.Outcome State Fault Refusal :=
  s.onMach (fun m =>
    match port with
    | none =>
      if (m.die die).down.contains link then m
      else (m.modDie die (fun d => { d with down := insertNat d.down link })).postDie die
        { cause := Cause.linkDown.code, aux0 := BitVec.ofNat 64 link }
    | some n =>
      if m.peersDown.contains n then m
      else ({ m with peersDown := insertNat m.peersDown n } : Mach).postDie die
        { cause := Cause.linkDown.code, aux0 := BitVec.ofNat 64 n })

/-! ### Write combining (R145) -/

/-- WC_DRAIN (R145): the oldest entry of a core's buffer is 64 cycles old. (log 11, DESIGN CHOICE) -/
def execWcDrain (core : Nat) (s : State) : Host.Outcome State Fault Refusal :=
  s.onMach (fun m =>
    match (m.core core).combine with
    | e :: _ => if e.since + 64 ≤ (m.core core).cycles then m.drainOne core else m
    | [] => m)

end Sys2Proof.Machine
end

