-- ==== Sys2Proof/Machine/Scheduler.lean ====
section
/-!
DEFINITION. The dispatcher (R76, R77), the start of level-1 tasks (R72), and steals (R82).
-/
namespace Sys2Proof.Machine

/-- DISPATCH (R76): one dispatch from sources 0 to 3. -/
def execDispatch (core : Nat) (s : State) : Host.Outcome State Fault Refusal :=
  s.onMach (fun m =>
    if m.running core && (m.freeHelper core).isSome && (m.source core).isSome then
      (m.modCore core (fun r => { r with tried := 0 })).dispatchOne m.now core
    else m)

/-- Whether a level-0 task of a core has a masked window open; a hold closes none (R61, R74). -/
def Mach.windowOpen (m : Mach) (c : Nat) : Bool :=
  (List.range 11).any (fun x => (m.ctx c x).live && (m.ctx c x).window != 0) ||
  ((m.core c).holds ++ (m.core c).resumed).any (fun h => h.ctx.window != 0)

/-- LEVEL_1_TASK_START (R72): the oldest request starts on the shadow workspace once its application has been taken (R101);
in a partition that is being saved none does (R257). -/
def execLevel1TaskStart (core : Nat) (s : State) : Host.Outcome State Fault Refusal :=
  s.onMach (fun m =>
    if m.running core && (m.part ((m.partOf core).getD 0)).state == .running && !(m.ctx core 11).live && !m.windowOpen core then
      match (m.core core).level1 with
      | (ch, e) :: t =>
        if e.check ≠ 0 || !m.homeReady core e then m
        else
          let m := (m.modCore core (fun r => { r with level1 := t })).modChan core ch (fun k => { k with running := k.running + 1 })
          (m.startTask m.now core 11 ((m.core core).frameAt ((m.core core).poolCount - 1)) e).givePayload core 11 ch e
      | [] => m
    else m)

/-- Whether a core may steal (R82). (log 35, DEDUCED) -/
def Mach.maySteal (m : Mach) (c : Nat) : Bool :=
  let r := m.core c
  m.running c && (m.part ((m.partOf c).getD 0)).state == .running && !r.stealing && r.stealWait.isNone &&
  (m.freeHelper c).isSome && (m.freeFrame c).isSome && (m.source c).isNone

/-- STEAL_REQUEST (R82): to the next victim. (log 35, DEDUCED) -/
def execStealRequest (core : Nat) (s : State) : Host.Outcome State Fault Refusal :=
  s.onMach (fun m =>
    if m.maySteal core then
      match m.victims core ((m.core core).victim.getD core) with
      | v :: _ =>
        (m.modCore core (fun r => { r with victim := some v, tried := r.tried + 1, stealing := true })).inject
          { id := 0, src := core, dst := v, body := .stealAsk, core := core }
      | [] => m
    else m)

/-- STEAL_GRANT (R82): the victim surrenders its oldest entry, or declines. (log 35, DEDUCED) -/
def execStealGrant (src dst : Nat) (s : State) : Host.Outcome State Fault Refusal :=
  s.onMach (fun m =>
    match m.next src dst false with
    | some p =>
      match p.body with
      | .stealAsk =>
        match if !m.isFenced dst && m.inDomain dst src then m.popOldest dst else none with
        | some (e, m) => m.answer p (.stolen (some e))
        | none => m.answer p (.stolen none)
      | _ => m
    | none => m)

/-- STEAL_WAIT_EXPIRY (R82): 256 cycles after a round without a grant. (log 35, DEDUCED) -/
def execStealWaitExpiry (core : Nat) (s : State) : Host.Outcome State Fault Refusal :=
  s.onMach (fun m =>
    match (m.core core).stealWait with
    | some t => if t + 256 ≤ (m.core core).cycles then m.modCore core (fun r => { r with stealWait := none }) else m
    | none => m)

/-- Whether a core has work in sources 0 to 3 (R82). -/
def Mach.localWork (m : Mach) (c : Nat) : Bool :=
  !(m.core c).resumed.isEmpty || m.wakeWork c || (m.nextChan c).isSome || m.dequeWork c

/-- The waits of thieves to which local work has come end (R82). -/
def Mach.endSteals (m : Mach) : Mach :=
  { m with cores := m.cores.map (fun (e : Nat × Core) =>
      if e.2.stealWait.isSome && m.localWork e.1 then (e.1, { e.2 with stealWait := none }) else e) }

end Sys2Proof.Machine
end

