-- ==== Sys2Proof/Machine/Launch.lean ====
section
/-!
DEFINITION. Launch queues: doorbells, records, their targets, and the watchdog (R241 to R247).
-/
namespace Sys2Proof.Machine

/-! ### Accesses by a launcher -/

/-- The die whose launcher serves a queue (R244). -/
def queueDie (q : Nat) : Nat := q % 4

/-- The physical address at which a launcher or the controller finds a GV address of a partition, and its entry (R140).
(log 31, DEDUCED) -/
def Mach.launchXlate (m : Mach) (p : Nat) (va : Word) (k : Kind) : Except Miss (Nat × Word) :=
  if !isGv va then .error { cause := .addressClass }
  else match m.walk p va.toNat k with
    | .error e => .error e
    | .ok l =>
      let pa := ptePa l.pte + (va.toNat - l.va)
      if m.peerGone pa then .error { cause := .peerUnreachable } else .ok (pa, l.pte)

/-- Whether accesses to a GV address of a partition wait: for its control block, an entry of its table or the line itself, held
at their homes (R148, R269). -/
def Mach.launchHeld (m : Mach) (p : Nat) (va : Word) : Bool :=
  m.pcbHeld p || (match m.launchXlate p va .load with | .ok (pa, _) => m.memHeld pa | .error e => e.held)

/-- An operation of a launcher or of the controller at its home, on behalf of a partition. (log 31, DEDUCED) -/
def Mach.launchOp (m : Mach) (p : Nat) (va : Word) (k : Kind) (op : Nat → MemOp) : Except Cause Nat × Mach :=
  match m.launchXlate p va k with
  | .error e => (.error e.cause, m.marked e.entry)
  | .ok (pa, pte) =>
    match m.performSlice (op pa) pa { core := m.firstCore p, va := va } (ptePk pte) with
    | (.data v, m) => (.ok v, m)
    | (.failed e _, m) => (.error e, m)
    | (_, m) => (.ok 0, m)

/-- A read of `n` bytes. (log 31, DEDUCED) -/
def Mach.launchRead (m : Mach) (p : Nat) (va : Word) (n : Nat) : Except Cause Nat × Mach :=
  m.launchOp p va .load (fun _ => .load n)
/-- A write of bytes at offsets from a GV address. (log 31, DEDUCED) -/
def Mach.launchWrite (m : Mach) (p : Nat) (va : Word) (bytes : List (Nat × Byte)) : Except Cause Nat × Mach :=
  m.launchOp p va .store (fun pa => .store (bytes.map (fun b => (pa + b.1, b.2))))

/-- The launcher of a queue's die takes the newest slice map where its own names a retired slice (R148, R149). -/
def Mach.launcherMap (m : Mach) (p q : Nat) (va : Word) : Mach :=
  match m.launchXlate p va .load with
  | .ok (pa, pte) => m.remapped (launcherEnd (queueDie q)) pa (hashUnit pte)
  | .error _ => m

/-- The GV address of a queue's descriptor (R241). -/
def Mach.descAddr (m : Mach) (p q : Nat) : Word := BitVec.ofNat 64 (m.pcb p 8 + 64 * q)

/-- An entry of a launcher in a die's queue: the cause, the descriptor's or record's address, and a core it concerns. -/
def Mach.launchEntryAt (m : Mach) (d p : Nat) (e : Cause) (a : Word) (c : Option Nat) : Mach :=
  m.post d p { cause := e.code, core := c, bad := a, pc := a }
def Mach.launchEntry (m : Mach) (p q : Nat) (e : Cause) (a : Word) (c : Option Nat) : Mach := m.launchEntryAt (queueDie q) p e a c

def QState.code : QState → Nat
  | .disabled => 0 | .running => 1 | .preempted => 2 | .killed => 3 | .fenced => 4 | .error => 5

/-- HEAD and STATE written to the descriptor at its home, ENABLE and its neighbours kept (R241, R242): the cause if the
write fails. -/
def Mach.descWrite (m : Mach) (p q : Nat) : Except Cause Nat × Mach :=
  let x := m.queue p q
  let a := m.descAddr p q
  match (m.launcherMap p q a).launchOp p (a + 8) .store (fun _ => .storeMask 0xF000 (x.state.code * 2 ^ 12) false) with
  | (.error e, m) => (.error e, m)
  | (.ok _, m) => m.launchWrite p a (bytesAt 16 8 (x.head % 2 ^ 32))

/-- HEAD and STATE written to the descriptor, and the host told (R242, R274); a write that fails sets STATE to ERROR, with an
entry where `report` holds. While the line is held at its home the write is owed. (log 31, DEDUCED) -/
def Mach.publishWith (report : Bool) (m : Mach) (p q : Nat) : Mach :=
  let owes (b : Bool) (m : Mach) : Mach := m.modQueue p q (fun x => { x with owed := b })
  if m.launchHeld p (m.descAddr p q) then owes true m
  else match m.descWrite p q with
    | (.error e, m) =>
      let m := owes false (m.modQueue p q (fun x => { x with state := .error }))
      if report then m.launchEntry p q e (m.descAddr p q) none else m
    | (.ok _, m) => (owes false m).msix p 5
def Mach.publish (m : Mach) (p q : Nat) : Mach := m.publishWith true p q

/-- The writes owed to descriptors whose lines are held no more (R148, R269). -/
def Mach.publishOwed (m : Mach) : Mach :=
  (List.range 8).foldl (fun m p =>
    ((m.part p).queues.filter (fun e => e.2.owed)).foldl (fun m e => m.publish p e.1) m) m

/-- A doorbell whose descriptor could not be read: STATE becomes ERROR, with one entry and no other effect (R242).
(log 31, DEDUCED) -/
def Mach.descFailed (m : Mach) (p q : Nat) (e : Cause) : Mach :=
  ((m.modQueue p q (fun x => { x with state := .error })).launchEntry p q e (m.descAddr p q) none).publishWith false p q

/-- A queue's state changes. -/
def Mach.setState (m : Mach) (p q : Nat) (st : QState) : Mach := (m.modQueue p q (fun x => { x with state := st })).publish p q

/-! ### Doorbells (R242) -/

/-- The limits that are not zero rise. -/
def limitsOk (a b c : Nat) : Bool :=
  (a == 0 || b == 0 || decide (a ≤ b)) && (b == 0 || c == 0 || decide (b ≤ c)) && (a == 0 || c == 0 || decide (a ≤ c))

/-- Whether a doorbell value `v` and a descriptor `d` (its 64 bytes) pass the checks, with the launcher's HEAD. -/
def doorbellOk (v : Word) (d head : Nat) : Bool :=
  field v 33 31 == 0 && nbits d 69 3 == 0 && nbits d 73 3 == 0 && nbits d 80 48 == 0 && nbits d 252 4 == 0 && nbits d 256 256 == 0 &&
  decide (nbits d 64 5 ≤ 16) && nbits d 0 12 == 0 && limitsOk (nbits d 192 20) (nbits d 212 20) (nbits d 232 20) &&
  decide ((field v 0 32 + 2 ^ 32 - head % 2 ^ 32) % 2 ^ 32 ≤ 2 ^ nbits d 64 5)

/-- The state that a doorbell write leaves a queue in. -/
def doorbellState (st : QState) (enable clear : Bool) : QState :=
  if enable then
    match st with
    | .disabled => .running
    | .preempted => if clear then .running else .preempted
    | .killed => if clear then .running else .killed
    | .error => if clear then .running else .error
    | x => x
  else
    match st with
    | .running => .disabled
    | .preempted => .disabled
    | x => x

/-- A doorbell write of one of the 64 queues (R241, R242), which waits while its descriptor's line is held (R148, R269).
(log 31, DEDUCED) -/
def Mach.doorbell (m : Mach) (p q : Nat) (v : Word) : Mach :=
  let a := m.descAddr p q
  if decide (64 ≤ q) || (m.part p).state == .absent || (m.part p).state == .resetting || m.launchHeld p a then m
  else match (m.launcherMap p q a).launchRead p a 64 with
    | (.error e, m) => m.descFailed p q e
    | (.ok d, m) =>
      let x := m.queue p q
      if doorbellOk v d x.head then
        let clear := v.getLsbD 32
        let st := doorbellState x.state (d.testBit 72) clear
        let m := m.modQueue p q (fun x => { x with
          base := BitVec.ofNat 64 (nbits d 0 64), log2n := nbits d 64 5, t1 := nbits d 192 20, t2 := nbits d 212 20,
          t3 := nbits d 232 20, tail := field v 0 32, state := st,
          rungs := if clear then [] else x.rungs, killSince := if clear then none else x.killSince,
          killed := if clear then [] else x.killed })
        if st = x.state then m else m.publish p q
      else (m.setState p q .error).launchEntry p q .reservedField a none

/-- LAUNCH_DOORBELL (R242). -/
def execLaunchDoorbell (part q : Nat) (v : BitVec 64) (s : State) : Host.Outcome State Fault Refusal :=
  s.onMach (fun m => m.doorbell part q v)

/-- DOORBELL_CLEAR (R242): a write with CLEAR = 1. -/
def execDoorbellClear (part q : Nat) (v : BitVec 64) (s : State) : Host.Outcome State Fault Refusal :=
  s.onMach (fun m => m.doorbell part q (v ||| 0x100000000))

/-! ### Records (R243, R244) -/

/-- The address of the record at HEAD. -/
def Queue.recordAddr (x : Queue) : Word := x.base + BitVec.ofNat 64 (64 * (x.head % 2 ^ x.log2n))

/-- The targets of a header, in ascending target index, and whether it stays on the mesh. -/
def headTargets (h : Word) : List Nat :=
  (List.range (field h 28 4 + 1)).flatMap (fun i => (List.range (field h 38 6 + 1)).map (fun j =>
    64 * (field h 24 4 + i) + field h 32 6 + j))
def headInside (h : Word) : Bool := decide (field h 24 4 + field h 28 4 ≤ 15) && decide (field h 32 6 + field h 38 6 ≤ 63)

/-- The position of a core in the rectangle of a header. -/
def targetIndex (h : Word) (c : Nat) : Nat := (c / 64 - field h 24 4) * (field h 38 6 + 1) + (c % 64 - field h 32 6)

/-- One target: none while its store, or its deque, is full. (log 31, DEDUCED) -/
def Mach.launchAt (m : Mach) (p q c : Nat) : Option Mach :=
  let x := m.queue p q
  let a := x.recordAt
  if m.isFenced c then some (m.launchEntry p q .applyTargetFenced a (some c))
  else match m.freeEnv c with
    | none => none
    | some i =>
      let (h, m) := m.newClosure c i x.entry true false false 0 0 (x.record.drop 1 ++ [a])
      match m.takeApp p h false with
      | .error _ => none
      | .ok m => m.pushOldest c { h := h, tag := some q, args :=
          { w1 := BitVec.ofNat 64 q, w2 := BitVec.ofNat 64 x.head, w3 := BitVec.ofNat 64 (targetIndex (x.record.headD 0) c) } }

/-- The targets left of the record being applied, until one is full; HEAD advances after the last. (log 31, DEDUCED) -/
def Mach.launchTargets (m : Mach) (p q : Nat) : List Nat → Mach
  | [] =>
    (m.modQueue p q (fun x => { x with head := (x.head + 1) % 2 ^ 32, record := [], todo := [] })).publish p q
  | c :: t =>
    match m.launchAt p q c with
    | some m => m.launchTargets p q t
    | none => m.modQueue p q (fun x => { x with todo := c :: t })

/-- HEAD passes a rejected record. (log 31, DEDUCED) -/
def Mach.rejectRecord (m : Mach) (p q : Nat) (e : Cause) (a : Word) : Mach :=
  ((m.launchEntry p q e a none).modQueue p q (fun x => { x with head := (x.head + 1) % 2 ^ 32 })).publish p q

/-- A record or entry word that could not be read. (log 31, DEDUCED) -/
def Mach.failRecord (m : Mach) (p q : Nat) (e : Cause) (a : Word) : Mach := (m.setState p q .error).launchEntry p q e a none

/-- The record at HEAD is read, checked and applied; none while a line that is read is held at its home (R148, R269).
(log 31, DEDUCED) -/
def Mach.takeRecord (m : Mach) (p q : Nat) : Option Mach :=
  let a := (m.queue p q).recordAddr
  if m.launchHeld p a then none
  else match (m.launcherMap p q a).launchRead p a 64 with
  | (.error e, m) => some (m.failRecord p q e a)
  | (.ok r, m) =>
    let h : Word := BitVec.ofNat 64 (nbits r 0 64)
    let ea : Word := BitVec.ofNat 64 (m.pcb p 24 + 8 * field h 0 16)
    if field h 50 14 ≠ 0 || field h 16 8 ≠ 0 || field h 44 6 ≠ q || field (BitVec.ofNat 64 (m.pcb p 32)) 0 16 ≤ field h 0 16 then
      some (m.rejectRecord p q .reservedField a)
    else if m.launchHeld p ea then none
    else
      match (m.launcherMap p q ea).launchRead p ea 8 with
      | (.error e, m) => some (m.failRecord p q e a)
      | (.ok w, m) =>
        if w % 4 ≠ 0 || w / 2 ^ 56 ≠ 0 then some (m.rejectRecord p q .reservedField a)
        else if !headInside h || (headTargets h).any (fun c => !m.inPart p c) then some (m.rejectRecord p q .partitionViolation a)
        else
          some ((m.modQueue p q (fun x => { x with
            record := (List.range 8).map (fun i => BitVec.ofNat 64 (nbits r (64 * i) 64)), recordAt := a,
            entry := BitVec.ofNat 64 w, todo := headTargets h })).launchTargets p q (headTargets h))

/-- Whether a queue has a record that its launcher may read next. -/
def Mach.queueReady (m : Mach) (p q : Nat) : Bool :=
  let x := m.queue p q
  (m.part p).state == .running && x.state == .running && x.todo.isEmpty && x.head != x.tail

/-- The queue that the launcher of a die serves next: in rotation after the last (R244). (log 31, DEDUCED) -/
def Mach.nextQueue (m : Mach) (d : Nat) : Option Nat :=
  ((List.range 512).map (fun i => ((m.die d).served + 1 + i) % 512)).find? (fun n => queueDie n == d && m.queueReady (n / 64) (n % 64))

/-- LAUNCH_RECORD (R244): nothing happens while the rotation is at another queue. -/
def execLaunchRecord (part q : Nat) (s : State) : Host.Outcome State Fault Refusal :=
  s.onMach (fun m =>
    if m.queueReady part q && m.nextQueue (queueDie q) == some (64 * part + q) then
      ((m.modDie (queueDie q) (fun d => { d with served := 64 * part + q })).takeRecord part q).getD m
    else m)

/-- LAUNCH_TARGET_RETRY (R244). -/
def execLaunchTargetRetry (part q : Nat) (s : State) : Host.Outcome State Fault Refusal :=
  s.onMach (fun m =>
    let x := m.queue part q
    let may := match x.state with
      | .running => true | .preempted => true | .disabled => true | .killed => false | .fenced => false | .error => false
    if (m.part part).state == .running && may && !x.todo.isEmpty then m.launchTargets part q x.todo else m)

/-! ### The watchdog (R246) -/

/-- The dispatch times of a partition's running tasks with a tag, held tasks included, each with its core. -/
def Mach.tagTimes (m : Mach) (p q : Nat) : List (Nat × Nat) :=
  (m.ctxs.filter (fun e => m.inPart p (e.1 / 16) && e.2.live && e.2.tag == some q && e.1 % 16 != 0)).map (fun e => (e.2.since, e.1 / 16)) ++
  (m.cores.filter (fun e => m.inPart p e.1)).flatMap (fun e =>
    ((e.2.holds ++ e.2.resumed).filter (fun h => h.ctx.tag == some q)).map (fun h => (h.ctx.since, e.1)))

/-- The earliest of them. -/
def Mach.oldestTag (m : Mach) (p q : Nat) : Option (Nat × Nat) :=
  (m.tagTimes p q).foldl (fun b t => match b with | some x => some (if t.1 < x.1 then t else x) | none => some t) none

/-- Whether the measured time of a queue has reached a limit, in units of 10 µs. -/
def Mach.rungDue (m : Mach) (p q n limit : Nat) : Bool :=
  let x := m.queue p q
  limit != 0 && !x.rungs.contains n && (x.state == .running || x.state == .preempted) &&
  (match m.oldestTag p q with | some t => decide (t.1 + 10000 * limit ≤ m.now) | none => false)

/-- A rung's entry, in the queue of the die of the core it concerns (R298). (log 32, DEDUCED) -/
def Mach.rungEntry (m : Mach) (p q : Nat) (e : Cause) (c : Nat) (named : Bool) : Mach :=
  m.launchEntryAt (dieOfCore c) p e (m.queue p q).recordAddr (if named then some c else none)

/-- WATCHDOG_PREEMPT (R246). (log 32, DEDUCED) -/
def execWatchdogPreempt (part q : Nat) (s : State) : Host.Outcome State Fault Refusal :=
  s.onMach (fun m =>
    if m.rungDue part q 0 (m.queue part q).t1 then
      let c := ((m.oldestTag part q).map (·.2)).getD 0
      let m := m.modQueue part q (fun x => { x with rungs := 0 :: x.rungs })
      (m.setState part q .preempted).rungEntry part q .watchdogPreempt c false
    else m)

/-- The cores of a partition that run tasks with a tag, and those tasks (core, task). -/
def Mach.tagCores (m : Mach) (p q : Nat) : List Nat := (m.coresOf p).filter (fun c => m.runsTag c q)
def Mach.tagTasks (m : Mach) (c q : Nat) : List (Nat × Nat) :=
  (m.tagged c q).map (fun x => (c, (m.ctx c x).task)) ++
  (((m.core c).holds ++ (m.core c).resumed).filter (fun h => h.ctx.tag == some q)).map (fun h => (c, h.ctx.task))

/-- Every running and held task with a tag on a core is killed, and its entries leave (R247). (log 32, DEDUCED) -/
def Mach.killTag (m : Mach) (c q : Nat) : Mach :=
  let m := (m.tagged c q).foldl (fun m x => m.killCtx c x) m
  (m.killHolds c (fun h => h.ctx.tag == some q)).dropTagged c q

/-- WATCHDOG_KILL (R246). (log 32, DEDUCED) -/
def execWatchdogKill (part q : Nat) (s : State) : Host.Outcome State Fault Refusal :=
  s.onMach (fun m =>
    if m.rungDue part q 1 (m.queue part q).t2 then
      let since := (m.oldestTag part q).map (·.1)
      let cs := m.tagCores part q
      let tasks := cs.flatMap (fun c => m.tagTasks c q)
      let m := m.modQueue part q (fun x => { x with rungs := 1 :: x.rungs, killSince := since, killed := tasks })
      let m := m.setState part q .killed
      let m := ((m.coresOf part).foldl (fun m c => m.killTag c q) m).dropParked part q
      cs.foldl (fun m c => m.rungEntry part q .watchdogKill c true) m
    else m)

/-- A core is fenced: its pool frames are force-released (R104, R246). (log 32, DEDUCED) -/
def Mach.fenceCore (m : Mach) (c : Nat) : Mach :=
  let m := (m.core c).used.foldl (fun m i => m.releaseFrame c i) m
  m.modCore c (fun r => { r with fenced := true })

/-- The cores on which a kill is not complete (R247). (log 32, DEDUCED) -/
def Mach.killOpen (m : Mach) (killed : List (Nat × Nat)) : List Nat :=
  ((killed.filter (fun k => !m.quietTag k.1 [k.2])).map (·.1)).eraseDups

/-- WATCHDOG_FENCE (R246): T3 after the dispatch that set off T2, the cores with a kill not complete are fenced, and the
queue is FENCED. (log 32, DEDUCED) -/
def execWatchdogFence (part q : Nat) (s : State) : Host.Outcome State Fault Refusal :=
  s.onMach (fun m =>
    let x := m.queue part q
    match x.killSince with
    | some t =>
      if x.t3 ≠ 0 && !x.rungs.contains 2 && x.state == .killed && decide (t + 10000 * x.t3 ≤ m.now) then
        let m := m.modQueue part q (fun x => { x with rungs := 2 :: x.rungs })
        let m := (m.killOpen x.killed).foldl (fun m c => (m.fenceCore c).rungEntry part q .coreFenced c true) m
        m.setState part q .fenced
      else m
    | none => m)

/-- Requests that forwarding entries take are sent on, and the replies to them go back (R260); migrations whose held requests
have been sent on end (R259). -/
def Mach.sendOnAll (m : Mach) : Mach :=
  let n := m.packets.length
  let m := (m.relayAll n).forwardAll n
  (m.cores.filter (fun e => !e.2.migrations.isEmpty)).foldl (fun m e => m.endMigrations e.1) m

/-- What comes about by itself between turns: requests are sent on (R259, R260), LDS requests are served and joins end (R69,
R385), lanes of APPLYVs go on (R340), cancels of ended sequences end (R367), steal waits end (R82), and descriptors that were
held are written (R242). -/
def Mach.advance (m : Mach) : Mach := m.sendOnAll.serve.moreLanes.endCancels.endSteals.publishOwed

end Sys2Proof.Machine
end

