-- ==== Sys2Proof/Machine/Power.lean ====
section
/-!
DEFINITION. Isobar: the budget tree, duties, clocks and refresh bands (R262 to R269), and the collective (R268).
-/
namespace Sys2Proof

/-! ### The budget tree (R262) -/

/-- A budget divided among demands: each its demand if they fit, otherwise its share, rounded down. -/
def Machine.share (b total d : Nat) : Nat := if total ≤ b then d else b * d / total

def Machine.sum (l : List Nat) : Nat := l.foldl (· + ·) 0

/-- The cores of a row on a die. -/
def Machine.railCores (d r : Nat) : List Nat := (List.range 16).map (fun j => 64 * r + 16 * d + j)

/-- The demand of a core, of a row's cores on a die, of a die's cores, and of a die with what it sets aside. -/
def Measures.core (x : Measures) (c : Nat) : Nat := (x.demand.lookup c).getD 0
def Measures.rail (x : Measures) (d r : Nat) : Nat := Machine.sum ((Machine.railCores d r).map x.core)
def Measures.rails (x : Measures) (d : Nat) : Nat := Machine.sum ((List.range 16).map (x.rail d))
def Measures.die (x : Measures) (d : Nat) : Nat := x.rails d + x.fixed.getD d 0

/-- The budget of a core, in milliwatts, with a package budget. -/
def Measures.budget (x : Measures) (package c : Nat) : Nat :=
  let d := Machine.dieOfCore c
  let r := Machine.rowOf c
  let die := Machine.share package (Machine.sum ((List.range 4).map x.die)) (x.die d)
  let rail := Machine.share (die - x.fixed.getD d 0) (x.rails d) (x.rail d r)
  Machine.share rail (x.rail d r) (x.core c)

/-- Whether the arrays of a die were busy in the window: an MMA ran, or is under way (R266). (log 33, DESIGN CHOICE) -/
def Machine.Mach.matrixBusy (m : Machine.Mach) (d : Nat) : Bool :=
  m.matrixRan.contains d || m.clusters.any (fun e => Machine.dieOfCore (8 * e.1) == d &&
    e.2.seqs.head?.any (fun s => s.stopped.isNone && s.cmd.any (fun r => Machine.cmdOp r == 0x11)))

/-- The ceiling after a window: 2.1 GHz where the matrix share is at least one half (R266). -/
def Machine.ceilingFor (mx v : Nat) : Nat := if 0 < mx && v ≤ mx then 2100 else 2400

/-- Whether the module is run as R267 rates it: coolant, inlet, the full package budget, and demands within it. -/
def Measures.isRated (x : Measures) (limit : Nat) : Bool :=
  x.rated && limit == 3200 && decide (Machine.sum ((List.range 4).map x.die) ≤ 3200000)

/-- The clock of a die before the collective ceiling (R266), the matrix-busy cycles measured and the vector-issue cycles
counted: as rated the limits leave at least 1.9 GHz, and the thermal limit falls in steps of 25 MHz (R267). (log 33, DESIGN
CHOICE) -/
def Measures.clock (x : Measures) (m : Machine.Mach) (limit d : Nat) : Nat :=
  let busy := if m.matrixBusy d then x.matrix.getD d 0 else 0
  let own := min (min (Machine.ceilingFor busy (m.vectorIssues.getD d 0)) (x.budgetClock.getD d 2400)) (2400 - 25 * x.thermalSteps)
  if x.isRated limit then max 1900 own else own

end Sys2Proof

namespace Sys2Proof.Machine

/-- The clocks that the dies run: the least of their own and the collective ceiling (R266, R268). (log 33, DESIGN CHOICE) -/
def Power.capped (p : Power) (own : List Nat) : List Nat := own.map (fun c => min c (p.ceiling.getD 2400))

/-! ### Duties (R263) -/

/-- The duty floor of a core: FLOOR of its partition, 0 taken as 1 (R278). -/
def Mach.dutyFloor (m : Mach) (c : Nat) : Nat :=
  match m.partOf c with
  | some p => max 1 (field (BitVec.ofNat 64 (m.pcb p 56)) 16 5)
  | none => 1

/-- The duty for a budget and a demand. (log 33, DESIGN CHOICE) -/
def dutyFor (b d floor : Nat) : Nat := if d = 0 then 16 else min 16 (max ((16 * b + d - 1) / d) floor)

/-- A core's duty set; the old one is kept for a CSRD of the cycle of the change. -/
def Power.setDuty (p : Power) (cycles c v : Nat) : Power :=
  if p.dutyOf c = v then p
  else { p with duty := if v = 16 then Table.drop p.duty c else Table.set p.duty c v,
                dutyWas := Table.set p.dutyWas c (cycles, p.dutyOf c) }

/-- FDUTY of cores at its reset value (R24, R263). -/
def Power.resetDuty (p : Power) (cs : List Nat) : Power :=
  { p with duty := p.duty.filter (fun e => !cs.contains e.1), dutyWas := p.dutyWas.filter (fun e => !cs.contains e.1) }

/-- The cycles of the last change forgotten, where CYCLES takes a saved value (R263). -/
def Power.forgetCycles (p : Power) (cs : List Nat) : Power := { p with dutyWas := p.dutyWas.filter (fun e => !cs.contains e.1) }

/-- Every core's duty set by a choice. -/
def Power.setDuties (p : Power) (m : Mach) (f : Nat → Nat) : Power :=
  (List.range 1024).foldl (fun p c => p.setDuty (m.core c).cycles c (f c)) p

/-! ### Refresh bands (R269) -/

/-- The band a temperature calls for, and the band held, left downward only 2 °C below its edge, and self-refresh only
below 100 °C. (log 33, DESIGN CHOICE) -/
def bandFor (t : Nat) : Nat := if 105 < t then 3 else if 95 < t then 2 else if 85 < t then 1 else 0
def bandHeld (old t : Nat) : Nat :=
  match old with
  | 0 => bandFor t
  | 1 => if t ≤ 83 then bandFor t else max 1 (bandFor t)
  | 2 => if t ≤ 93 then (if t ≤ 83 then 0 else 1) else max 2 (bandFor t)
  | _ => if t < 100 then (if t ≤ 93 then (if t ≤ 83 then 0 else 1) else 2) else 3

/-- THERMAL_EMERGENCY, naming the stack, in every fault queue of every partition. (log 19, DESIGN CHOICE; log 20, DEDUCED) -/
def Mach.emergencies (m : Mach) (hot : List Nat) : Mach :=
  hot.foldl (fun m n => ((List.range 8).filter (fun p => (m.part p).state != .absent)).foldl (fun m p =>
    m.postAll p { cause := Cause.thermalEmergency.code, aux0 := BitVec.ofNat 64 n }) m) m

/-- MSI-X vector 6 of every partition (R274). (log 34, DEDUCED) -/
def Mach.bandChanged (m : Mach) : Mach :=
  ((List.range 8).filter (fun p => (m.part p).state != .absent)).foldl (fun m p => m.msix p 6) m

/-- The bands after a tick. -/
def Mach.nextBands (m : Mach) (temps : List Nat) : List Nat :=
  (List.range 16).map (fun n => bandHeld (m.bands.getD n 0) (temps.getD n 0))

/-- ISOBAR_TICK (R262, R263, R266, R269): once at each multiple of 10,000 ns. In a collective the device's own duties only enter
the choice that it sends its leader (R268). (log 33, DESIGN CHOICE; log 34, DEDUCED) -/
def execIsobarTick (x : Measures) (s : State) : Host.Outcome State Fault Refusal :=
  if s.now ≠ 10000 * (s.power.ticked + 1) then .next s
  else
    let p := s.power
    let duty (c : Nat) : Nat := dutyFor (x.budget (p.limit * 1000) c) (x.core c) (s.m.dutyFloor c)
    let own := (List.range 4).map (x.clock s.m p.limit)
    let bands := s.m.nextBands x.temps
    let hot := (List.range 16).filter (fun n => bands.getD n 0 == 3 && s.m.bands.getD n 0 != 3)
    let m := { s.m.emergencies hot with bands := bands, vectorIssues := [0, 0, 0, 0], matrixRan := [] }
    let least := ((List.range 1024).map duty).foldl min 16
    let q : Power := { p with own := own, clocks := p.capped own, temps := x.temps, ticked := p.ticked + 1, reports := [],
                              chosen := (least, own.foldl min 2400) }
    let q := if p.collective then q else q.setDuties s.m duty
    let m := if bands = s.m.bands && q.duty = p.duty then m else m.bandChanged
    .next { s with m := m, power := q }

/-! ### The collective (R268) -/

/-- The pair a leader announces: the least of each over its own choice and every member's report; none while a member's is
still to come. (log 65, DESIGN CHOICE) -/
def Power.announces (p : Power) : Option (Nat × Nat) :=
  p.members.foldl (fun b n =>
    match b, p.reports.find? (fun r => r.1 == n) with
    | some x, some r => some (min x.1 r.2.1, min x.2 r.2.2)
    | _, _ => none) (some p.chosen)

/-- COLLECTIVE_ANNOUNCEMENT: the leader announces its pair for an apply tick two ticks later, and a member receives its
leader's, if before that tick. (log 33, DESIGN CHOICE; log 65, DESIGN CHOICE) -/
def execCollectiveAnnouncement (duty clock tick : Nat) (s : State) : Host.Outcome State Fault Refusal :=
  let p := s.power
  let take (t d c : Nat) : Host.Outcome State Fault Refusal :=
    .next { s with power := { p with announced := p.announced.filter (fun a => a.1 != t) ++ [(t, d, c)] } }
  if !p.collective then .next s
  else if p.leader then
    match p.announces with
    | some (d, c) => take (p.ticked + 2) d c
    | none => .next s
  else if decide (1 ≤ duty) && decide (duty ≤ 16) && decide (p.lastTick < tick) && decide (tick ≤ s.now / 10000 + 2) then
    take tick duty clock
  else .next s

/-- The apply tick that comes next, and whether the count is within 100 ns of it or later (R268). -/
def State.applyDue (s : State) : Bool := decide (10000 * (s.power.lastTick + 1) ≤ s.now + 100)

/-- COLLECTIVE_APPLY_TICK: the announced duty on every core and the announced clock as ceiling; with none for this tick
the values stay, and after 10 such ticks a LINK_DOWN entry goes to every fault queue of every partition.
(log 33, DESIGN CHOICE; log 34, DEDUCED; log 65, DESIGN CHOICE) -/
def execCollectiveApplyTick (s : State) : Host.Outcome State Fault Refusal :=
  let p := s.power
  let tick := p.lastTick + 1
  if !p.collective || !s.applyDue then .next s
  else
    let later := p.announced.filter (fun a => decide (tick < a.1))
    match p.announced.find? (fun a => a.1 == tick) with
    | some (_, duty, clock) =>
      let q := { p with announced := later, missed := 0, lastTick := tick, ceiling := some clock }
      let q := Power.setDuties { q with clocks := q.capped q.own } s.m (fun _ => max 1 (min 16 duty))
      .next { s with m := if q.duty = p.duty then s.m else s.m.bandChanged, power := q }
    | none =>
      let m := if p.missed = 9 then
          ((List.range 8).filter (fun n => (s.m.part n).state != .absent)).foldl (fun m n =>
            m.postAll n { cause := Cause.linkDown.code }) s.m
        else s.m
      .next { s with m := m, power := { p with announced := later, lastTick := tick, missed := p.missed + 1 } }

end Sys2Proof.Machine
end

