-- ==== Sys2Proof/Machine/Management.lean ====
section
/-!
DEFINITION. The management service, the host, and the device as a whole: partitions (R275 to R279), fold groups (R193),
slices (R147, R148), context switches (R257), power of cores (R271), firmware (R280 to R282) and host accesses (R167,
R273).
-/
namespace Sys2Proof.Machine

/-! ### Commands (R270) -/

/-- An entry about an access of the controller for a configured partition (R134, R277). (log 23, DESIGN CHOICE) -/
def Mach.controlEntry (m : Mach) (p : Nat) (e : Cause) (a : Word) : Mach :=
  if (m.part p).state == .absent then m else m.launchEntryAt (dieOfCore (m.firstCore p)) p e a none

/-- A write of the controller: whether it was performed; one that is refused has its entry (R277). (log 23, DESIGN CHOICE) -/
def Mach.controlWrite (m : Mach) (p : Nat) (a : Word) (bytes : List (Nat × Byte)) : Bool × Mach :=
  match m.launchWrite p a bytes with
  | (.ok _, m) => (true, m)
  | (.error e, m) => (false, m.controlEntry p e a)

/-- The lines of `n` bytes of HBM are read by the controller: whether all are good; one that is not has its entry (R134, R144).
(log 23, DESIGN CHOICE) -/
def Mach.controlLines (m : Mach) (p pa n : Nat) : Bool × Mach :=
  ((List.range ((pa % 128 + n + 127) / 128)).map (fun i => pa - pa % 128 + 128 * i)).foldl (fun r a =>
    match r.2.readBad a with
    | (none, m) => (r.1, m)
    | (some e, m) => (false, m.controlEntry p e (BitVec.ofNat 64 a))) (true, m)

/-- Whether a line of `n` bytes of HBM is held at its home (R148, R269). -/
def Mach.controlHeld (m : Mach) (pa n : Nat) : Bool :=
  (List.range ((pa % 128 + n + 127) / 128)).any (fun i => m.memHeld (pa - pa % 128 + 128 * i))

/-- The STATUS of the record that the controller performs is written to it. (log 23, DESIGN CHOICE) -/
def Mach.writeStatus (m : Mach) (p status : Nat) : Mach :=
  let x := m.part p
  match x.record with
  | some (_, a) => if x.serving then (m.controlWrite p a [(1, BitVec.ofNat 8 status)]).2.modPart p (fun x => { x with record := none }) else m
  | none => m

/-- A STATUS given, and MSI-X vector 0. -/
def Mach.gave (m : Mach) (p status : Nat) : Mach := (m.modPart p (fun x => { x with statuses := x.statuses ++ [status] })).msix p 0

/-- A record served: its STATUS (1 done, 2 refused, 3 bad argument, 4 wrong ring), and MSI-X vector 0.
(log 23, DESIGN CHOICE) -/
def Mach.served (m : Mach) (p status : Nat) : Mach := (m.writeStatus p status).gave p status

/-- A command whose STATUS comes once its effect is complete (R257, R279). (log 23, DESIGN CHOICE) -/
def Mach.defer (m : Mach) (p : Nat) : Mach :=
  m.modPart p (fun x =>
    if x.serving then { x with pending := some (x.record.map (·.2)), record := none } else { x with pending := some none })

/-- The STATUS of that command. -/
def Mach.completed (m : Mach) (p status : Nat) : Mach :=
  match (m.part p).pending with
  | none => m
  | some r =>
    let m := match r with | some a => (m.controlWrite p a [(1, BitVec.ofNat 8 status)]).2 | none => m
    (m.modPart p (fun x => { x with pending := none })).gave p status

/-- Whether the record of that command is held at its home (R148, R269). -/
def Mach.pendingHeld (m : Mach) (p : Nat) : Bool :=
  match (m.part p).pending with | some (some a) => m.launchHeld p a | _ => false

/-- Recovery: the boot ROM does not run the image of this power-on (R280). (log 24, DESIGN CHOICE) -/
def Mach.recovery (m : Mach) : Bool := !imageRuns m.image

/-- A command, which recovery refuses (R280). (log 23, DESIGN CHOICE; log 24, DESIGN CHOICE) -/
def State.commandWith (s : State) (p : Nat) (f : State → State) : Host.Outcome State Fault Refusal :=
  if s.m.recovery then s.onMach (fun m => m.served p 2) else .next (f s)
/-- A command that concerns the device except its power tree. (log 23, DESIGN CHOICE; log 24, DESIGN CHOICE) -/
def State.command (s : State) (p : Nat) (f : Mach → Mach) : Host.Outcome State Fault Refusal :=
  s.commandWith p (fun s => { s with m := f s.m })

/-! ### Rows and cores (R271, R275, R279) -/

/-- Cores of a row mask. -/
def rowCores (rows : Nat) : List Nat := (List.range 1024).filter (fun c => rows.testBit (rowOf c))

/-- Clusters of a row mask. -/
def rowClusters (rows : Nat) : List Nat := (List.range 128).filter (fun k => rows.testBit (k / 8))

/-- The control context starts at the runtime entry. (log 5, DESIGN CHOICE) -/
def Mach.startCore (m : Mach) (p c : Nat) : Mach := m.modCtx c 0 (fun v => { v with pc := BitVec.ofNat 64 (m.pcb p 16) })

/-- A cluster at reset: accumulators +0.0, weight buffer zero (R232). -/
def Mach.resetCluster (m : Mach) (k : Nat) : Mach :=
  { m with mem := Mem.clear (Mem.clear m.mem (accKey k 0 0 0) 0x100000) (weightKey k 0) 0x800000, clusters := Table.drop m.clusters k }

/-- The cores and clusters of rows at their reset values. (log 25, DEDUCED) -/
def Mach.resetRows (m : Mach) (rows : Nat) : Mach :=
  (rowClusters rows).foldl Mach.resetCluster ((rowCores rows).foldl Mach.resetCore m)

/-- The control contexts of rows start. (log 25, DEDUCED) -/
def Mach.startRows (m : Mach) (p rows : Nat) : Mach := (rowCores rows).foldl (fun m c => m.startCore p c) m

/-- BRCFG at reset, with the POOL that the other partitions leave free; lingering frames in removed units are evicted (R111).
(log 25, DEDUCED) -/
def Mach.resetBrcfg (m : Mach) (p : Nat) : Mach :=
  Mach.trimPool p <| (List.range 4).foldl (fun m d =>
    let pool := min 128 (320 - m.poolOthers d p)
    m.modDiePart d p (fun q => { q with brcfg := 0x0001000400400000 ||| BitVec.ofNat 64 pool }))
    { m with slices := m.slices.map (fun e => (e.1, { e.2 with brcfg := Table.drop e.2.brcfg p })) }

/-- E2E at reset on every die, at once for every unit (R275). (log 25, DEDUCED) -/
def Mach.resetE2e (m : Mach) (p : Nat) : Mach :=
  (List.range 4).foldl (fun m d => m.modDiePart d p (fun q => { q with e2e := 5 }))
    { m with slices := m.slices.map (fun (e : Nat × Slice) => (e.1, { e.2 with e2e := Table.drop e.2.e2e p })),
             dies := m.dies.map (fun (e : Nat × Die) => (e.1, { e.2 with e2e := Table.drop e.2.e2e p })) }

/-- The queues of a partition that are not DISABLED become so, and are published; and their HEADs become 0 (R242, R279). -/
def Mach.disableQueues (m : Mach) (p : Nat) : Mach :=
  ((m.part p).queues.filter (fun e => e.2.state != .disabled)).foldl (fun m e => m.setState p e.1 .disabled) m
def Mach.zeroQueues (m : Mach) (p : Nat) : Mach :=
  let moved := (m.part p).queues.filter (fun e => e.2.head != 0)
  let m := m.modPart p (fun x => { x with queues := x.queues.map (fun e => (e.1, { owed := e.2.owed })) })
  moved.foldl (fun m e => m.publish p e.1) m

/-- Whether a task is live or held on a core. -/
def Mach.anyTask (m : Mach) (c : Nat) : Bool :=
  (List.range 11).any (fun x => (m.ctx c (x + 1)).live) || !(m.core c).holds.isEmpty || !(m.core c).resumed.isEmpty

/-! ### Packets of rows (R279) -/

/-- A request of the rows that has not been performed at its slice is delivered. -/
def Mach.deliverOne (m : Mach) (p : Packet) : Mach :=
  match p.body with
  | .mem op pa _ pk => if p.answers = 0 && decide (1024 ≤ p.dst) && p.phase != .done then (m.performSlice op pa (p.requester 0) pk).2 else m
  | _ => m

/-- The body with which a request to a fenced core completes (R179). -/
def fencedBody : Body → Body
  | .message _ _ => .status 2
  | .handle .info _ _ => .failed .coreFenced false
  | .handle _ _ _ => .handled (some .applyTargetFenced) 0
  | .stealAsk => .stolen none
  | .apply _ _ _ _ => .failed .applyTargetFenced false
  | .wake _ => .failed .applyTargetFenced false
  | _ => .failed .coreFenced false

/-- A request of a core outside the rows to one of theirs is answered as by a fenced core. -/
def Mach.answerFenced (m : Mach) (p : Packet) : Mach :=
  let m := m.modPacket p.id (fun q => { q with phase := .done })
  { m.fresh with packets := m.packets ++ [{ id := m.nextId, src := p.src, dst := p.src, reply := true, body := fencedBody p.body,
                                            phase := .arrived, core := p.core, task := p.task, also := p.also, answers := p.id }] }

/-- Packets to and from the cores of rows are delivered or completed, their stores that wait to be combined among them, and
their closed pair channels reopen. -/
def Mach.settleRows (m : Mach) (rows : Nat) : Mach :=
  let mine (e : Nat) : Bool := decide (e < 1024) && rows.testBit (rowOf e)
  let m := (rowCores rows).foldl Mach.drainAll m
  let m := (m.packets.filter (fun p => mine p.src)).foldl Mach.deliverOne m
  let gone := (m.packets.filter (fun p => p.answers == 0 && mine p.src)).map (·.id)
  let m := { m with packets := m.packets.filter (fun p => !((mine p.src || (mine p.dst && decide (1024 ≤ p.src))) && p.answers == 0) &&
                      !gone.contains p.answers),
                    closed := m.closed.filter (fun e => !(mine e.1 || mine e.2)) }
  (m.packets.filter (fun p => p.answers == 0 && mine p.dst && p.phase != .done)).foldl Mach.answerFenced m

/-! ### PART_CONFIG (R275, R278) -/

/-- The sum of a QoS field at bit `lo` over all partitions, `p` with its control block at `pcb`. -/
def Mach.qosSum (m : Mach) (p pcb lo : Nat) : Nat :=
  sum ((List.range 8).map (fun n =>
    if n = p then nbits (m.read (pcb + 56) 8) lo 6
    else if (m.part n).state == .absent then 0
    else nbits (m.pcb n 56) lo 6))

/-- PART_CONFIG's arguments are bad: no rows or unknown rows, or a control block outside HBM. -/
def partArgsBad (p pcb rows : Nat) : Bool :=
  decide (8 ≤ p) || rows == 0 || decide (2 ^ 16 ≤ rows) || pcb % 4096 != 0 || decide (hbmEnd < pcb + 4096)

/-- PART_CONFIG is refused: the partition is being reset, a row belongs to another partition, a row changed holds a live task,
or the QoS shares of all partitions exceed 64 (R275, R279). (log 25, DEDUCED) -/
def Mach.partRefused (m : Mach) (p pcb rows : Nat) : Bool :=
  (m.part p).state == .resetting ||
  (List.range 8).any (fun n => n != p && (m.part n).rows &&& rows != 0) ||
  (rowCores ((m.part p).rows ||| rows)).any m.anyTask ||
  decide (64 < m.qosSum p pcb 0) || decide (64 < m.qosSum p pcb 8)

/-- The partition takes its rows, its control block and its first values; added rows start, removed rows are held in
reset. (log 25, DEDUCED) -/
def Mach.configure (m : Mach) (p pcb rows : Nat) (expert : Bool) : Mach :=
  let old := (m.part p).rows
  let changed := (old ||| rows) ^^^ (old &&& rows)
  let m := if old = 0 then m else (m.disableQueues p).zeroQueues p
  let m := (m.settleRows changed).resetRows changed
  let head := m.read (pcb + 72) 4
  let m := m.modPart p (fun x =>
    { x with state := .running, rows := rows, expert := expert, pcb := pcb / 4096, queues := [], runtimeHead := head })
  ((m.resetBrcfg p).resetE2e p).startRows p (rows ^^^ (old &&& rows))

/-- PART_CONFIG (R275). (log 5, DESIGN CHOICE; log 23, DESIGN CHOICE; log 25, DEDUCED) -/
def execPartConfig (part pcb rows : Nat) (expert : Bool) (s : State) : Host.Outcome State Fault Refusal :=
  s.commandWith part (fun s =>
    let old := (s.m.part part).rows
    if partArgsBad part pcb rows then { s with m := s.m.served part 3 }
    else if s.m.partRefused part pcb rows then { s with m := s.m.served part 2 }
    else { s with m := (s.m.configure part pcb rows expert).served part 1,
                  power := s.power.resetDuty (rowCores ((old ||| rows) ^^^ (old &&& rows))) })

/-! ### PART_RESET and FLR (R279) -/

/-- The blocks of a partition are dropped: lines of PEER and HOST blocks are written back, those of HBM are not. -/
def Mach.dropBlocks (m : Mach) (p : Nat) : Mach :=
  let bs := m.blocks.filter (fun b => b.part == p)
  let m := bs.foldl (fun m b => (if regionType b.base = 0 then m else m.writeLines b.dirty).freeBlock { b with queue := [] }) m
  { m with blocks := m.blocks.filter (fun b => b.part != p),
           slices := m.slices.map (fun e => (e.1, { e.2 with wakes := e.2.wakes.filter (fun w => !m.inPart p w.2.core) })) }

/-- Every task of a core is killed (R247). -/
def Mach.killAll (m : Mach) (c : Nat) : Mach :=
  (((List.range 12).drop 1).filter (fun x => (m.ctx c x).live)).foldl (fun m x => m.killCtx c x) (m.killHolds c (fun _ => true))

/-- The first two steps of a reset: the queues are DISABLED, the tasks killed and the rows fenced; a context switch under way
is given up. (log 25, DEDUCED) -/
def Mach.beginReset (m : Mach) (p : Nat) : Mach :=
  let m := ((m.completed p 2).disableQueues p)
  ((m.coresOf p).foldl Mach.killAll m).modPart p (fun x => { x with state := .resetting })

/-- The steps that follow, after which the rows start again. (log 25, DEDUCED; log 75, DESIGN CHOICE) -/
def Mach.finishReset (m : Mach) (p : Nat) : Mach :=
  let rows := (m.part p).rows
  let m := (((m.settleRows rows).dropBlocks p).resetRows rows).zeroQueues p
  let m := { m with dieParts := (List.range 4).foldl (fun t d => Table.drop t (8 * d + p)) m.dieParts }
  let m := m.modPart p (fun x => { x with state := .running, groups := [], teams := [] })
  ((m.resetBrcfg p).resetE2e p).startRows p rows

/-- A reset under way ends: its command, if it was one, has its STATUS, and every FDUTY of the rows its reset value. -/
def State.endReset (s : State) (p : Nat) : State :=
  { s with m := (s.m.finishReset p).completed p 1, power := s.power.resetDuty (rowCores (s.m.part p).rows) }

/-- PART_RESET (R279): it begins, and ends at the controller's next turn or its own. (log 23, DESIGN CHOICE) -/
def execPartReset (part : Nat) (s : State) : Host.Outcome State Fault Refusal :=
  s.commandWith part (fun s =>
    match (s.m.part part).state with
    | .absent => { s with m := s.m.served part 2 }
    | .resetting => s.endReset part
    | _ => { s with m := (s.m.beginReset part).defer part })

/-- FLR (R279). -/
def execFlr (part : Nat) (s : State) : Host.Outcome State Fault Refusal :=
  match (s.m.part part).state with
  | .absent => .next s
  | .resetting => .next (s.endReset part)
  | _ => .next { s with m := s.m.beginReset part }

/-! ### FOLD_CONFIG (R193) -/

/-- The children of a tree word. -/
def treeChildren (w : Nat) : List Nat := (List.range (min 4 (nbits w 10 3))).map (fun i => nbits w (13 + 10 * i) 10)

/-- The cores reached from a list in at most `n` levels. -/
def reach (kids : Nat → List Nat) : Nat → List Nat → List Nat
  | 0, _ => []
  | n + 1, l => if l.isEmpty then [] else l ++ reach kids n (l.flatMap kids)

/-- The group that a record describes, unless it is to be refused. -/
def Mach.readGroup (m : Mach) (p pa : Nat) : Option (Nat × Group) :=
  let w0 := m.read pa 8
  let root := nbits w0 16 10
  let n := nbits w0 32 11
  let bitmap := m.read (pa + 8) 128
  let members := (List.range 1024).filter (fun c => bitmap.testBit c)
  let words := (List.range n).map (fun j => m.read (pa + 136 + 8 * j) 8)
  let tree := members.zip (words.map treeChildren)
  let parents := members.zip (words.map (fun w => nbits w 0 10))
  let kids (c : Nat) : List Nat := (tree.lookup c).getD []
  let all := tree.flatMap (·.2)
  let reached := reach kids (n + 1) [root]
  if nbits w0 6 10 != 0 || nbits w0 26 6 != 0 || nbits w0 43 21 != 0 || n == 0 || decide (1024 < n) || members.length != n ||
     members.any (fun c => !m.inPart p c) || !members.contains root ||
     words.any (fun w => decide (4 < nbits w 10 3) || nbits w 53 11 != 0) ||
     parents.any (fun e => if e.1 = root then e.2 != root else !(kids e.2).contains e.1) ||
     all.length + 1 != n || all.eraseDups.length != all.length || all.any (fun c => !members.contains c || c == root) ||
     reached.length != n then none
  else some (nbits w0 0 6, { root := root, tree := tree })

/-- The bytes of the record of a fold group: its header and bitmap, and a word for each member (R193).
(log 23, DESIGN CHOICE) -/
def Mach.groupBytes (m : Mach) (pa : Nat) : Nat := 136 + 8 * nbits (m.read pa 8) 32 11

/-- FOLD_CONFIG (R193): its record lies at a physical address of HBM; it waits while a fold of the group is in flight, or the
record's lines are held at their homes. (log 23, DESIGN CHOICE) -/
def execFoldConfig (part pa : Nat) (s : State) : Host.Outcome State Fault Refusal :=
  s.command part (fun m =>
    if hbmEnd < pa + 136 || pa % 8 ≠ 0 then m.served part 3
    else if m.controlHeld pa (m.groupBytes pa) then m
    else match m.controlLines part pa (m.groupBytes pa) with
    | (false, m) => m.served part 3
    | (true, m) => match m.readGroup part pa with
      | none => m.served part 2
      | some (g, v) =>
        if (List.range 8).any (fun n => n != part && (Table.find (m.part n).groups g).isSome) then m.served part 2
        else if m.folds.any (fun f => f.part == part && f.group == g) || !m.foldStores.isEmpty then m
        else (m.modPart part (fun x => { x with groups := Table.set x.groups g v })).served part 1)

/-! ### SLICE_RETIRE (R147, R148, R128) -/

/-- Retired slices of a die, and the next live slice after one. -/
def Mach.retiredOf (m : Mach) (d : Nat) : List Nat := (List.range 32).filter (fun i => (m.slice (32 * d + i)).retired)
def Mach.nextLive (m : Mach) (d i : Nat) : Nat :=
  (((List.range 31).map (fun j => (i + 1 + j) % 32)).find? (fun k => !(m.slice (32 * d + k)).retired)).getD i

/-- The lines that a slice has homed and written: those of listed bytes, or marked uncorrectable there. The line of a parkable
page is homed by its block, of any of the three sizes (R109, R147). (log 36, DEDUCED) -/
def Mach.linesAt (m : Mach) (slice : Nat) : List Nat :=
  let ls := (m.mem.filter (fun e => decide (e.1 < 0x10000000000000))).map (fun e => lineOf e.1) ++ m.l2Bad
  (ls.filter (fun l => [128, 0x4000, 0x10000, 0x40000].any (fun u => m.sliceOf (128 * l) u == slice))).foldl insertNat []

/-- The directory of a retired slice: waiters are reported, blocks without a frame are dropped, frames drain.
(log 36, DEDUCED) -/
def Mach.retireBlocks (m : Mach) (slice : Nat) : Mach :=
  let bs := m.blocks.filter (fun b => b.slice == slice)
  let m := bs.foldl (fun m b => m.reportAll slice .brumRegionReconfig b.queue) m
  { m with blocks := (m.blocks.filter (fun b => !(b.slice == slice && (b.state == .queued || b.state == .staging)))).map (fun b =>
      if b.slice = slice then
        { b with queue := [], leaving := true, state := if b.state == .lingering then .evicting else b.state }
      else b) }

/-- SLICE_RETIRE (R148). (log 23, DESIGN CHOICE; log 36, DEDUCED) -/
def execSliceRetire (part die slice : Nat) (s : State) : Host.Outcome State Fault Refusal :=
  s.command part (fun m =>
    let n := 32 * die + slice
    if 4 ≤ die || 32 ≤ slice then m.served part 3
    else if (m.slice n).retired || 8 ≤ (m.retiredOf die).length then m.served part 2
    else
      let lines := m.linesAt n
      let next := m.nextLive die slice
      let m := m.modDie die (fun d => { d with map := d.map.map (fun x => if x = slice then next else x), mapGen := (d.mapGen + 1) % 256 })
      let m := m.modSlice n (fun x => { x with retired := true, unwritten := lines, copies := [] })
      (m.retireBlocks n).served part 1)

/-- RETIRED_LINE_WRITEBACK (R148, R269): none to a stack whose traffic is held; a line bad in the slice takes a poison mark to
HBM (R144). (log 36, DEDUCED) -/
def execRetiredLineWriteback (slice pa : Nat) (s : State) : Host.Outcome State Fault Refusal :=
  s.onMach (fun m =>
    let l := lineOf pa
    if (m.slice slice).unwritten.contains l && !m.stackHeld pa then
      let m := m.modSlice slice (fun x => { x with unwritten := eraseNat x.unwritten l })
      if m.l2Bad.contains l then { m with l2Bad := eraseNat m.l2Bad l, poisoned := insertNat m.poisoned l } else m
    else m)

/-! ### Context switches (R257) -/

/-- CTX_SAVE (R257): the request entries; launchers and dispatchers stop. Its STATUS is given when the state is saved.
(log 23, DESIGN CHOICE; log 26, DESIGN CHOICE) -/
def execCtxSave (part area : Nat) (s : State) : Host.Outcome State Fault Refusal :=
  s.command part (fun m =>
    if hbmEnd ≤ area then m.served part 3
    else if (m.part part).state != .running then m.served part 2
    else ((m.postAll part { cause := Cause.contextSwitchRequest.code }).modPart part (fun x => { x with state := .switching, saveArea := area })).defer part)

/-- Whether a partition is quiescent (R257, steps 3 and 4). -/
def Mach.quiescent (m : Mach) (p : Nat) : Bool :=
  (m.coresOf p).all (fun c => !m.anyTask c && (m.core c).seqs.isEmpty && (m.core c).combine.isEmpty) &&
  m.clusters.all (fun e => !m.inPart p (8 * e.1) || e.2.seqs.isEmpty) &&
  !m.packets.any (fun k => m.inPart p k.core || m.inPart p k.src || m.inPart p k.dst) &&
  !m.blocks.any (fun b => b.part == p && b.state == .staging) && m.slices.all (fun e => e.2.wakes.all (fun w => !m.inPart p w.2.core))

/-- A wake not dispatched is a waiter again, at the head of its block's queue, and its pin is given up. -/
def Mach.unwake (m : Mach) (w : Nat × Entry) : Mach :=
  let e := w.2
  match e.pin with
  | some (slice, base) => m.modBlock slice base (fun b => { b with
      pins := b.pins - 1,
      queue := { h := e.h, core := w.1, va := e.args.w2, since := e.since, tag := e.tag, order := e.order } :: b.queue })
  | none => m

/-- A list of wakes with one more, later ones first. -/
def laterFirst (w : Nat × Entry) : List (Nat × Entry) → List (Nat × Entry)
  | [] => [w]
  | x :: t => if x.2.order ≤ w.2.order then w :: x :: t else x :: laterFirst w t

/-- The undispatched wakes of a partition go back, the last enqueued first, so that their order is kept (R257). -/
def Mach.unwakePart (m : Mach) (p : Nat) : Mach :=
  let wakes := (m.cores.filter (fun e => m.inPart p e.1)).flatMap (fun e => e.2.wakes.map (fun w => (e.1, w)))
  let m := { m with cores := m.cores.map (fun (e : Nat × Core) => if m.inPart p e.1 then (e.1, { e.2 with wakes := [] }) else e) }
  (wakes.foldr laterFirst []).foldl Mach.unwake m

/-- The frames of a partition's blocks are written back and freed. -/
def Mach.drainBlocks (m : Mach) (p : Nat) : Mach :=
  (m.blocks.filter (fun b => b.part == p && b.unit.isSome)).foldl (fun m b => (m.writeLines b.dirty).freeBlock b) m

/-- What is saved of a core: its L1, TLB and instruction cache are not. (log 26, DESIGN CHOICE) -/
def Core.saved (r : Core) : Core := { r with l1 := [], tlb := [], icache := [] }

/-- The bytes of a save area (R257). (log 26, DESIGN CHOICE) -/
def Mach.saveBytes (m : Mach) (p : Nat) : Nat := 2112 * 1024 * (m.coresOf p).length + 512 * 1024 * 128 + 256 * 1024 * 4

/-- Whether the traffic of a stack that a save area lies in is held (R269). (log 26, DESIGN CHOICE) -/
def Mach.areaHeld (m : Mach) (p area : Nat) : Bool :=
  (List.range 16).any (fun n => decide (stackOf area ≤ n) && decide (n ≤ stackOf (area + m.saveBytes p - 1)) && m.bands.getD n 0 == 3)

/-- Whether a frame of a partition's blocks cannot be written back, its stack's traffic being held (R269).
(log 26, DESIGN CHOICE) -/
def Mach.drainHeld (m : Mach) (p : Nat) : Bool := m.blocks.any (fun b => b.part == p && b.unit.isSome && m.stackHeld b.base)

/-- CONTEXT_SWITCH_SAVE (R257): once the partition is quiescent and the stacks it writes to take traffic, its state is saved and
its L1s and TLBs are invalid. (log 26, DESIGN CHOICE) -/
def execContextSwitchSave (part : Nat) (s : State) : Host.Outcome State Fault Refusal :=
  s.onMach (fun m =>
    if (m.part part).state == .switching && m.quiescent part && !m.pendingHeld part && !m.drainHeld part &&
        !m.areaHeld part (m.part part).saveArea then
      let m := (m.coresOf part).foldl Mach.settleOwn m
      let m := (m.unwakePart part).drainBlocks part
      let cores : Table Core := m.cores.map (fun e => if m.inPart part e.1 then (e.1, e.2.saved) else e)
      let m := { m with cores := cores, l1Bad := m.l1Bad.filter (fun b => !m.inPart part b.1),
                        clusters := m.clusters.map (fun (e : Nat × Cluster) => if m.inPart part (8 * e.1) then (e.1, { e.2 with tlb := [] }) else e) }
      let inRows (k : Nat) : Bool := decide (scratchKey 0 0 ≤ k) && m.inPart part (keyCore k)
      let x := m.part part
      let sv : Saved := { area := x.saveArea, rows := x.rows, cores := m.cores.filter (fun e => m.inPart part e.1),
                          ctxs := m.ctxs.filter (fun e => m.inPart part (e.1 / 16)),
                          mem := m.mem.filter (fun e => inRows e.1), empties := m.empties.filter inRows,
                          blocks := m.blocks.filter (fun b => b.part == part),
                          dies := m.dieParts.filter (fun e => e.1 % 8 == part), part := x,
                          pends := m.pends.filter (fun p => m.inPart part p.core) }
      (({ m with saved := m.saved.filter (fun (v : Saved) => v.area != x.saveArea) ++ [sv] } : Mach).modPart part (fun x => { x with state := .saved })).completed part 1
    else m)

/-- A table with the entries for which `mine` holds replaced. -/
def Table.replace {α : Type} (t u : Table α) (mine : Nat → Bool) : Table α :=
  u.foldl (fun t e => Table.set t e.1 e.2) (t.filter (fun e => !mine e.1))

/-- A core's saved state in its place: the banks that have failed (R137), the slice maps it holds (R147), and whether it is
fenced or off stay as they are. (log 26, DESIGN CHOICE) -/
def Core.restored (now saved : Core) : Core :=
  { saved with failed := now.failed, corrections := now.corrections, maps := now.maps, off := now.off, fenced := now.fenced }

/-- The state that was saved, in its place. (log 26, DESIGN CHOICE) -/
def Mach.restore (m : Mach) (p : Nat) (v : Saved) : Mach :=
  let core (c : Nat) : Bool := decide (c < 1024) && v.rows.testBit (rowOf c)
  let key (k : Nat) : Bool := decide (scratchKey 0 0 ≤ k) && core (keyCore k)
  let m := { m with
    cores := (rowCores v.rows).foldl (fun t c => Table.set t c ((m.core c).restored (Table.get v.cores c {}))) m.cores,
    ctxs := Table.replace m.ctxs v.ctxs (fun k => core (k / 16)),
    mem := Mem.writeAll (m.mem.filter (fun e => !key e.1)) v.mem,
    empties := v.empties.foldl insertNat (m.empties.filter (fun k => !key k)),
    blocks := m.blocks.filter (fun (b : Block) => b.part != p) ++ v.blocks,
    pends := m.pends.filter (fun (p : Pend) => !core p.core) ++ v.pends,
    dieParts := Table.replace m.dieParts v.dies (fun k => k % 8 == p) }
  m.modPart p (fun x => { x with state := .running, queues := v.part.queues, groups := v.part.groups, teams := v.part.teams })

/-- CTX_RESTORE (R257); it waits while the traffic of the save area's stack is held (R269).
(log 23, DESIGN CHOICE; log 26, DESIGN CHOICE) -/
def execCtxRestore (part area : Nat) (s : State) : Host.Outcome State Fault Refusal :=
  s.commandWith part (fun s =>
    let m := s.m
    match m.saved.find? (fun v => v.area == area && v.rows == (m.part part).rows) with
    | some v =>
      if m.areaHeld part area then s
      else if (m.part part).state == .saved then
        { s with m := (m.restore part v).served part 1, power := s.power.forgetCycles (rowCores v.rows) }
      else { s with m := m.served part 2 }
    | none => { s with m := m.served part 2 })

/-! ### Other commands -/

/-- CHAN_REOPEN (R177). (log 23, DESIGN CHOICE) -/
def execChanReopen (part src dst : Nat) (s : State) : Host.Outcome State Fault Refusal :=
  s.command part (fun m =>
    if 1165 ≤ src || 1165 ≤ dst then m.served part 3
    else ({ m with closed := m.closed.filter (fun e => e != (src, dst)) } : Mach).served part 1)

/-- POWER_LIMIT (R262). (log 23, DESIGN CHOICE) -/
def execPowerLimit (part watts : Nat) (s : State) : Host.Outcome State Fault Refusal :=
  if s.m.recovery then s.onMach (fun m => m.served part 2)
  else if watts < 400 || 3200 < watts then s.onMach (fun m => m.served part 3)
  else .next { s with m := s.m.served part 1, power := { s.power with limit := watts } }

/-- COLLECTIVE (R268, R442): `largest` is the largest count that the device learns of, to which TIMEBASE steps forward once the
tick at its present count has been taken; a tick at the count it comes to is still to be taken (R262).
(log 23, DESIGN CHOICE; log 34, DEDUCED) -/
def execCollective (part : Nat) (on leader : Bool) (peers : List Nat) (largest : Nat) (s : State) : Host.Outcome State Fault Refusal :=
  let p := s.power
  let ahead := on && decide (s.m.now < largest)
  if s.m.recovery then s.onMach (fun m => m.served part 2)
  else if peers.any (fun n => !s.m.peers.contains n) then s.onMach (fun m => m.served part 3)
  else if ahead && s.m.now == 10000 * (p.ticked + 1) then .next s
  else
    let m := if ahead then { s.m with now := largest } else s.m
    let q := { p with collective := on, leader := on && leader, members := if on then peers else [],
                      announced := [], reports := [], missed := 0, ceiling := if on then p.ceiling else none,
                      ticked := if ahead then (largest + 9999) / 10000 - 1 else p.ticked, lastTick := m.now / 10000 }
    .next { s with m := (m.served part 1).bandChanged, power := { q with clocks := q.capped q.own } }

/-- Whether a core is quiescent (R271). -/
def Mach.coreQuiet (m : Mach) (c : Nat) : Bool :=
  let r := m.core c
  let k := m.cluster (clusterOf c)
  !m.anyTask c && r.deque.isEmpty && r.spill.isEmpty && r.wakes.isEmpty && r.level1.isEmpty &&
  r.chans.all (fun h => h.held.isEmpty && h.posts.isEmpty && h.overflow.isEmpty && h.running == 0) && r.seqs.isEmpty && k.seqs.all (fun q => q.core != c) &&
  r.forwards.isEmpty && k.holder != some c && k.fifo.all (fun q => q.1 != c)

/-- A core of the rows at its reset values, switched off or on; a fenced core stays fenced (R247), and its stores that wait to
be combined go out (R145). -/
def Mach.switchCore (m : Mach) (c : Nat) (off : Bool) : Mach :=
  let fenced := (m.core c).fenced
  ((m.drainAll c).resetCore c).modCore c (fun r => { r with off := off, fenced := fenced })

/-- CORE_POWER, off (R271). (log 23, DESIGN CHOICE) -/
def execCorePowerOff (part core : Nat) (s : State) : Host.Outcome State Fault Refusal :=
  s.commandWith part (fun s =>
    let m := s.m
    if !m.inPart part core then { s with m := m.served part 3 }
    else if (m.core core).off || !m.coreQuiet core then { s with m := m.served part 2 }
    else { s with m := (m.switchCore core true).served part 1, power := s.power.resetDuty [core] })

/-- CORE_POWER, on (R271). (log 23, DESIGN CHOICE) -/
def execCorePowerOn (part core : Nat) (s : State) : Host.Outcome State Fault Refusal :=
  s.commandWith part (fun s =>
    let m := s.m
    if !m.inPart part core then { s with m := m.served part 3 }
    else if !(m.core core).off then { s with m := m.served part 2 }
    else { s with m := ((m.switchCore core false).startCore part core).served part 1, power := s.power.resetDuty [core] })

/-- FW_LOAD (R280): the image is the bytes of HBM at a physical address; one that is verified takes effect at the next
power-on. It waits while a line of the image is held at its home. From the runtime's ring it gives STATUS 4.
(log 23, DESIGN CHOICE) -/
def execFwLoad (part addr len : Nat) (own : Bool) (s : State) : Host.Outcome State Fault Refusal :=
  s.onMach (fun m =>
    if own then m.served part 4
    else if hbmEnd < addr + len then m.served part 3
    else if m.controlHeld addr len then m
    else match m.controlLines part addr len with
    | (false, m) => m.served part 3
    | (true, m) =>
      let image := some (toBytes len (m.read addr len))
      if imageRuns image then ({ m with nextImage := image } : Mach).served part 1 else m.served part 3)

/-- SPDM_REQUEST (R281). (log 52, DESIGN CHOICE) -/
def execSpdmRequest (bytes : List Byte) (s : State) : Host.Outcome State Fault Refusal :=
  s.onMach (fun m => { m with spdm := Config.spdmAnswer bytes })

/-- POWER_ON (R442, R280): the state at reset, with the image verified for this power-on, or recovery if the boot ROM does
not run it. (log 24, DESIGN CHOICE) -/
def execPowerOn (s : State) : Host.Outcome State Fault Refusal :=
  .next { State.reset with
    m := { State.reset.m with image := s.m.nextImage.or s.m.image, free := s.m.free },
    agenda := s.agenda, turns := s.turns }

/-! ### RESYNC (R282) -/

/-- The code of a partition's state; 5 where the boot ROM does not run the image (R280). -/
def Mach.partCode (m : Mach) (p : Nat) : Nat :=
  if m.recovery then 5
  else match (m.part p).state with
    | .absent => 0 | .running => 1 | .switching => 2 | .saved => 3 | .resetting => 4

/-- Whether a core is fenced, or its row while its partition is reset (R246, R279). -/
def Mach.fencedCore (m : Mach) (c : Nat) : Bool :=
  (m.core c).fenced || (match m.partOf c with | some p => (m.part p).state == .resetting | none => false)

/-- The bytes of a number at an offset. -/
def placed (off n v : Nat) : List (Nat × Byte) := bytesAt off n v

/-- Failed banks of a partition's cores: (core, bank). -/
def Mach.failedBanks (m : Mach) (p : Nat) : List (Nat × Nat) :=
  (m.cores.filter (fun e => m.inPart p e.1)).flatMap (fun e => e.2.failed.map (fun b => (e.1, b)))

/-- The fields of the summary, as bytes at their offsets; the package power is not stated, and the band is the highest of the
stacks'. (log 30, DEDUCED) -/
def State.summary (s : State) (p : Nat) : List (Nat × Byte) :=
  let m := s.m
  let bad := m.failedBanks p
  placed 0 8 ((Config.firmwareVersion m.image).toNat + (Config.securityVersion m.image).toNat * 2 ^ 32) ++
  (List.range 8).flatMap (fun n => placed (8 + n) 1 (m.partCode n)) ++
  (List.range 64).flatMap (fun q => placed (16 + 8 * q) 8 ((m.queue p q).head + (m.queue p q).tail * 2 ^ 32)) ++
  (List.range 128).flatMap (fun i => placed (528 + i) 1 (sum ((List.range 8).map (fun j => boolNat (m.fencedCore (8 * i + j)) * 2 ^ j)))) ++
  (List.range 4).flatMap (fun d => placed (656 + 8 * d) 8 (m.diePart d p).fqHead) ++
  (List.range 16).flatMap (fun n => placed (688 + n) 1 (s.power.temps.getD n 0)) ++
  placed 704 8 ((Config.freeWord m.free).toNat % 2 ^ 16 + m.bands.foldl max 0 * 2 ^ 16) ++
  (List.range 4).flatMap (fun d => placed (712 + 2 * d) 2 (s.power.clocks.getD d 0)) ++
  placed 720 8 (boolNat s.power.collective + 2 * boolNat s.power.leader + 2 ^ 8 * ((s.power.duty.map (·.2)).foldl min 16)) ++
  (List.range 4).flatMap (fun d => placed (728 + d) 1 (m.retiredOf d).length) ++
  (List.range 4).flatMap (fun d => placed (732 + d) 1 (m.die d).mapGen) ++
  placed 736 8 bad.length ++
  ((List.range 64).zip (bad.take 64)).flatMap (fun e => placed (744 + 8 * e.1) 8 (e.2.1 + e.2.2 * 2 ^ 16))

/-- The 8-byte pieces of the summary, every byte not stated zero. (log 30, DEDUCED) -/
def summaryPiece (bytes : List (Nat × Byte)) (i : Nat) : List (Nat × Byte) :=
  (List.range 8).map (fun j => (j, (bytes.lookup (8 * i + j)).getD 0))

/-- RESYNC (R282): an address that is not a multiple of 8, or at which a write is refused, is a bad argument; it waits while a
line of it is held at its home (R148, R269). (log 23, DESIGN CHOICE; log 30, DEDUCED) -/
def execResync (part : Nat) (addr : BitVec 64) (s : State) : Host.Outcome State Fault Refusal :=
  let bytes := s.summary part
  s.onMach (fun m =>
    if addr.toNat % 8 ≠ 0 then m.served part 3
    else if (List.range 33).any (fun i => m.launchHeld part (addr + BitVec.ofNat 64 (min (128 * i) 4088))) then m
    else
      let m := { m with free := m.free + 1 }
      match (List.range 512).foldl (fun (r : Bool × Mach) i =>
          let (done, m) := r.2.controlWrite part (addr + BitVec.ofNat 64 (8 * i)) (summaryPiece bytes i)
          (r.1 && done, m)) (true, m) with
      | (true, m) => (m.postAll part { cause := Cause.hostResync.code }).served part 1
      | (false, m) => m.served part 3)

/-! ### The management rings (R270) -/

/-- The record to serve next: whether it is the runtime ring's, and its address. The rings alternate, each in order.
(log 23, DESIGN CHOICE) -/
def Mach.ringNext (m : Mach) (p : Nat) : Option (Bool × Word) :=
  let x := m.part p
  let own := x.state != .absent && !m.pcbHeld p && x.runtimeHead != m.pcb p 72 % 2 ^ 32
  let host := x.hostHead != x.hostTail
  if own && (x.runtimeNext || !host) then some (true, BitVec.ofNat 64 (m.pcb p 64 + 64 * (x.runtimeHead % 64)))
  else if host then some (false, x.hostBase + BitVec.ofNat 64 (64 * (x.hostHead % 64)))
  else none

/-- A record is taken from its ring. (log 23, DESIGN CHOICE) -/
def Mach.ringTake (m : Mach) (p : Nat) (own : Bool) (a : Word) : Mach :=
  m.modPart p (fun x => { x with
    hostHead := if own then x.hostHead else (x.hostHead + 1) % 2 ^ 32,
    runtimeHead := if own then (x.runtimeHead + 1) % 2 ^ 32 else x.runtimeHead,
    runtimeNext := !own, record := some (own, a) })

/-- The controller performs the command of a record of 64 bytes: an unknown OP gives STATUS 3, a ring that may not give the
command 4. (log 23, DESIGN CHOICE) -/
def State.perform (s : State) (p : Nat) (own : Bool) (r : Nat) : Host.Outcome State Fault Refusal :=
  let arg (i : Nat) : Nat := nbits r (64 * i) 64
  let status (n : Nat) : Host.Outcome State Fault Refusal := s.onMach (fun m => m.served p n)
  let needs (ok : Bool) (f : State → Host.Outcome State Fault Refusal) : Host.Outcome State Fault Refusal :=
    if ok then f s else status 4
  match r % 256 with
  | 0x01 => needs (!own) (execResync p (BitVec.ofNat 64 (arg 1)))
  | 0x02 => needs (!own) (execPartConfig p (arg 1) (arg 2) ((arg 3).testBit 0))
  | 0x03 => needs (!own) (execPartReset p)
  | 0x04 => execFoldConfig p (arg 1) s
  | 0x05 => needs own (execSliceRetire p (arg 1) (arg 2))
  | 0x06 => needs (!own) (execCtxSave p (arg 1))
  | 0x07 => needs (!own) (execCtxRestore p (arg 1))
  | 0x08 => needs own (execChanReopen p (arg 1) (arg 2))
  | 0x09 => needs (!own) (execPowerLimit p (arg 1))
  | 0x0A => needs (!own) (execCollective p ((arg 1).testBit 0) ((arg 2).testBit 0)
      ((List.range 64).filter (fun n => (arg 3).testBit n)) (Config.largestCount s.m.free))
  | 0x0B => needs own (if (arg 2).testBit 0 then execCorePowerOn p (arg 1) else execCorePowerOff p (arg 1))
  | 0x0C => execFwLoad p (arg 1) (arg 2) own s
  | _ => status 3

/-- A turn of the controller for a partition: a reset under way ends; else a record that waits for its STATUS comes first, and
while a context switch goes on no other is taken. A record that cannot be read, or whose line is held at its home, stays in
its ring, and a read that is refused has its entry (R277). (log 23, DESIGN CHOICE) -/
def State.manage (s : State) (p : Nat) : Host.Outcome State Fault Refusal :=
  let m := s.m
  let x := m.part p
  let got : Option (Bool × Word × Mach) :=
    if x.state == .switching then none
    else match x.record with
      | some (own, a) => some (own, a, m)
      | none => (m.ringNext p).map (fun r => (r.1, r.2, m.ringTake p r.1 r.2))
  if x.state == .resetting && x.pending.isSome then .next (s.endReset p)
  else match got with
  | none => .next s
  | some (own, a, taken) =>
    if m.launchHeld p a then .next s
    else match taken.launchRead p a 64 with
    | (.error e, _) => s.onMach (fun m => ((m.launchRead p a 64).2).controlEntry p e a)
    | (.ok r, m) =>
      let serve (b : Bool) (m : Mach) : Mach := m.modPart p (fun x => { x with serving := b })
      match ({ s with m := serve true { m with free := m.free + 1 } } : State).perform p own r with
      | .next t => .next { t with m := serve false t.m }
      | .fault e => .fault e
      | .refused e => .refused e

/-! ### Host and peer accesses (R116, R167, R273, R277) -/

/-- An access to backing memory at its home slice: `w` the bytes written, if any. -/
def Mach.outside (m : Mach) (pa c : Nat) (w : Option (List Byte)) : Mach :=
  match w with
  | none => (m.readBad pa).2
  | some bs =>
    let m := m.storeBad pa bs.length { core := c }
    { m with mem := Mem.writeAll m.mem ((List.range bs.length).zip bs |>.map (fun b => (pa + b.1, b.2))) }

/-- Whether an access of `n` bytes lies in one line of HBM. (log 51, DEDUCED) -/
def oneLine (pa n : Nat) : Bool := decide (pa + n ≤ hbmEnd) && decide (0 < n) && decide (pa % 128 + n ≤ 128)

/-- Whether a function may reach an HBM address: its partition's range, or before PART_CONFIG what no other partition has, where
the host writes the control block (R276, R277). (log 51, DEDUCED) -/
def Mach.hostMay (m : Mach) (p pa : Nat) : Bool :=
  if (m.part p).state == .absent then
    !(List.range 8).any (fun q => (m.part q).state != .absent && m.inHbm q pa)
  else m.inHbm p pa

/-- A host access through a function: outside the HBM it may reach it completes with error and an entry. (log 51, DEDUCED) -/
def Mach.hostAccess (m : Mach) (p pa n : Nat) (w : Option (List Byte)) : Mach :=
  if !oneLine pa n || m.memHeld pa then m
  else if m.hostMay p pa && m.hostMay p (pa + n - 1) then m.outside pa (m.firstCore p) w
  else m.post (dieOfPa pa) p { cause := Cause.partitionViolation.code, bad := BitVec.ofNat 64 pa }

/-- A peer's access. -/
def Mach.peerAccess (m : Mach) (pa n : Nat) (w : Option (List Byte)) : Mach :=
  if !oneLine pa n || m.memHeld pa then m else m.outside pa 0 w

/-- HOST_MEMORY_ACCESS (R167): it waits for a retired slice's writeback of its line (R148) and for a held stack (R269).
(log 51, DEDUCED) -/
def execHostMemoryAccess (a : HostAccess) (s : State) : Host.Outcome State Fault Refusal :=
  s.onMach (fun m =>
    match a with
    | .hostRead p pa n => m.hostAccess p pa n none
    | .hostWrite p pa bs => m.hostAccess p pa bs.length (some bs)
    | .peerRead pa n => m.peerAccess pa n none
    | .peerWrite pa bs => m.peerAccess pa bs.length (some bs))

end Sys2Proof.Machine
end

