-- ==== Sys2Proof/Machine/Dispatch.lean ====
section
/-!
DEFINITION. The dispatch: one arm per operation.
-/
namespace Sys2Proof.Machine

/-- The effect of one operation. -/
def exec (i : Instr) (s : State) : Host.Outcome State Fault Refusal :=
  match i with
  | .add d a b => Sys2Proof.Machine.execAdd d a b s
  | .sub d a b => Sys2Proof.Machine.execSub d a b s
  | .and d a b => Sys2Proof.Machine.execAnd d a b s
  | .or d a b => Sys2Proof.Machine.execOr d a b s
  | .xor d a b => Sys2Proof.Machine.execXor d a b s
  | .shl d a b => Sys2Proof.Machine.execShl d a b s
  | .shr d a b => Sys2Proof.Machine.execShr d a b s
  | .sha d a b => Sys2Proof.Machine.execSha d a b s
  | .slt d a b => Sys2Proof.Machine.execSlt d a b s
  | .sltN64 d a b => Sys2Proof.Machine.execSltN64 d a b s
  | .min d a b => Sys2Proof.Machine.execMin d a b s
  | .minN64 d a b => Sys2Proof.Machine.execMinN64 d a b s
  | .max d a b => Sys2Proof.Machine.execMax d a b s
  | .maxN64 d a b => Sys2Proof.Machine.execMaxN64 d a b s
  | .sel d a b c => Sys2Proof.Machine.execSel d a b c s
  | .addi d a imm => Sys2Proof.Machine.execAddi d a imm s
  | .andi d a imm => Sys2Proof.Machine.execAndi d a imm s
  | .ori d a imm => Sys2Proof.Machine.execOri d a imm s
  | .xori d a imm => Sys2Proof.Machine.execXori d a imm s
  | .slti d a imm => Sys2Proof.Machine.execSlti d a imm s
  | .shlImm d a n => Sys2Proof.Machine.execShlImm d a n s
  | .shrImm d a n => Sys2Proof.Machine.execShrImm d a n s
  | .shaImm d a n => Sys2Proof.Machine.execShaImm d a n s
  | .mul d a b => Sys2Proof.Machine.execMul d a b s
  | .mulh d a b => Sys2Proof.Machine.execMulh d a b s
  | .mulhN64 d a b => Sys2Proof.Machine.execMulhN64 d a b s
  | .div d a b => Sys2Proof.Machine.execDiv d a b s
  | .divN64 d a b => Sys2Proof.Machine.execDivN64 d a b s
  | .rem d a b => Sys2Proof.Machine.execRem d a b s
  | .remN64 d a b => Sys2Proof.Machine.execRemN64 d a b s
  | .clz d a => Sys2Proof.Machine.execClz d a s
  | .popc d a => Sys2Proof.Machine.execPopc d a s
  | .ext d a p l => Sys2Proof.Machine.execExt d a p l s
  | .extI64 d a p l => Sys2Proof.Machine.execExtI64 d a p l s
  | .ins d a p l => Sys2Proof.Machine.execIns d a p l s
  | .lic d q imm => Sys2Proof.Machine.execLic d q imm s
  | .licZ d q imm => Sys2Proof.Machine.execLicZ d q imm s
  | .ldN d a z imm => Sys2Proof.Machine.execLdN d a z imm s
  | .ldI d a z imm => Sys2Proof.Machine.execLdI d a z imm s
  | .st t a z imm => Sys2Proof.Machine.execSt t a z imm s
  | .lds d a imm => Sys2Proof.Machine.execLds d a imm s
  | .ldsC d a imm => Sys2Proof.Machine.execLdsC d a imm s
  | .stf t a imm => Sys2Proof.Machine.execStf t a imm s
  | .sete a imm => Sys2Proof.Machine.execSete a imm s
  | .amoAdd d a z g imm => Sys2Proof.Machine.execAmoAdd d a z g imm s
  | .amoAnd d a z g imm => Sys2Proof.Machine.execAmoAnd d a z g imm s
  | .amoOr d a z g imm => Sys2Proof.Machine.execAmoOr d a z g imm s
  | .amoXor d a z g imm => Sys2Proof.Machine.execAmoXor d a z g imm s
  | .amoMin d a z g imm => Sys2Proof.Machine.execAmoMin d a z g imm s
  | .amoMax d a z g imm => Sys2Proof.Machine.execAmoMax d a z g imm s
  | .amoSwap d a z g imm => Sys2Proof.Machine.execAmoSwap d a z g imm s
  | .cas d a z g b => Sys2Proof.Machine.execCas d a z g b s
  | .ldg v a o t => Sys2Proof.Machine.execLdg v a o t s
  | .stg v a => Sys2Proof.Machine.execStg v a s
  | .fence k c => Sys2Proof.Machine.execFence k c s
  | .pref c a imm => Sys2Proof.Machine.execPref c a imm s
  | .vld v a m imm => Sys2Proof.Machine.execVld v a m imm s
  | .vst v a m imm => Sys2Proof.Machine.execVst v a m imm s
  | .vgath v a x m h => Sys2Proof.Machine.execVgath v a x m h s
  | .vscat v a x m h => Sys2Proof.Machine.execVscat v a x m h s
  | .beq a b f => Sys2Proof.Machine.execBeq a b f s
  | .bne a b f => Sys2Proof.Machine.execBne a b f s
  | .blt a b f => Sys2Proof.Machine.execBlt a b f s
  | .bge a b f => Sys2Proof.Machine.execBge a b f s
  | .blo a b f => Sys2Proof.Machine.execBlo a b f s
  | .bhs a b f => Sys2Proof.Machine.execBhs a b f s
  | .bma m f => Sys2Proof.Machine.execBma m f s
  | .bmn m f => Sys2Proof.Machine.execBmn m f s
  | .jal d f => Sys2Proof.Machine.execJal d f s
  | .jalr d a imm => Sys2Proof.Machine.execJalr d a imm s
  | .fadd d a b t => Sys2Proof.Machine.execFadd d a b t s
  | .fsub d a b t => Sys2Proof.Machine.execFsub d a b t s
  | .fmul d a b t => Sys2Proof.Machine.execFmul d a b t s
  | .fdiv d a b t => Sys2Proof.Machine.execFdiv d a b t s
  | .fsqrt d a t => Sys2Proof.Machine.execFsqrt d a t s
  | .fmin d a b t => Sys2Proof.Machine.execFmin d a b t s
  | .fmax d a b t => Sys2Proof.Machine.execFmax d a b t s
  | .fcmp d a b t c => Sys2Proof.Machine.execFcmp d a b t c s
  | .fcvt d a x y => Sys2Proof.Machine.execFcvt d a x y s
  | .ffma d a b c t => Sys2Proof.Machine.execFfma d a b c t s
  | .vaddInt d a b m t => Sys2Proof.Machine.execVaddInt d a b m t s
  | .vsubInt d a b m t => Sys2Proof.Machine.execVsubInt d a b m t s
  | .vmulInt d a b m t => Sys2Proof.Machine.execVmulInt d a b m t s
  | .vminInt d a b m t => Sys2Proof.Machine.execVminInt d a b m t s
  | .vmaxInt d a b m t => Sys2Proof.Machine.execVmaxInt d a b m t s
  | .vshl d a b m t => Sys2Proof.Machine.execVshl d a b m t s
  | .vshr d a b m t => Sys2Proof.Machine.execVshr d a b m t s
  | .vcmpInt d a b c m t => Sys2Proof.Machine.execVcmpInt d a b c m t s
  | .vaddFloat d a b m t => Sys2Proof.Machine.execVaddFloat d a b m t s
  | .vsubFloat d a b m t => Sys2Proof.Machine.execVsubFloat d a b m t s
  | .vmulFloat d a b m t => Sys2Proof.Machine.execVmulFloat d a b m t s
  | .vminFloat d a b m t => Sys2Proof.Machine.execVminFloat d a b m t s
  | .vmaxFloat d a b m t => Sys2Proof.Machine.execVmaxFloat d a b m t s
  | .vcmpFloat d a b c m t => Sys2Proof.Machine.execVcmpFloat d a b c m t s
  | .vfma d a b c m t => Sys2Proof.Machine.execVfma d a b c m t s
  | .vand d a b m => Sys2Proof.Machine.execVand d a b m s
  | .vor d a b m => Sys2Proof.Machine.execVor d a b m s
  | .vxor d a b m => Sys2Proof.Machine.execVxor d a b m s
  | .vsel d a b m => Sys2Proof.Machine.execVsel d a b m s
  | .vperm d a b m => Sys2Proof.Machine.execVperm d a b m s
  | .vbcast d a m => Sys2Proof.Machine.execVbcast d a m s
  | .vextN32 d v l => Sys2Proof.Machine.execVextN32 d v l s
  | .vextI32 d v l => Sys2Proof.Machine.execVextI32 d v l s
  | .vins a d l => Sys2Proof.Machine.execVins a d l s
  | .vcvt d a x y m => Sys2Proof.Machine.execVcvt d a x y m s
  | .vred d a t m o => Sys2Proof.Machine.execVred d a t m o s
  | .vscan d a t m o => Sys2Proof.Machine.execVscan d a t m o s
  | .vdot d a b c m t => Sys2Proof.Machine.execVdot d a b c m t s
  | .vsf d a m f => Sys2Proof.Machine.execVsf d a m f s
  | .mand d a b => Sys2Proof.Machine.execMand d a b s
  | .mor d a b => Sys2Proof.Machine.execMor d a b s
  | .mxor d a b => Sys2Proof.Machine.execMxor d a b s
  | .mnot d a => Sys2Proof.Machine.execMnot d a s
  | .mcnt d a => Sys2Proof.Machine.execMcnt d a s
  | .mmovw d a => Sys2Proof.Machine.execMmovw d a s
  | .mmovwW d a => Sys2Proof.Machine.execMmovwW d a s
  | .sbind p h => Sys2Proof.Machine.execSbind p h s
  | .srel p => Sys2Proof.Machine.execSrel p s
  | .send o t a v => Sys2Proof.Machine.execSend o t a v s
  | .sendBuf o t a b => Sys2Proof.Machine.execSendBuf o t a b s
  | .reply o t a v => Sys2Proof.Machine.execReply o t a v s
  | .replyBuf o t a b => Sys2Proof.Machine.execReplyBuf o t a b s
  | .post t a b => Sys2Proof.Machine.execPost t a b s
  | .chbind c k l p => Sys2Proof.Machine.execChbind c k l p s
  | .qcnt d c => Sys2Proof.Machine.execQcnt d c s
  | .capt k b n o f => Sys2Proof.Machine.execCapt k b n o f s
  | .captr k b n o f => Sys2Proof.Machine.execCaptr k b n o f s
  | .apply k a => Sys2Proof.Machine.execApply k a s
  | .applyTail k a => Sys2Proof.Machine.execApplyTail k a s
  | .applyv v m => Sys2Proof.Machine.execApplyv v m s
  | .spawn k a => Sys2Proof.Machine.execSpawn k a s
  | .dupk k => Sys2Proof.Machine.execDupk k s
  | .dropk k => Sys2Proof.Machine.execDropk k s
  | .movk k w => Sys2Proof.Machine.execMovk k w s
  | .movkW k w => Sys2Proof.Machine.execMovkW k w s
  | .kinfo k d => Sys2Proof.Machine.execKinfo k d s
  | .await k a => Sys2Proof.Machine.execAwait k a s
  | .awaitv v a b m => Sys2Proof.Machine.execAwaitv v a b m s
  | .bprobe d a => Sys2Proof.Machine.execBprobe d a s
  | .endTask => Sys2Proof.Machine.execEndTask s
  | .start k a => Sys2Proof.Machine.execStart k a s
  | .arrive a => Sys2Proof.Machine.execArrive a s
  | .bara d c => Sys2Proof.Machine.execBara d c s
  | .barw a => Sys2Proof.Machine.execBarw a s
  | .maskw n => Sys2Proof.Machine.execMaskw n s
  | .efork j c m => Sys2Proof.Machine.execEfork j c m s
  | .cpy t a b => Sys2Proof.Machine.execCpy t a b s
  | .mlease t => Sys2Proof.Machine.execMlease t s
  | .mrel => Sys2Proof.Machine.execMrel s
  | .ecan a => Sys2Proof.Machine.execEcan a s
  | .eres a => Sys2Proof.Machine.execEres a s
  | .csrd d imm => Sys2Proof.Machine.execCsrd d imm s
  | .cswr a imm => Sys2Proof.Machine.execCswr a imm s
  | .trap c => Sys2Proof.Machine.execTrap c s
  | .trapBrk c => Sys2Proof.Machine.execTrapBrk c s
  | .rte => Sys2Proof.Machine.execRte s
  | .migr t a => Sys2Proof.Machine.execMigr t a s
  | .fqpop v => Sys2Proof.Machine.execFqpop v s
  | .resume a => Sys2Proof.Machine.execResume a s
  | .tlbinv a => Sys2Proof.Machine.execTlbinv a s
  | .tlbinvAll a => Sys2Proof.Machine.execTlbinvAll a s
  | .fetchFault cause addr => Sys2Proof.Machine.execFetchFault cause addr s
  | .illegalEncoding w => Sys2Proof.Machine.execIllegalEncoding w s
  | .xcpy core n => Sys2Proof.Machine.execXcpy core n s
  | .xgath core n => Sys2Proof.Machine.execXgath core n s
  | .mzero cl => Sys2Proof.Machine.execMzero cl s
  | .mma cl => Sys2Proof.Machine.execMma cl s
  | .mstore cl => Sys2Proof.Machine.execMstore cl s
  | .wload cl => Sys2Proof.Machine.execWload cl s
  | .esig m unit => Sys2Proof.Machine.execEsig m unit s
  | .sequenceEnd m unit => Sys2Proof.Machine.execSequenceEnd m unit s
  | .wpWrite a => Sys2Proof.Machine.execWpWrite a s
  | .carveWrite a => Sys2Proof.Machine.execCarveWrite a s
  | .bankfmtWrite a b => Sys2Proof.Machine.execBankfmtWrite a b s
  | .envcfgWrite a => Sys2Proof.Machine.execEnvcfgWrite a s
  | .wspoolWrite a => Sys2Proof.Machine.execWspoolWrite a s
  | .chcfgWrite a ch => Sys2Proof.Machine.execChcfgWrite a ch s
  | .fpmodeWrite a => Sys2Proof.Machine.execFpmodeWrite a s
  | .fpflagsWrite a => Sys2Proof.Machine.execFpflagsWrite a s
  | .foldstatWrite a => Sys2Proof.Machine.execFoldstatWrite a s
  | .stealdomWrite a => Sys2Proof.Machine.execStealdomWrite a s
  | .brcfgWrite a => Sys2Proof.Machine.execBrcfgWrite a s
  | .partcfgWrite a => Sys2Proof.Machine.execPartcfgWrite a s
  | .launchDoorbell part q v => Sys2Proof.Machine.execLaunchDoorbell part q v s
  | .doorbellClear part q v => Sys2Proof.Machine.execDoorbellClear part q v s
  | .launchRecord part q => Sys2Proof.Machine.execLaunchRecord part q s
  | .launchTargetRetry part q => Sys2Proof.Machine.execLaunchTargetRetry part q s
  | .watchdogPreempt part q => Sys2Proof.Machine.execWatchdogPreempt part q s
  | .watchdogKill part q => Sys2Proof.Machine.execWatchdogKill part q s
  | .watchdogFence part q => Sys2Proof.Machine.execWatchdogFence part q s
  | .taskOverrun core ctx => Sys2Proof.Machine.execTaskOverrun core ctx s
  | .deferredTaskOverrun core ctx => Sys2Proof.Machine.execDeferredTaskOverrun core ctx s
  | .dispatch core => Sys2Proof.Machine.execDispatch core s
  | .level1TaskStart core => Sys2Proof.Machine.execLevel1TaskStart core s
  | .stealRequest core => Sys2Proof.Machine.execStealRequest core s
  | .stealGrant src dst => Sys2Proof.Machine.execStealGrant src dst s
  | .stealWaitExpiry core => Sys2Proof.Machine.execStealWaitExpiry core s
  | .lateResult id => Sys2Proof.Machine.execLateResult id s
  | .acknowledgement id => Sys2Proof.Machine.execAcknowledgement id s
  | .memoryRequest src dst => Sys2Proof.Machine.execMemoryRequest src dst s
  | .remapReply id => Sys2Proof.Machine.execRemapReply id s
  | .handlerArrival src dst => Sys2Proof.Machine.execHandlerArrival src dst s
  | .matchedArrival src dst => Sys2Proof.Machine.execMatchedArrival src dst s
  | .replyArrival src dst => Sys2Proof.Machine.execReplyArrival src dst s
  | .sendStatus id => Sys2Proof.Machine.execSendStatus id s
  | .applyMessage src dst => Sys2Proof.Machine.execApplyMessage src dst s
  | .handleRequest src dst => Sys2Proof.Machine.execHandleRequest src dst s
  | .handleReply id => Sys2Proof.Machine.execHandleReply id s
  | .packetArrival id fate => Sys2Proof.Machine.execPacketArrival id fate s
  | .nackResend id => Sys2Proof.Machine.execNackResend id s
  | .e2eTimerExpiry id => Sys2Proof.Machine.execE2eTimerExpiry id s
  | .goldenPeriod => Sys2Proof.Machine.execGoldenPeriod s
  | .holdNotice id => Sys2Proof.Machine.execHoldNotice id s
  | .goldenTimeout id => Sys2Proof.Machine.execGoldenTimeout id s
  | .linkDown die link port => Sys2Proof.Machine.execLinkDown die link port s
  | .wcDrain core => Sys2Proof.Machine.execWcDrain core s
  | .parkRequest src dst => Sys2Proof.Machine.execParkRequest src dst s
  | .blockProbe src dst => Sys2Proof.Machine.execBlockProbe src dst s
  | .stage slice part => Sys2Proof.Machine.execStage slice part s
  | .stageComplete slice base => Sys2Proof.Machine.execStageComplete slice base s
  | .wake slice => Sys2Proof.Machine.execWake slice s
  | .wakeArrival src dst => Sys2Proof.Machine.execWakeArrival src dst s
  | .unpin src dst => Sys2Proof.Machine.execUnpin src dst s
  | .lingerExpiry slice base => Sys2Proof.Machine.execLingerExpiry slice base s
  | .writebackComplete slice base lost => Sys2Proof.Machine.execWritebackComplete slice base lost s
  | .ageUnit slice n => Sys2Proof.Machine.execAgeUnit slice n s
  | .brumWaitTimeout slice base idx => Sys2Proof.Machine.execBrumWaitTimeout slice base idx s
  | .waiterReport src dst => Sys2Proof.Machine.execWaiterReport src dst s
  | .foldResult id => Sys2Proof.Machine.execFoldResult id s
  | .foldTreeTimeout id => Sys2Proof.Machine.execFoldTreeTimeout id s
  | .phaseComplete part team => Sys2Proof.Machine.execPhaseComplete part team s
  | .leaseGrant cl => Sys2Proof.Machine.execLeaseGrant cl s
  | .leaseExpiry cl => Sys2Proof.Machine.execLeaseExpiry cl s
  | .subarrayGate cl sub => Sys2Proof.Machine.execSubarrayGate cl sub s
  | .isobarTick m => Sys2Proof.Machine.execIsobarTick m s
  | .collectiveAnnouncement duty clock tick => Sys2Proof.Machine.execCollectiveAnnouncement duty clock tick s
  | .collectiveApplyTick => Sys2Proof.Machine.execCollectiveApplyTick s
  | .forwardExpiry core idx => Sys2Proof.Machine.execForwardExpiry core idx s
  | .migrationComplete core => Sys2Proof.Machine.execMigrationComplete core s
  | .hostMemoryAccess a => Sys2Proof.Machine.execHostMemoryAccess a s
  | .powerOn => Sys2Proof.Machine.execPowerOn s
  | .flr part => Sys2Proof.Machine.execFlr part s
  | .resync part addr => Sys2Proof.Machine.execResync part addr s
  | .partConfig part pcb rows expert => Sys2Proof.Machine.execPartConfig part pcb rows expert s
  | .partReset part => Sys2Proof.Machine.execPartReset part s
  | .foldConfig part pa => Sys2Proof.Machine.execFoldConfig part pa s
  | .sliceRetire part die slice => Sys2Proof.Machine.execSliceRetire part die slice s
  | .ctxSave part area => Sys2Proof.Machine.execCtxSave part area s
  | .contextSwitchSave part => Sys2Proof.Machine.execContextSwitchSave part s
  | .ctxRestore part area => Sys2Proof.Machine.execCtxRestore part area s
  | .chanReopen part src dst => Sys2Proof.Machine.execChanReopen part src dst s
  | .powerLimit part watts => Sys2Proof.Machine.execPowerLimit part watts s
  | .collective part on leader peers largest => Sys2Proof.Machine.execCollective part on leader peers largest s
  | .corePowerOff part core => Sys2Proof.Machine.execCorePowerOff part core s
  | .corePowerOn part core => Sys2Proof.Machine.execCorePowerOn part core s
  | .fwLoad part addr len own => Sys2Proof.Machine.execFwLoad part addr len own s
  | .scopeDValueTaken unit part => Sys2Proof.Machine.execScopeDValueTaken unit part s
  | .spdmRequest bytes => Sys2Proof.Machine.execSpdmRequest bytes s
  | .retiredLineWriteback slice pa => Sys2Proof.Machine.execRetiredLineWriteback slice pa s

end Sys2Proof.Machine
end

