-- ==== Sys2Proof/Machine/Step.lean ====
section
/-!
DEFINITION. One step: what comes about by itself does, then one turn is taken, from the agenda or from the free schedule.
-/
namespace Sys2Proof.Machine

/-- The next turn, and the state with it taken from the agenda or the schedule. (log 2, DESIGN CHOICE) -/
def State.nextTurn (s : State) : Turn × State :=
  match s.agenda with
  | t :: rest => (t, { s with agenda := rest })
  | [] => (Config.nextTurn s.turns, { s with turns := s.turns + 1 })

/-- What a core issues in a cycle (R68): the choice `pick` is executed; where its context turns out to wait before issue,
the choice is made again with `last`, the Last of the cycle's start. A core has twelve contexts, so at most `n` = 12 are
tried. -/
def State.issue (c last : Nat) : Nat → State → Option Pick × Mach → Host.Outcome State Fault Refusal
  | _, s, (none, m) => .next { s with m := m }
  | 0, s, (some _, _) => .next s
  | n + 1, s, (some p, m) =>
    match exec p.instr { s with m := m.before c p.ctx p.word p.instr } with
    | .next t => if t.m.unissued c p.ctx then State.issue c last n t (t.m.again c last)
      else .next { t with m := t.m.issuedCycle c p.instr }
    | .fault f => .fault f
    | .refused r => .refused r

/-- One core cycle (R68). -/
def State.cycle (s : State) (c : Nat) : Host.Outcome State Fault Refusal :=
  State.issue c (s.m.core c).last 12 s (s.m.cycle c (s.power.dutyOf c))

/-- One turn. -/
def State.take (s : State) (t : Turn) : Host.Outcome State Fault Refusal :=
  match t with
  | .cycle c => s.cycle c
  | .event e => if agentEvent e then exec e s else .next s
  | .manage p => s.manage p
  | t => .next (s.turned t)

/-- One step. (log 2, DESIGN CHOICE) -/
def step (s : State) : Host.Outcome State Fault Refusal :=
  let s := { s with m := s.m.advance }
  s.nextTurn.2.take s.nextTurn.1

/-- `s` with the instruction whose bits are `w` where core 0's control context fetches next, in a core cycle of core 0.
(log 5, DESIGN CHOICE) -/
def State.withFetchWord (s : State) (_nbits w : Nat) : State :=
  { s with m := s.m.placeWord w, agenda := .cycle 0 :: s.agenda,
           power := { s.power with duty := Table.drop s.power.duty 0 } }

end Sys2Proof.Machine
end

