-- ==== Sys2Proof/Safety.lean ====
section
/-!
DEFINITION. The terms of the statements: a safe run, operands that may be read, and what an instruction leaves as it was.
-/
namespace Sys2Proof.Machine

/-- The states that some number of steps reaches. -/
def Reaches (s t : State) : Prop := ∃ n, Sys2Proof.core.run n s = .next t

/-- Every state reached from `s` steps to a next state: no fault and no refusal. -/
def Safe (s : State) : Prop := ∀ t, Reaches s t → ∃ u, step t = .next u

/-- The state with another device. -/
def State.on (s : State) (m : Mach) : State := { s with m := m }

/-! ### Operands that may be read (R22, R137) -/

/-- A word that an operand read finds full and correct. -/
def Mach.readable (m : Mach) (k : Nat) : Bool := m.full k && !m.scratchBad.contains k

def Mach.canReadW (m : Mach) (n : BitVec 5) : Bool := n == 0 || m.readable (m.wKey n)
def Mach.canReadM (m : Mach) (n : BitVec 3) : Bool := n == 0 || m.readable (wordOf (m.mKey n))
def Mach.canReadK (m : Mach) (n : BitVec 3) : Bool := m.readable (wordOf (m.kKey n))

/-- No stream port of a vector instruction refuses or waits (R409). -/
def Mach.portsReady (m : Mach) (dest : Option (BitVec 4)) (srcs : List (BitVec 4)) : Bool :=
  (match dest with
   | some d => (match m.destOk d srcs with | .ok () => true | .error _ => false)
   | none => true) &&
  !srcs.any m.writeBound &&
  (m.streamWait srcs).isNone

/-- Every operand word of a vector instruction is full and correct (R22, R305). -/
def Mach.operandsFull (m : Mach) (srcs : List (BitVec 4)) (mk : BitVec 3) (ws : List (BitVec 5)) : Bool :=
  match m.needOperands srcs mk ws with
  | .ok () => true
  | .error _ => false

/-- The reads of a vector instruction with vector sources `srcs`, mask `mk` and scalar sources `ws`, if each of them
succeeds: the device after the pops of its ports, its mask and its sources (R22, R409, R424). -/
def Mach.vecReads (m : Mach) (dest : Option (BitVec 4)) (srcs : List (BitVec 4)) (mk : BitVec 3) (ws : List (BitVec 5) := []) :
    Option (Mach × BitVec 16 × (BitVec 4 → V)) :=
  if m.operandsFull srcs mk ws && m.portsReady dest srcs then
    match m.readVs srcs, m.readM mk with
    | .ok (vs, m1), .ok mask => some (m1, mask, valOf vs)
    | _, _ => none
  else none

/-- An access of `n` bytes at an LW address of the issuing core's own window that no check refuses (R130, R132, R133). -/
def Mach.ownWindow (m : Mach) (a : Word) (n : Nat) : Bool :=
  isLw a && classOk a && a.toNat % n == 0 && decide (offOf a < m.scratchSize m.cur.core)

/-! ### Frames -/

/-- `t` is `m` except for bytes of memory in `inside`, the full/empty bits and check symbols of the words that hold such a
byte, and the issuing context, which is `v`. -/
structure Mach.Differs (m t : Mach) (inside : Nat → Prop) (v : Ctx) : Prop where
  rest : t = { m with mem := t.mem, empties := t.empties, scratchBad := t.scratchBad, ctxs := t.ctxs }
  bytes : ∀ a, ¬ inside a → Mem.get t.mem a = Mem.get m.mem a
  fulls : ∀ k, ¬ inside k → (∀ a, inside a → wordOf a ≠ k) → t.full k = m.full k
  bads : ∀ k, ¬ inside k → (∀ a, inside a → wordOf a ≠ k) → t.scratchBad.contains k = m.scratchBad.contains k
  ctxs : ∀ c x, 16 * c + x ≠ 16 * m.cur.core + m.cur.ctx → t.ctx c x = m.ctx c x
  me : t.me = v

/-- The issuing context after an instruction that completes in sequence and writes none of its own registers. -/
def Mach.inSequence (m : Mach) : Ctx := { m.me.issued with pc := m.me.pc + 4 }

/-- The issuing instruction is the one issued last (R250). -/
def Mach.lastHere (m : Mach) : Mach := m.modMe (fun x => { x with last := x.pc })

/-! ### An invariant -/

/-- Every core's duty lies from 1 to 16 (R263). -/
def State.dutyInRange (s : State) : Prop := ∀ c, 1 ≤ s.power.dutyOf c ∧ s.power.dutyOf c ≤ 16

end Sys2Proof.Machine
end

