-- ==== Sys2Proof/Certificates/Slice0/Obligations.lean ====
section
/-!
DEFINITION. The statements to be proved, one definition each; a docstring names the rules of the spec that a statement
rests on, and the log entry where it rests on a choice of the model.
-/
open Sys2Proof Sys2Proof.Machine

/-! ### Integer instructions -/

/-- R334, R337, R398, R420: ADD, AND, OR and SUB write their result to w[d] in the pipeline (R20), and w0 discards it;
each with the word that the rule gives. -/
def Obligations.AddAndOrSub : Prop :=
  ∀ (s : State) (d a b : BitVec 5), s.m.canReadW a → s.m.canReadW b →
    exec (.add d a b) s = .next (s.on (s.m.writeW d (s.m.w a + s.m.w b)).done) ∧
    exec (.and d a b) s = .next (s.on (s.m.writeW d (s.m.w a &&& s.m.w b)).done) ∧
    exec (.or d a b) s = .next (s.on (s.m.writeW d (s.m.w a ||| s.m.w b)).done) ∧
    exec (.sub d a b) s = .next (s.on (s.m.writeW d (s.m.w a - s.m.w b)).done) ∧
    decode 0x02418C00 = .ok (.add 4 3 3) ∧ decode 0x02531C02 = .ok (.and 5 6 7) ∧
    decode 0x02210C03 = .ok (.or 2 2 3) ∧ decode 0x02429801 = .ok (.sub 4 5 6) ∧ decode 0x02D04C01 = .ok (.sub 13 0 19)

/-- R389, R396, R410, R412, R413, R441: the other pipeline operations on registers. R410: all three operands of SEL are
read whichever is chosen, w[c] first: an empty one raises HAZARD_READ. With the words that R389, R396, R410 and R413
give. R335, R338, R399, R412, R413, R441: the immediate operations; the 15-bit immediate is sign-extended by ADDI and
SLTI and zero-extended by ANDI, ORI and XORI. Where the spec leaves a point of this open, it is the model's choice: log
7. -/
def Obligations.PipelineResults : Prop :=
  (∀ (s : State) (d a b c : BitVec 5), s.m.canReadW a → s.m.canReadW b →
     let x := s.m.w a
     let y := s.m.w b
     let out (v : Word) : State := s.on (s.m.writeW d v).done
     exec (.xor d a b) s = .next (out (x ^^^ y)) ∧
     exec (.shl d a b) s = .next (out (x <<< (y.toNat % 64))) ∧
     exec (.shr d a b) s = .next (out (x >>> (y.toNat % 64))) ∧
     exec (.sha d a b) s = .next (out (x.sshiftRight (y.toNat % 64))) ∧
     exec (.slt d a b) s = .next (out (if x.toInt < y.toInt then 1 else 0)) ∧
     exec (.sltN64 d a b) s = .next (out (if x.toNat < y.toNat then 1 else 0)) ∧
     exec (.min d a b) s = .next (out (if x.toInt < y.toInt then x else y)) ∧
     exec (.minN64 d a b) s = .next (out (if x.toNat < y.toNat then x else y)) ∧
     exec (.max d a b) s = .next (out (if x.toInt < y.toInt then y else x)) ∧
     exec (.maxN64 d a b) s = .next (out (if x.toNat < y.toNat then y else x)) ∧
     exec (.mul d a b) s = .next (out (BitVec.ofNat 64 (x.toNat * y.toNat))) ∧
     exec (.mulh d a b) s = .next (out (BitVec.ofInt 64 (x.toInt * y.toInt / 2 ^ 64))) ∧
     exec (.mulhN64 d a b) s = .next (out (BitVec.ofNat 64 (x.toNat * y.toNat / 2 ^ 64))) ∧
     (s.m.canReadW c → exec (.sel d a b c) s = .next (out (if s.m.w c ≠ 0 then x else y)))) ∧
  (∀ (s : State) (d a b c : BitVec 5),
     let empty (r : BitVec 5) : Prop := r ≠ 0 ∧ s.m.full (s.m.wKey r) = false
     (empty c ∨ s.m.canReadW c = true ∧ empty a ∨ s.m.canReadW c = true ∧ s.m.canReadW a = true ∧ empty b →
       exec (.sel d a b c) s = .next (s.on (s.m.lastHere.enterTrap s.m.cur.core s.m.cur.ctx
         { cause := .hazardRead, bad := s.m.wordBad } s.m.me.pc))) ∧
     decode 0x0242980A = .ok (.min 4 5 6) ∧ decode 0x0242980B = .ok (.minN64 4 5 6) ∧
     decode 0x0242980C = .ok (.max 4 5 6) ∧ decode 0x0242980D = .ok (.maxN64 4 5 6) ∧
     decode 0x10429800 = .ok (.mul 4 5 6) ∧ decode 0x10429801 = .ok (.mulh 4 5 6) ∧
     decode 0x10429802 = .ok (.mulhN64 4 5 6) ∧ decode 0x0253A0CE = .ok (.sel 5 7 8 6) ∧
     decode 0x02429808 = .ok (.slt 4 5 6) ∧ decode 0x02429809 = .ok (.sltN64 4 5 6) ∧
     decode 0x0C42800A = .ok (.slti 4 5 10) ∧ decode 0x0C42FFFF = .ok (.slti 4 5 0x7FFF)) ∧
  (∀ (s : State) (d a : BitVec 5) (imm : BitVec 15) (n : BitVec 6), s.m.canReadW a →
     let x := s.m.w a
     let out (v : Word) : State := s.on (s.m.writeW d v).done
     exec (.addi d a imm) s = .next (out (x + BitVec.ofInt 64 imm.toInt)) ∧
     exec (.andi d a imm) s = .next (out (x &&& BitVec.ofNat 64 imm.toNat)) ∧
     exec (.ori d a imm) s = .next (out (x ||| BitVec.ofNat 64 imm.toNat)) ∧
     exec (.xori d a imm) s = .next (out (x ^^^ BitVec.ofNat 64 imm.toNat)) ∧
     exec (.slti d a imm) s = .next (out (if x.toInt < imm.toInt then 1 else 0)) ∧
     exec (.shlImm d a n) s = .next (out (x <<< n.toNat)) ∧
     exec (.shrImm d a n) s = .next (out (x >>> n.toNat)) ∧
     exec (.shaImm d a n) s = .next (out (x.sshiftRight n.toNat)))

/-- R359, R372, R379, R386, R400: counting, bit fields and constants, bit by bit. `l` is the length less one. -/
def Obligations.BitFieldResults : Prop :=
  ∀ (s : State) (d a : BitVec 5), s.m.canReadW a →
    let x := s.m.w a
    let out (v : Word) : State := s.on (s.m.writeW d v).done
    decode 0x12428000 = .ok (.clz 4 5) ∧ decode 0x1242A000 = .ok (.popc 4 5) ∧
    (∃ n : Nat, n ≤ 64 ∧ (∀ i, 64 - n ≤ i → x.getLsbD i = false) ∧ (n < 64 → x.getLsbD (63 - n) = true) ∧
      exec (.clz d a) s = .next (out (BitVec.ofNat 64 n))) ∧
    exec (.popc d a) s = .next (out (BitVec.ofNat 64 ((List.range 64).countP (fun i => x.getLsbD i)))) ∧
    (∀ p l : BitVec 6, p.toNat + l.toNat + 1 ≤ 64 →
      (∃ v : Word, exec (.ext d a p l) s = .next (out v) ∧
        ∀ i, v.getLsbD i = (decide (i ≤ l.toNat) && x.getLsbD (p.toNat + i))) ∧
      (∃ v : Word, exec (.extI64 d a p l) s = .next (out v) ∧
        ∀ i, i < 64 → v.getLsbD i = x.getLsbD (p.toNat + min i l.toNat)) ∧
      (s.m.canReadW d → ∃ v : Word, exec (.ins d a p l) s = .next (out v) ∧
        ∀ i, v.getLsbD i = if p.toNat ≤ i ∧ i ≤ p.toNat + l.toNat then x.getLsbD (i - p.toNat) else (s.m.w d).getLsbD i)) ∧
    (∀ (q : BitVec 2) (imm : BitVec 16),
      (s.m.canReadW d → ∃ v : Word, exec (.lic d q imm) s = .next (out v) ∧
        ∀ i, v.getLsbD i = if i / 16 = q.toNat then imm.getLsbD (i % 16) else (s.m.w d).getLsbD i) ∧
      (∃ v : Word, exec (.licZ d q imm) s = .next (out v) ∧
        ∀ i, v.getLsbD i = (decide (i / 16 = q.toNat) && imm.getLsbD (i % 16))))

/-- R364, R404: with a divisor other than 0, DIV and REM empty w[d] and bring quotient and remainder as a late result;
−2^63 by −1 gives −2^63 and 0. R364, R404, R248: a divisor of 0 traps with DIVIDE_BY_ZERO, and no register is written
before the entry. -/
def Obligations.Division : Prop :=
  (∀ (s : State) (d a b : BitVec 5), s.m.canReadW a → s.m.canReadW b → s.m.w b ≠ 0 →
     let x := s.m.w a
     let y := s.m.w b
     let out (v : Nat) : State := s.on (s.m.late (s.m.lateW d) (.value v 0)).done
     exec (.div d a b) s = .next (out (BitVec.ofInt 64 (x.toInt.tdiv y.toInt)).toNat) ∧
     exec (.divN64 d a b) s = .next (out (x.toNat / y.toNat)) ∧
     exec (.rem d a b) s = .next (out (BitVec.ofInt 64 (x.toInt - x.toInt.tdiv y.toInt * y.toInt)).toNat) ∧
     exec (.remN64 d a b) s = .next (out (x.toNat - x.toNat / y.toNat * y.toNat))) ∧
  (∀ (s : State) (d a b : BitVec 5), s.m.canReadW a → s.m.canReadW b → s.m.w b = 0 →
     let t := s.on (s.m.trapMe { cause := .divideByZero })
     exec (.div d a b) s = .next t ∧ exec (.divN64 d a b) s = .next t ∧
     exec (.rem d a b) s = .next t ∧ exec (.remN64 d a b) s = .next t ∧
     decode 0x10429805 = .ok (.rem 4 5 6) ∧ decode 0x10429806 = .ok (.remN64 4 5 6))

/-- R22, R70: an empty operand word raises HAZARD_READ before any effect of the instruction, and the context becomes
Trapped, at the instruction: whichever operand it is, for each instruction named, w[d] of INS and LIC among them. Where
the spec leaves a point of this open, it is the model's choice: log 7. -/
def Obligations.EmptyOperandTraps : Prop :=
  ∀ (s : State) (d a b c : BitVec 5) (imm : BitVec 15) (n p q : BitVec 6) (h : BitVec 2) (g : BitVec 16)
    (f : BitVec 15) (l first : List Instr),
    a ≠ 0 → s.m.full (s.m.wKey a) = false → p.toNat + q.toNat + 1 ≤ 64 →
    let hazard : State := s.on (s.m.lastHere.enterTrap s.m.cur.core s.m.cur.ctx
      { cause := .hazardRead, bad := s.m.wordBad } s.m.me.pc)
    first = [.add d a b, .sub d a b, .and d a b, .or d a b, .xor d a b, .shl d a b, .shr d a b, .sha d a b, .slt d a b,
         .sltN64 d a b, .min d a b, .minN64 d a b, .max d a b, .maxN64 d a b, .mul d a b, .mulh d a b, .mulhN64 d a b,
         .div d a b, .divN64 d a b, .rem d a b, .remN64 d a b, .sel d b c a, .addi d a imm, .andi d a imm, .ori d a imm,
         .xori d a imm, .slti d a imm, .shlImm d a n, .shrImm d a n, .shaImm d a n, .clz d a, .popc d a,
         .ext d a p q, .extI64 d a p q, .ins d a p q, .lic a h g,
         .beq a b f, .bne a b f, .blt a b f, .bge a b f, .blo a b f, .bhs a b f, .jalr d a imm] →
    l = [.add d b a, .sub d b a, .and d b a, .or d b a, .xor d b a, .shl d b a, .shr d b a, .sha d b a, .slt d b a,
         .sltN64 d b a, .min d b a, .minN64 d b a, .max d b a, .maxN64 d b a, .mul d b a, .mulh d b a, .mulhN64 d b a,
         .div d b a, .divN64 d b a, .rem d b a, .remN64 d b a, .sel d a c b, .ins a b p q,
         .beq b a f, .bne b a f, .blt b a f, .bge b a f, .blo b a f, .bhs b a f] →
    (∀ i ∈ first, exec i s = .next hazard) ∧
    (s.m.canReadW b → (∀ i ∈ l, exec i s = .next hazard) ∧ (s.m.canReadW c → exec (.sel d c a b) s = .next hazard))

/-- R20, R14: after a pipeline instruction with destination w[d], w[d] is full whatever it was (w0 stays 0), and nothing
but the 8 bytes of w[d], its full/empty bit and the issuing context's position has changed; the results stand in
AddAndOrSub, CompareSelectShiftMultiply, ImmediateResults and BitFieldResults. -/
def Obligations.PipelineWriteFrame : Prop :=
  ∀ (s : State) (d a b c : BitVec 5) (imm : BitVec 15) (n p q : BitVec 6) (h : BitVec 2) (g : BitVec 16)
    (l : List Instr), s.m.canReadW a → s.m.canReadW b → s.m.canReadW c → p.toNat + q.toNat + 1 ≤ 64 →
    l = [.add d a b, .sub d a b, .and d a b, .or d a b, .xor d a b, .shl d a b, .shr d a b, .sha d a b, .slt d a b,
         .sltN64 d a b, .min d a b, .minN64 d a b, .max d a b, .maxN64 d a b, .mul d a b, .mulh d a b, .mulhN64 d a b,
         .sel d a b c, .addi d a imm, .andi d a imm, .ori d a imm, .xori d a imm, .slti d a imm, .shlImm d a n,
         .shrImm d a n, .shaImm d a n, .clz d a, .popc d a, .ext d a p q, .extI64 d a p q, .licZ d h g] →
    ∀ i, i ∈ l ∨ s.m.canReadW d = true ∧ (i = .ins d a p q ∨ i = .lic d h g) → ∃ t : State, exec i s = .next t ∧ t = s.on t.m ∧
      (d ≠ 0 → t.m.full (wordOf (t.m.wKey d)) = true) ∧
      s.m.Differs t.m (fun k => d ≠ 0 ∧ s.m.wKey d ≤ k ∧ k < s.m.wKey d + 8) s.m.inSequence

/-! ### Branches and jumps -/

/-- R346 to R353: a conditional branch goes to PC + 4 × offset when its condition holds and to PC + 4 otherwise; BMA is
taken when all 16 bits of the mask are set, BMN when none is, and m0 reads 0xFFFF. -/
def Obligations.ConditionalBranches : Prop :=
  ∀ (s : State) (a b : BitVec 5) (k : BitVec 3) (f : BitVec 15),
    let x := s.m.w a
    let y := s.m.w b
    let go (taken : Prop) [Decidable taken] : State :=
      s.on (s.m.doneAt (if taken then s.m.me.pc + BitVec.ofInt 64 (4 * f.toInt) else s.m.me.pc + 4))
    (s.m.canReadW a → s.m.canReadW b →
      exec (.beq a b f) s = .next (go (x = y)) ∧ exec (.bne a b f) s = .next (go (x ≠ y)) ∧
      exec (.blt a b f) s = .next (go (x.toInt < y.toInt)) ∧ exec (.bge a b f) s = .next (go (y.toInt ≤ x.toInt)) ∧
      exec (.blo a b f) s = .next (go (x.toNat < y.toNat)) ∧ exec (.bhs a b f) s = .next (go (y.toNat ≤ x.toNat))) ∧
    (s.m.canReadM k →
      exec (.bma k f) s = .next (go (∀ i : Fin 16, (s.m.mask k).getLsbD i = true)) ∧
      exec (.bmn k f) s = .next (go (∀ i : Fin 16, (s.m.mask k).getLsbD i = false))) ∧
    s.m.mask 0 = 0xFFFF ∧
    decode 0x36320002 = .ok (.bge 3 4 2) ∧ decode 0x3A8CFFF9 = .ok (.bhs 8 25 0x7FF9) ∧
    decode 0x38320002 = .ok (.blo 3 4 2) ∧ decode 0x34320002 = .ok (.blt 3 4 2) ∧ decode 0x3C200002 = .ok (.bma 1 2) ∧
    decode 0x3D200002 = .ok (.bmn 1 2) ∧ decode 0x32207FFE = .ok (.bne 2 0 0x7FFE)

/-- R380, R381, R251: a call (d = 31) pushes w31 and writes PC + 4 to it; with another destination PC + 4 is written; a
return (JALR with d = 0 and a = 31) pops into w31, or leaves it when the link stack is empty. A call or return that
reads an uncorrectable word of the spill area traps with SCRATCH_UNCORRECTABLE (R137). -/
def Obligations.JumpsAndLinks : Prop :=
  ∀ (s : State) (d a : BitVec 5) (f : BitVec 20) (imm : BitVec 15), s.m.canReadW a → s.m.canReadW 31 →
    let next := s.m.me.pc + 4
    let jal := s.m.me.pc + BitVec.ofInt 64 (4 * f.toInt)
    let jalr := s.m.w a + BitVec.ofInt 64 (4 * imm.toInt)
    let good (ks : List Nat) : Prop := ∀ k ∈ ks, k ∉ s.m.scratchBad
    let bad (k : Nat) : State := s.on (s.m.trapMe { cause := .scratchUncorrectable, bad := lwOf k })
    (∀ k, d = 31 → s.m.pushReads = [k] → k ∈ s.m.scratchBad →
      exec (.jal d f) s = .next (bad k) ∧ exec (.jalr d a imm) s = .next (bad k)) ∧
    (∀ k ks, a = 31 → s.m.popReads = k :: ks → k ∈ s.m.scratchBad → exec (.jalr 0 a imm) s = .next (bad k)) ∧
    (∀ k n, a = 31 → s.m.popReads = [k, n] → k ∉ s.m.scratchBad → n ∈ s.m.scratchBad →
      exec (.jalr 0 a imm) s = .next (bad n)) ∧
    (d = 31 → good s.m.pushReads → (s.m.me.links.length < 8 ∨ s.m.linkDepth < 8) →
      exec (.jal d f) s = .next (s.on (((s.m.pushLink (s.m.w 31)).writeW 31 next).doneAt jal)) ∧
      exec (.jalr d a imm) s = .next (s.on (((s.m.pushLink (s.m.w 31)).writeW 31 next).doneAt jalr))) ∧
    (d = 31 → good s.m.pushReads → ¬ (s.m.me.links.length < 8 ∨ s.m.linkDepth < 8) →
      exec (.jal d f) s = .next (s.on (s.m.trapMe { cause := .spillOverflow })) ∧
      exec (.jalr d a imm) s = .next (s.on (s.m.trapMe { cause := .spillOverflow }))) ∧
    (d ≠ 31 → d ≠ 0 →
      exec (.jal d f) s = .next (s.on ((s.m.writeW d next).doneAt jal)) ∧
      exec (.jalr d a imm) s = .next (s.on ((s.m.writeW d next).doneAt jalr))) ∧
    (exec (.jal 0 f) s = .next (s.on (s.m.doneAt jal))) ∧
    (a ≠ 31 → exec (.jalr 0 a imm) s = .next (s.on (s.m.doneAt jalr))) ∧
    (∀ v m', a = 31 → good s.m.popReads → s.m.popLink = some (v, m') → exec (.jalr 0 a imm) s = .next (s.on ((m'.writeW 31 v).doneAt jalr))) ∧
    (a = 31 → good s.m.popReads → s.m.popLink = none → exec (.jalr 0 a imm) s = .next (s.on (s.m.doneAt jalr)))

/-- R251: the link stack is last in, first out. A pop after a push gives what was pushed and leaves the entries beneath
as they were; a push onto eight entries first moves the oldest into the frame, at 1520 + 8 × depth, and raises the depth
in the word at 1648. A pop of an empty hardware stack gives the newest spilled entry and lowers the depth, so that a
refill after a spill brings the spilled entry back; with nothing spilled it gives none. -/
def Obligations.LinkStackOrder : Prop :=
  ∀ (m : Mach) (v : Word),
    let depth (x : Mach) : Nat := (x.word (x.regKey 1648)).toNat % 16
    let n := depth m
    (m.me.links.length ≤ 8 → n < 8 → ∃ m', (m.pushLink v).popLink = some (v, m') ∧ (m.pushLink v).me.links = v :: m'.me.links ∧
      (m.me.links.length < 8 → m'.me.links = m.me.links ∧ depth m' = n ∧ m'.mem = m.mem) ∧
      (∀ old, m.me.links.length = 8 → m.me.links.getLast? = some old →
        m.me.links = m'.me.links ++ [old] ∧ depth m' = n + 1 ∧ m'.word (m'.regKey (1520 + 8 * n)) = old ∧
        ∃ m'', (m'.modMe (fun x => { x with links := [] })).popLink = some (old, m'') ∧
          depth m'' = n ∧ m''.me.links = [])) ∧
    (m.me.links = [] → 0 < n → ∃ m', m.popLink = some (m.word (m.regKey (1520 + 8 * (n - 1))), m') ∧
      depth m' = n - 1 ∧ m'.me.links = []) ∧
    (m.me.links = [] → n = 0 → m.popLink = none)

/-- A conditional branch and a jump without link leave every byte of memory, every full/empty bit and every register as
they were; only the issuing context's position moves. -/
def Obligations.BranchFrame : Prop :=
  ∀ (s : State) (a b : BitVec 5) (k : BitVec 3) (f : BitVec 15) (g : BitVec 20) (l : List Instr),
    s.m.canReadW a → s.m.canReadW b → s.m.canReadM k → a ≠ 31 →
    l = [.beq a b f, .bne a b f, .blt a b f, .bge a b f, .blo a b f, .bhs a b f, .bma k f, .bmn k f, .jal 0 g, .jalr 0 a f] →
    ∀ i ∈ l, ∃ (t : State) (pc : Word), exec i s = .next t ∧ t = s.on t.m ∧
      s.m.Differs t.m (fun _ => False) { s.m.me.issued with pc := pc }

/-! ### Floating point, vectors and masks -/

/-- R373, R374, R375, R377, R218: the scalar float instructions with a pipeline result write the rounded code of the
exact result, zero-extended, and raise its flags; a rounding takes one draw of the generator where the mode asks for it.
R373, R211: FDIV and FSQRT empty w[d] and bring the rounded code late, with the flags raised when it is written. Where
the spec leaves a point of this open, it is the model's choice: log 40. -/
def Obligations.ScalarFloat : Prop :=
  (∀ (s : State) (d a b c : BitVec 5) (t k x y : BitVec 3), s.m.canReadW a → s.m.canReadW b → s.m.canReadW c →
     let f := fmtOf t.toNat
     let A := operandF f (s.m.w a)
     let B := operandF f (s.m.w b)
     let C := operandF f (s.m.w c)
     let dr := (takeDraw s.m.rm f.width s.m.me.gen).1
     let g := (takeDraw s.m.rm f.width s.m.me.gen).2
     let out (r : Nat × BitVec 5) (g : BitVec 32) : State := s.on ((s.m.writeW d (BitVec.ofNat 64 r.1)).flagged r.2 g).done
     exec (.fadd d a b t) s = .next (out (addF f s.m.rm s.m.sat dr A B) g) ∧
     exec (.fsub d a b t) s = .next (out (addF f s.m.rm s.m.sat dr A B.negate) g) ∧
     exec (.fmul d a b t) s = .next (out (mulF f s.m.rm s.m.sat dr A B) g) ∧
     exec (.ffma d a b c t) s = .next (out (fmaF f s.m.rm s.m.sat dr A B C) g) ∧
     exec (.fmin d a b t) s = .next (out (minMaxF f false ((s.m.w a).toNat % 2 ^ f.width) ((s.m.w b).toNat % 2 ^ f.width)) s.m.me.gen) ∧
     exec (.fmax d a b t) s = .next (out (minMaxF f true ((s.m.w a).toNat % 2 ^ f.width) ((s.m.w b).toNat % 2 ^ f.width)) s.m.me.gen) ∧
     exec (.fcmp d a b t k) s =
       .next (out (if (compareF k.toNat A B).1 then 1 else 0, (compareF k.toNat A B).2) s.m.me.gen) ∧
     (let w := if x.toNat ≤ 2 then (fmtOf x.toNat).width else 64
      let r := convertScalar x.toNat y.toNat s.m.rm s.m.sat (takeDraw s.m.rm w s.m.me.gen).1 (s.m.w a)
      exec (.fcvt d a x y) s = .next (s.on ((s.m.writeW d r.1).flagged r.2 (takeDraw s.m.rm w s.m.me.gen).2).done))) ∧
  (∀ (s : State) (d a b : BitVec 5) (t : BitVec 3), s.m.canReadW a → s.m.canReadW b →
     let f := fmtOf t.toNat
     let dr := takeDraw s.m.rm f.width s.m.me.gen
     let q := divF f s.m.rm s.m.sat dr.1 (operandF f (s.m.w a)) (operandF f (s.m.w b))
     let r := sqrtF f s.m.rm s.m.sat dr.1 (operandF f (s.m.w a))
     exec (.fdiv d a b t) s = .next (s.on ((s.m.late (s.m.lateW d) (.value q.1 q.2)).flagged 0 dr.2).done) ∧
     exec (.fsqrt d a t) s = .next (s.on ((s.m.late (s.m.lateW d) (.value r.1 r.2)).flagged 0 dr.2).done))

/-- R211: a pipeline float instruction only ever sets bits of FPFLAGS, and leaves the other special registers of its
context, every other context and all of memory but w[d] as they were. -/
def Obligations.ScalarFloatFrame : Prop :=
  ∀ (s : State) (d a b c : BitVec 5) (t k x y : BitVec 3) (l : List Instr),
    s.m.canReadW a → s.m.canReadW b → s.m.canReadW c →
    l = [.fadd d a b t, .fsub d a b t, .fmul d a b t, .ffma d a b c t, .fmin d a b t, .fmax d a b t, .fcmp d a b t k,
         .fcvt d a x y] →
    ∀ i ∈ l, ∃ (u : State) (fl : BitVec 5) (g : BitVec 32), exec i s = .next u ∧ u = s.on u.m ∧
      s.m.Differs u.m (fun p => d ≠ 0 ∧ s.m.wKey d ≤ p ∧ p < s.m.wKey d + 8)
        { s.m.inSequence with fpflags := s.m.me.fpflags ||| fl, gen := g }

/-- R424, R425: the integer elements, in the mask's active lanes; the other lanes keep their value. -/
def Obligations.VectorIntegerResults : Prop :=
  ∀ (s : State) (d a b : BitVec 4) (k t : BitVec 3) (m1 : Mach) (mask : BitVec 16) (val : BitVec 4 → V),
    s.m.vecReads (some d) [a, b] k = some (m1, mask, val) →
    let w := vintWidth t
    let num (x : Nat) : Int := if vintSigned t && decide (2 ^ (w - 1) ≤ x) then (x : Int) - 2 ^ w else x
    let out (f : Nat → Nat → Nat) (r : State) : Prop := ∃ v : V,
      r = s.on ((m1.writeV d (blend mask v (m1.vimage d))).flagged 0 m1.me.gen).done ∧
      ∀ j, j < 512 / w → mask.getLsbD (j * w / 32) → elem v w j = f (elem (val a) w j) (elem (val b) w j)
    (∃ r, exec (.vaddInt d a b k t) s = .next r ∧ out (fun x y => (x + y) % 2 ^ w) r) ∧
    (∃ r, exec (.vsubInt d a b k t) s = .next r ∧ out (fun x y => ((x - y : Int) % 2 ^ w).toNat) r) ∧
    (∃ r, exec (.vmulInt d a b k t) s = .next r ∧ out (fun x y => (x * y) % 2 ^ w) r) ∧
    (∃ r, exec (.vminInt d a b k t) s = .next r ∧ out (fun x y => if num y < num x then y else x) r) ∧
    (∃ r, exec (.vmaxInt d a b k t) s = .next r ∧ out (fun x y => if num x < num y then y else x) r) ∧
    (∃ r, exec (.vshl d a b k t) s = .next r ∧ out (fun x y => x * 2 ^ (y % w) % 2 ^ w) r) ∧
    (∃ r, exec (.vshr d a b k t) s = .next r ∧ out (fun x y => (num x / 2 ^ (y % w) % 2 ^ w).toNat) r)

/-- R424, R425, R429, R430, R432: the float elements, conversions and dot products, element by element in ascending
order, with the flags of every active element and one draw for each element that takes one. -/
def Obligations.VectorFloatResults : Prop :=
  ∀ (s : State) (d a b c : BitVec 4) (k t : BitVec 3) (m1 : Mach) (mask : BitVec 16) (val : BitVec 4 → V),
    let f := fmtOf t.toNat
    let out (w : Nat) (e : Nat → BitVec 32 → Nat × BitVec 5 × BitVec 32) : State :=
      let r := elementwise w mask m1.me.gen e
      s.on ((m1.writeV d (blend mask r.1 (m1.vimage d))).flagged r.2.1 r.2.2).done
    let x (n : BitVec 4) (j : Nat) : FVal := decodeF f (elem (val n) f.width j)
    let draw (g : BitVec 32) : Nat × BitVec 32 := takeDraw m1.rm f.width g
    let op (h : Nat → Nat → Nat × BitVec 5) (j : Nat) (g : BitVec 32) : Nat × BitVec 5 × BitVec 32 :=
      ((h (draw g).1 j).1, (h (draw g).1 j).2, (draw g).2)
    (s.m.vecReads (some d) [a, b] k = some (m1, mask, val) →
      exec (.vaddFloat d a b k t) s = .next (out f.width (op (fun dr j => addF f m1.rm m1.sat dr (x a j) (x b j)))) ∧
      exec (.vsubFloat d a b k t) s = .next (out f.width (op (fun dr j => addF f m1.rm m1.sat dr (x a j) (x b j).negate))) ∧
      exec (.vmulFloat d a b k t) s = .next (out f.width (op (fun dr j => mulF f m1.rm m1.sat dr (x a j) (x b j)))) ∧
      exec (.vminFloat d a b k t) s = .next (out f.width (fun j g =>
        ((minMaxF f false (elem (val a) f.width j) (elem (val b) f.width j)).1,
         (minMaxF f false (elem (val a) f.width j) (elem (val b) f.width j)).2, g))) ∧
      exec (.vmaxFloat d a b k t) s = .next (out f.width (fun j g =>
        ((minMaxF f true (elem (val a) f.width j) (elem (val b) f.width j)).1,
         (minMaxF f true (elem (val a) f.width j) (elem (val b) f.width j)).2, g)))) ∧
    (s.m.vecReads (some d) [a, b, c] k = some (m1, mask, val) →
      exec (.vfma d a b c k t) s = .next (out f.width (op (fun dr j => fmaF f m1.rm m1.sat dr (x a j) (x b j) (x c j)))) ∧
      (∀ e : BitVec 4, exec (.vdot d a b c k e) s = .next (out 32 (fun i g =>
        let w := if e.toNat ≤ 1 then 16 else 8
        let r := dotF m1.rm (decodeF .f32 (elem (val c) 32 i)) ((List.range (32 / w)).map (fun j =>
          (dotElem e.toNat (elem (val a) w (i * (32 / w) + j)), dotElem e.toNat (elem (val b) w (i * (32 / w) + j)))))
        (r.1, r.2, g))))) ∧
    (∀ p q : BitVec 4, s.m.vecReads (some d) [a] k = some (m1, mask, val) →
      exec (.vcvt d a p q k) s = .next (out (slotBits q.toNat) (fun j g =>
        if j < 512 / slotBits p.toNat then m1.convertElem p.toNat q.toNat (elem (val a) (slotBits p.toNat) j) g else (0, 0, g))))

/-- R426, R427, R431: the operations on whole lanes, lane by lane. Where the spec leaves a point of this open, it is the
model's choice: log 74. -/
def Obligations.VectorLaneResults : Prop :=
  ∀ (s : State) (d a b : BitVec 4) (w : BitVec 5) (k : BitVec 3) (m1 : Mach) (mask : BitVec 16) (val : BitVec 4 → V),
    let out (e : Nat → BitVec 32) (r : State) : Prop := ∃ v : V, r = s.on (m1.writeV d v).done ∧
      ∀ i, i < 16 → lane v i = if mask.getLsbD i then e i else lane (m1.vimage d) i
    (s.m.vecReads (some d) [a, b] k = some (m1, mask, val) →
      (∃ r, exec (.vand d a b k) s = .next r ∧ out (fun i => lane (val a) i &&& lane (val b) i) r) ∧
      (∃ r, exec (.vor d a b k) s = .next r ∧ out (fun i => lane (val a) i ||| lane (val b) i) r) ∧
      (∃ r, exec (.vxor d a b k) s = .next r ∧ out (fun i => lane (val a) i ^^^ lane (val b) i) r) ∧
      (∃ r, exec (.vperm d a b k) s = .next r ∧ out (fun i => lane (val a) ((lane (val b) i).toNat % 16)) r) ∧
      (∃ (r : State) (v : V), exec (.vsel d a b k) s = .next r ∧ r = s.on (m1.writeV d v).done ∧
        ∀ i, i < 16 → lane v i = if mask.getLsbD i then lane (val a) i else lane (val b) i)) ∧
    (s.m.vecReads (some d) [] k [w] = some (m1, mask, val) →
      ∃ r, exec (.vbcast d w k) s = .next r ∧ out (fun _ => (s.m.w w).setWidth 32) r) ∧
    (∀ l : BitVec 4, s.m.vecReads none [a] 0 = some (m1, mask, val) →
      exec (.vextN32 w a l) s = .next (s.on (m1.writeW w ((lane (val a) l.toNat).setWidth 64)).done) ∧
      exec (.vextI32 w a l) s = .next (s.on (m1.writeW w ((lane (val a) l.toNat).signExtend 64)).done)) ∧
    (∀ l : BitVec 4, s.m.port d = .unbound → s.m.canReadW w →
      exec (.vins w d l) s = .next (s.on (s.m.putReg (s.m.vKey d + 4 * l.toNat) 4 ((s.m.w w).toNat % 2 ^ 32)).done))

/-- R428: a compare writes bit i of its mask register: set where lane i is active and the relation holds for all of the
lane's elements, clear elsewhere. A float compare raises the flags that the compares of the active elements raise. R435:
a reduction runs over the active elements in ascending order from the identity and writes what it has run to; a scan
writes to each active element what it has run to there, rounding with its own draw, and leaves the other lanes. R437:
VSF empties v[d] and brings the function's codes late to the active lanes, with the flags of their elements; the
inactive lanes keep their value at issue, and the generator is not drawn from. R22, R305: an operand word of a vector
instruction that is empty or bad raises its fault before a port is looked at, and nothing is popped. Where the spec
leaves a point of this open, it is the model's choice: log 6, 53. -/
def Obligations.VectorCompareReduceSpecial : Prop :=
  (∀ (s : State) (a b c : BitVec 4) (p k t : BitVec 3) (m1 : Mach) (mask : BitVec 16) (val : BitVec 4 → V),
     s.m.vecReads none [a, b] k = some (m1, mask, val) →
     (let w := vintWidth t
      let num (x : Nat) : Int := if vintSigned t && decide (2 ^ (w - 1) ≤ x) then (x : Int) - 2 ^ w else x
      let rel (x y : Int) : Prop := if c = 0 then x = y else if c = 1 then x ≠ y else if c = 2 then x < y else x ≤ y
      ∃ v : BitVec 16, exec (.vcmpInt p a b c k t) s = .next (s.on ((m1.writeM p v).flagged 0 m1.me.gen).done) ∧
        ∀ i, i < 16 → (v.getLsbD i = true ↔ mask.getLsbD i = true ∧
          ∀ n, n < 32 / w → rel (num (elem (val a) w (i * (32 / w) + n))) (num (elem (val b) w (i * (32 / w) + n))))) ∧
     (let f := fmtOf t.toNat
      let cmp (i n : Nat) : Bool × BitVec 5 := compareF (vcmpCode c.toNat)
        (decodeF f (elem (val a) f.width (i * (32 / f.width) + n))) (decodeF f (elem (val b) f.width (i * (32 / f.width) + n)))
      ∃ (v : BitVec 16) (fl : BitVec 5),
        exec (.vcmpFloat p a b c k t) s = .next (s.on ((m1.writeM p v).flagged fl m1.me.gen).done) ∧
        (∀ i, i < 16 → (v.getLsbD i = true ↔ mask.getLsbD i = true ∧ ∀ n, n < 32 / f.width → (cmp i n).1 = true)) ∧
        ∀ j, fl.getLsbD j = true ↔
          ∃ i n, i < 16 ∧ mask.getLsbD i = true ∧ n < 32 / f.width ∧ (cmp i n).2.getLsbD j = true)) ∧
  (∀ (s : State) (d a o t : BitVec 4) (k : BitVec 3) (m1 : Mach) (mask : BitVec 16) (val : BitVec 4 → V),
     s.m.vecReads (some d) [a] k = some (m1, mask, val) →
     let w := vecWidth t.toNat
     let js := (List.range (512 / w)).filter (fun j => mask.getLsbD (j * w / 32))
     let one (acc j : Nat) : Nat × BitVec 5 := redStep o.toNat t.toNat acc (elem (val a) w j)
     (let run := js.foldl (fun (x : Nat × BitVec 5) j => ((one x.1 j).1, x.2 ||| (one x.1 j).2)) (redIdentity o.toNat t.toNat, 0)
      let r := m1.redOut t.toNat run.1 m1.me.gen
      exec (.vred d a t k o) s = .next (s.on ((m1.writeV d (BitVec.ofNat 512 r.1)).flagged (run.2 ||| r.2.1) r.2.2).done)) ∧
     (let next (x : Nat × BitVec 5 × BitVec 32) (j : Nat) : Nat × BitVec 5 × BitVec 32 :=
        let r := m1.redOut t.toNat (one x.1 j).1 x.2.2
        ((one x.1 j).1, x.2.1 ||| (one x.1 j).2 ||| r.2.1, r.2.2)
      let after (n : Nat) : Nat × BitVec 5 × BitVec 32 := (js.take n).foldl next (redIdentity o.toNat t.toNat, 0, m1.me.gen)
      ∃ v : V, exec (.vscan d a t k o) s = .next (s.on ((m1.writeV d (blend mask v (m1.vimage d))).flagged
          (after js.length).2.1 (after js.length).2.2).done) ∧
        ∀ n, n < js.length → elem v w (js.getD n 0) = (m1.redOut t.toNat (after (n + 1)).1 (after n).2.2).1 % 2 ^ w)) ∧
  (∀ (s : State) (d a o : BitVec 4) (k : BitVec 3) (m1 : Mach) (mask : BitVec 16) (val : BitVec 4 → V),
     s.m.vecReads (some d) [a] k = some (m1, mask, val) →
     ∃ (v : V) (fl : BitVec 5), exec (.vsf d a k o) s = .next (s.on (m1.lateV d (.value v.toNat fl)).done) ∧
       (∀ i, i < 16 → lane v i = if mask.getLsbD i then BitVec.ofNat 32 (specialF o (lane (val a) i)).1 else lane (m1.vimage d) i) ∧
       ∀ j, fl.getLsbD j = true ↔ ∃ i, i < 16 ∧ mask.getLsbD i = true ∧ (specialF o (lane (val a) i)).2.getLsbD j = true) ∧
  (∀ (s : State) (d a b c o x : BitVec 4) (k t p : BitVec 3) (w : BitVec 5) (e : Trap),
     let bad (srcs : List (BitVec 4)) (ws : List (BitVec 5)) (l : List Instr) : Prop :=
       s.m.needOperands srcs k ws = .error e → ∀ i ∈ l, exec i s = .next (s.on (s.m.trapMe e))
     bad [a, b] [] [.vaddInt d a b k t, .vsubInt d a b k t, .vmulInt d a b k t, .vminInt d a b k t, .vmaxInt d a b k t,
       .vshl d a b k t, .vshr d a b k t, .vaddFloat d a b k t, .vsubFloat d a b k t, .vmulFloat d a b k t, .vminFloat d a b k t,
       .vmaxFloat d a b k t, .vand d a b k, .vor d a b k, .vxor d a b k, .vperm d a b k, .vsel d a b k,
       .vcmpInt p a b c k t, .vcmpFloat p a b c k t] ∧
     bad [a, b, c] [] [.vfma d a b c k t, .vdot d a b c k o] ∧
     bad [a] [] [.vcvt d a o x k, .vred d a o k x, .vscan d a o k x, .vsf d a k o] ∧
     bad [] [w] [.vbcast d w k])

/-- R387: the mask instructions; a destination m0 discards the result, and m0 reads 0xFFFF. R387, R18: a mask
instruction changes its destination mask's 2 bytes and the full/empty bit of the word they share, and nothing else but
the issuing context's position; the other masks keep their values. R387, R18, R22: an empty shared word of a source mask
raises HAZARD_READ, and so does an empty w[a] for MMOVW. With the words that R387 gives. Where the spec leaves a point
of this open, it is the model's choice: log 7. -/
def Obligations.MaskInstructions : Prop :=
  (∀ (s : State) (d a b : BitVec 3) (w : BitVec 5), s.m.canReadM a → s.m.canReadM b → s.m.canReadW w →
     let x := s.m.mask a
     let y := s.m.mask b
     let out (v : BitVec 16) : State := s.on (s.m.writeM d v).done
     exec (.mand d a b) s = .next (out (x &&& y)) ∧ exec (.mor d a b) s = .next (out (x ||| y)) ∧
     exec (.mxor d a b) s = .next (out (x ^^^ y)) ∧ exec (.mnot d a) s = .next (out (~~~x)) ∧
     exec (.mmovw d w) s = .next (out ((s.m.w w).setWidth 16)) ∧
     exec (.mcnt w a) s = .next (s.on (s.m.writeW w (BitVec.ofNat 64 ((List.range 16).countP (fun i => x.getLsbD i)))).done) ∧
     exec (.mmovwW w a) s = .next (s.on (s.m.writeW w (x.setWidth 64)).done) ∧
     s.m.writeM 0 x = s.m ∧ s.m.mask 0 = 0xFFFF) ∧
  (∀ (s : State) (d a b : BitVec 3) (w : BitVec 5) (l : List Instr),
     s.m.canReadM a → s.m.canReadM b → s.m.canReadW w →
     l = [.mand d a b, .mor d a b, .mxor d a b, .mnot d a, .mmovw d w] →
     ∀ i ∈ l, ∃ t : State, exec i s = .next t ∧ t = s.on t.m ∧ (∀ n, n ≠ d → t.m.mask n = s.m.mask n) ∧
       s.m.Differs t.m (fun p => d ≠ 0 ∧ s.m.mKey d ≤ p ∧ p < s.m.mKey d + 2) s.m.inSequence) ∧
  ((∀ (s : State) (d a b : BitVec 3) (w : BitVec 5),
     let hazard : State := s.on (s.m.lastHere.enterTrap s.m.cur.core s.m.cur.ctx { cause := .hazardRead, bad := s.m.wordBad } s.m.me.pc)
     (a ≠ 0 → s.m.full (wordOf (s.m.mKey a)) = false →
       exec (.mand d a b) s = .next hazard ∧ exec (.mor d a b) s = .next hazard ∧ exec (.mxor d a b) s = .next hazard ∧
       exec (.mnot d a) s = .next hazard ∧ exec (.mcnt w a) s = .next hazard ∧ exec (.mmovwW w a) s = .next hazard ∧
       (s.m.canReadM b → exec (.mand d b a) s = .next hazard ∧ exec (.mor d b a) s = .next hazard ∧
         exec (.mxor d b a) s = .next hazard)) ∧
     (w ≠ 0 → s.m.full (s.m.wKey w) = false → exec (.mmovw d w) s = .next hazard)) ∧
   decode 0x500A6000 = .ok (.mand 1 2 3) ∧ decode 0x504A6000 = .ok (.mor 1 2 3) ∧ decode 0x508A6000 = .ok (.mxor 1 2 3) ∧
   decode 0x50CA0000 = .ok (.mnot 1 2) ∧ decode 0x51084000 = .ok (.mcnt 4 1) ∧ decode 0x51490000 = .ok (.mmovw 1 4) ∧
   decode 0x51884000 = .ok (.mmovwW 4 1))

/-- R20, R424: an operation on a vector register that is no bound port changes the 64 bytes of v[d], leaves its words
full, and changes nothing else but FPFLAGS, the generator and the issuing context's position. -/
def Obligations.VectorWriteFrame : Prop :=
  ∀ (s : State) (d a b c : BitVec 4) (k t : BitVec 3) (l : List Instr) (mask : BitVec 16) (val3 val2 : BitVec 4 → V),
    s.m.port d = .unbound → s.m.vecReads (some d) [a, b, c] k = some (s.m, mask, val3) →
    s.m.vecReads (some d) [a, b] k = some (s.m, mask, val2) →
    l = [.vaddInt d a b k t, .vsubInt d a b k t, .vmulInt d a b k t, .vminInt d a b k t, .vmaxInt d a b k t, .vshl d a b k t,
         .vshr d a b k t, .vaddFloat d a b k t, .vsubFloat d a b k t, .vmulFloat d a b k t, .vminFloat d a b k t,
         .vmaxFloat d a b k t, .vfma d a b c k t, .vand d a b k, .vor d a b k, .vxor d a b k, .vsel d a b k, .vperm d a b k] →
    ∀ i ∈ l, ∃ (u : State) (fl : BitVec 5) (g : BitVec 32), exec i s = .next u ∧ u = s.on u.m ∧
      (∀ n, n < 8 → u.m.full (s.m.vKey d + 8 * n) = true) ∧
      s.m.Differs u.m (fun p => s.m.vKey d ≤ p ∧ p < s.m.vKey d + 64)
        { s.m.inSequence with fpflags := s.m.me.fpflags ||| fl, gen := g }

/-! ### Memory -/

/-- R383, R132, R133, R153: a load from the core's own window brings the little-endian value late, zero-extended
(`ld.n…`) or sign-extended (`ld.i…`), at w[a] + offset × size, after every earlier store of the core's contexts there.
R383, R333: every other form of a load: once its address is checked and its access made, the value known at issue, or
the reply of the packet sent, is a late result; on a parkable page the context waits for the reply. An address that a
check refuses, and a datum that reads bad, trap before any effect. Where the spec leaves a point of this open, it is the
model's choice: log 49, 61. -/
def Obligations.Loads : Prop :=
  (∀ (s : State) (d a : BitVec 5) (z : BitVec 2) (imm : BitVec 11),
     let n : Nat := 2 ^ z.toNat
     let x := s.m.w a + BitVec.ofInt 64 (imm.toInt * n)
     let k := scratchKey s.m.cur.core (offOf x)
     let m := s.m.settleOwn s.m.cur.core
     s.m.canReadW a → s.m.ownWindow x n → (∀ w ∈ wordsOf k n, w ∉ m.scratchBad) →
     let v := Mem.read m.mem k n
     let out (v : Nat) : State := s.on (m.late (m.lateW d) (.value v 0) true).done
     exec (.ldN d a z imm) s = .next (out v) ∧
     exec (.ldI d a z imm) s = .next (out (if v < 2 ^ (8 * n - 1) then v else v + 2 ^ 64 - 2 ^ (8 * n)))) ∧
  (∀ (s : State) (d a : BitVec 5) (z : BitVec 2) (imm : BitVec 11) (sg : Bool) (i : Instr),
     let n : Nat := 2 ^ z.toNat
     let x := s.m.w a + BitVec.ofInt 64 (imm.toInt * n)
     i = (if sg then .ldI d a z imm else .ldN d a z imm) → s.m.canReadW a →
     (∀ t, s.m.memCheck x n .load = .error t → exec i s = .next (s.on (s.m.trapMe t))) ∧
     (∀ p m1, s.m.memCheck x n .load = .ok (p, m1) →
       (∀ t, m1.fetchData x n p true = .error t → exec i s = .next (s.on (s.m.trapMe t))) ∧
       (∀ v m2, m1.fetchData x n p true = .ok (.value v, m2) →
         exec i s = .next (s.on (m2.late (m2.lateW d) (.value (intOf (8 * n) sg v % (2 ^ 64 : Nat)).toNat 0) true).done)) ∧
       (∀ id fill m2, m1.fetchData x n p true = .ok (.packet id fill, m2) →
         exec i s = .next (s.on ((m2.late (m2.lateW d)
           (.parts { wait := [(0, n, id)], size := n, signed := sg, fill := fill }) true).issuedAt p m2.nextId x)))))

/-- R416, R132, R133, R150: a store to the core's own window writes the low bytes of w[t], little-endian, at w[a] +
offset × size: exactly those bytes, at one instant, which is at issue in a frame and otherwise when the stores of the
core are performed; the words' full/empty bits stay, and every other byte reads as before. (The instant is the model's:
DEDUCED.) R150, R153: what performs the stores of a core to its own window: nothing where there is none, else the oldest
store first, each with exactly its bytes, after which the stores of the other cores are the ones left. (That they wait
is the model's: DEDUCED.) R416, R333: every form of a store, once its address is checked: the bytes are stored, combined
or sent, and the context goes on, or on a parkable page waits for the acknowledgement. An address that a check refuses
traps before any effect. Where the spec leaves a point of this open, it is the model's choice: log 49, 61, 74. -/
def Obligations.Stores : Prop :=
  (∀ (s : State) (t a : BitVec 5) (z : BitVec 2) (imm : BitVec 11) (k : Nat) (m1 : Mach),
     let n : Nat := 2 ^ z.toNat
     let c := s.m.cur.core
     let v := (s.m.w t).toNat % 2 ^ (8 * n)
     s.m.canReadW a → s.m.canReadW t →
     s.m.memCheck (s.m.w a + BitVec.ofInt 64 (imm.toInt * n)) n .store = .ok (.local k, m1) →
     ∃ u : State, exec (.st t a z imm) s = .next u ∧ u = s.on u.m ∧ m1 = s.m ∧ u.m.empties = s.m.empties ∧
       ((∀ x, k ≤ x → x < k + n → s.m.inFrame c x = false) → u.m.mem = s.m.mem) ∧
       (∀ x, k ≤ x → x < k + n → s.m.inFrame c x = true → Mem.read u.m.mem k n = v) ∧
       Mem.read (u.m.settleOwn c).mem k n = v ∧
       (s.m.settleOwn c).Differs (u.m.settleOwn c) (fun x => k ≤ x ∧ x < k + n) s.m.inSequence) ∧
  (∀ (m : Mach) (c : Nat),
     ((∀ w ∈ m.ownStores, w.1 ≠ c) → m.settleOwn c = m) ∧
     (∀ bytes rest, m.ownStores = (c, bytes) :: rest →
       m.settleOwn c = ({ m with ownStores := rest }.storeScratch bytes).settleOwn c) ∧
     (m.settleOwn c).ownStores = m.ownStores.filter (fun w => w.1 != c) ∧
     (∀ bytes, (∀ b ∈ bytes, m.inFrame c b.1 = false) → (m.storeOwn c bytes).ownStores = m.ownStores ++ [(c, bytes)]) ∧
     (∀ bytes, (m.storeOwn c bytes).settleOwn c = (m.settleOwn c).storeScratch bytes) ∧
     (∀ bytes k, (∀ b ∈ bytes, b.1 ≠ k) → Mem.get (m.storeScratch bytes).mem k = Mem.get m.mem k)) ∧
  (∀ (s : State) (t a : BitVec 5) (z : BitVec 2) (imm : BitVec 11),
     let n : Nat := 2 ^ z.toNat
     let x := s.m.w a + BitVec.ofInt 64 (imm.toInt * n)
     let bytes := bytesAt 0 n (s.m.w t).toNat
     s.m.canReadW a → s.m.canReadW t →
     (∀ e, s.m.memCheck x n .store = .error e → exec (.st t a z imm) s = .next (s.on (s.m.trapMe e))) ∧
     (∀ p m1, s.m.memCheck x n .store = .ok (p, m1) →
       (p.parkable = false → exec (.st t a z imm) s = .next (s.on (m1.storeData x bytes p).done)) ∧
       (p.parkable = true → exec (.st t a z imm) s = .next (s.on
         (((m1.drainAll m1.cur.core).storeData x bytes p).await (.access (m1.drainAll m1.cur.core).nextId x none [] {}))))))

/-- R385, R411, R418, R341, R18: the synchronising accesses to a word of the core's own window, each after every earlier
store of the core's contexts there (R153): STF writes and fills, SETE empties, ARRIVE counts a join word down and fills
it at 0. LDS empties w[d], its own word among them if it names it; then a full word comes late (LDS.c empties it), and a
word that is empty keeps the LDS waiting at the word's home. R385, R411, R418, R341, R152: a synchronising access that
its check refuses traps before any effect, and one of another core's word is a request to that core; an LDS then waits
for its reply. R341: ARRIVE on a join word whose count is 0 already raises FULL_EMPTY_MISUSE in the fault queue and
changes no word beyond the core's earlier stores. Where the spec leaves a point of this open, it is the model's choice:
log 8, 61, 74. -/
def Obligations.LocalSynchronisation : Prop :=
  (∀ (s : State) (t a : BitVec 5) (imm : BitVec 11),
     let x := s.m.w a + BitVec.ofInt 64 (imm.toInt * 8)
     let k := scratchKey s.m.cur.core (offOf x)
     let m0 := s.m.settleOwn s.m.cur.core
     s.m.canReadW a → s.m.ownWindow x 8 →
     (s.m.canReadW t →
       exec (.stf t a imm) s = .next (s.on ((m0.storeScratch (bytesAt k 8 (s.m.w t).toNat)).fill k).done)) ∧
     exec (.sete a imm) s = .next (s.on (m0.empty k).done) ∧
     (imm = 0 →
       let m := m0.write k 8 (m0.word k - 1).toNat
       (k ∉ m0.scratchBad → field (m0.word k) 0 63 ≠ 0 →
         exec (.arrive a) s = .next (s.on (if field (m0.word k - 1) 0 63 = 0 then m.fill k else m).done)) ∧
       (k ∈ m0.scratchBad →
         exec (.arrive a) s = .next (s.on (s.m.trapMe { cause := .scratchUncorrectable, bad := x })))) ∧
     (let id := m0.nextId
      let m := m0.late (m0.lateW t) (.token true)
      let v := Mem.read m0.mem k 8
      let lds (c : Bool) : Instr := if c then .ldsC t a imm else .lds t a imm
      (m.full k = (s.m.full k && !(s.m.lateW t).contains k)) ∧
      (m.full k = true → k ∉ m.scratchBad →
        exec (.lds t a imm) s = .next (s.on ((m.setLate id (.value v 0)).awaitSync id)) ∧
        exec (.ldsC t a imm) s = .next (s.on (((m.empty k).setLate id (.value v 0)).awaitSync id))) ∧
      (m.full k = true → k ∈ m.scratchBad → ∀ c : Bool,
        exec (lds c) s = .next (s.on (s.m.trapMe { cause := .scratchUncorrectable, bad := x }))) ∧
      (m.full k = false → s.m.myCore.waiters.length < 64 → ∀ c : Bool,
        exec (lds c) s = .next (s.on ((m.modCore s.m.cur.core
          (fun r => { r with waiters := r.waiters ++ [(id, k, c)] })).awaitSync id))) ∧
      (m.full k = false → 64 ≤ s.m.myCore.waiters.length → ∀ c : Bool,
        exec (lds c) s = .next (s.on (((m.request s.m.cur.core (.mem (.sync c) k x false)).setLate id
          (.parts { wait := [(0, 8, m.nextId)], size := 8 })).awaitSync id))))) ∧
  (∀ (s : State) (t a : BitVec 5) (imm : BitVec 11) (i : Instr) (op : MemOp),
     let x := s.m.w a + BitVec.ofInt 64 (imm.toInt * 8)
     s.m.canReadW a →
     ((i, op) ∈ [((.stf t a imm : Instr), MemOp.setFull (s.m.w t)), (.sete a imm, .setEmpty), (.arrive a, .arrive)] →
       (i = .stf t a imm → s.m.canReadW t) → (i = .arrive a → imm = 0) →
       (∀ e, s.m.syncCheck x .store = .error e → exec i s = .next (s.on (s.m.trapMe e))) ∧
       (∀ h k m1, s.m.syncCheck x .store = .ok (.remote h k, m1) →
         exec i s = .next (s.on (m1.request h (.mem op k x false)).done))) ∧
     (∀ c : Bool, i = (if c then .ldsC t a imm else .lds t a imm) →
       (∀ e, s.m.syncCheck x .load = .error e → exec i s = .next (s.on (s.m.trapMe e))) ∧
       (∀ h k m1, s.m.syncCheck x .load = .ok (.remote h k, m1) →
         let m := m1.request h (.mem (.sync c) k x false)
         exec i s = .next (s.on ((m.late (m.lateW t)
           (.parts { wait := [(0, 8, m1.nextId)], size := 8 }) true).awaitSync (m1.nextId + 1)))))) ∧
  (∀ (s : State) (a : BitVec 5),
     let x := s.m.w a
     let k := scratchKey s.m.cur.core (offOf x)
     let m := s.m.settleOwn s.m.cur.core
     s.m.canReadW a → s.m.ownWindow x 8 → k ∉ m.scratchBad → field (m.word k) 0 63 = 0 →
     exec (.arrive a) s = .next (s.on (m.errorEntry m.cur.core .fullEmptyMisuse x m.me.pc (some m.cur.ctx)).done))

/-- R336, R357, R153: an atomic on the core's own window, after every earlier store of the core's contexts there: the
old value is a late result and the word's new value is the operation's, over the low bytes of w[d]; CAS stores the low
bytes of w[b] only where memory holds those of w[d]. R336, R357, R145, R153: an atomic elsewhere is one request to the
word's home; its reply brings the old value late. A GV atomic first drops the issuing core's copy of the line and drains
the core's combined stores. One whose walk meets bad data has an error reply (R134, R144): zero comes. An address that a
check refuses traps before any effect. Where the spec leaves a point of this open, it is the model's choice: log 49, 61.
-/
def Obligations.Atomics : Prop :=
  (∀ (s : State) (d a b : BitVec 5) (z : BitVec 2) (g : BitVec 1) (imm : BitVec 8) (i : Instr) (new : Nat → Nat → Nat),
     let n : Nat := 2 ^ z.toNat
     let num (v : Nat) : Int := if g = 1 ∧ 2 ^ (8 * n - 1) ≤ v then (v : Int) - 2 ^ (8 * n) else v
     (i, new) ∈ [((.amoAdd d a z g imm : Instr), fun o x => (o + x) % 2 ^ (8 * n)),
       (.amoAnd d a z g imm, fun o x => o &&& x), (.amoOr d a z g imm, fun o x => o ||| x),
       (.amoXor d a z g imm, fun o x => o ^^^ x), (.amoMin d a z g imm, fun o x => if num x < num o then x else o),
       (.amoMax d a z g imm, fun o x => if num o < num x then x else o), (.amoSwap d a z g imm, fun _ x => x)] →
     s.m.canReadW a → s.m.canReadW d → s.m.canReadW b →
     let m0 := s.m.settleOwn s.m.cur.core
     let late (m : Mach) (old : Nat) : State :=
       s.on (m.late (m.lateW d) (.value ((num old) % (2 ^ 64 : Nat)).toNat 0) true).done
     (let x := s.m.w a + BitVec.ofInt 64 (imm.toInt * n)
      let k := scratchKey s.m.cur.core (offOf x)
      let old := Mem.read m0.mem k n
      s.m.ownWindow x n → (∀ w ∈ wordsOf k n, w ∉ m0.scratchBad) →
      exec i s = .next (late (m0.write k n (new old ((s.m.w d).toNat % 2 ^ (8 * n)))) old)) ∧
     (let k := scratchKey s.m.cur.core (offOf (s.m.w a))
      let old := Mem.read m0.mem k n
      s.m.ownWindow (s.m.w a) n → (∀ w ∈ wordsOf k n, w ∉ m0.scratchBad) →
      exec (.cas d a z g b) s = .next (late
        (if old = (s.m.w d).toNat % 2 ^ (8 * n) then m0.write k n ((s.m.w b).toNat % 2 ^ (8 * n)) else m0) old))) ∧
  (∀ (s : State) (d a b : BitVec 5) (z : BitVec 2) (g : BitVec 1) (imm : BitVec 8) (i : Instr) (f : Nat),
     let n : Nat := 2 ^ z.toNat
     (i, f) ∈ [((.amoAdd d a z g imm : Instr), 0), (.amoAnd d a z g imm, 1), (.amoOr d a z g imm, 2), (.amoXor d a z g imm, 3),
       (.amoMin d a z g imm, 4), (.amoMax d a z g imm, 5), (.amoSwap d a z g imm, 6)] →
     s.m.canReadW a → s.m.canReadW d → s.m.canReadW b →
     let v := (s.m.w d).toNat % 2 ^ (8 * n)
     let send (m : Mach) (dst : Nat) (op : MemOp) (k : Nat) (x : Word) (pk : Bool) : Mach :=
       let m' := m.request dst (.mem op k x pk)
       m'.late (m'.lateW d) (.parts { wait := [(0, n, m.nextId)], size := n, signed := g == 1 }) true
     let here (x : Word) (op : MemOp) (i : Instr) : Prop :=
       (∀ t, s.m.memCheck x n .atomic = .error t → exec i s = .next (s.on (s.m.trapMe t))) ∧
       (∀ h k m1, s.m.memCheck x n .atomic = .ok (.remote h k, m1) → exec i s = .next (s.on (send m1 h op k x false).done)) ∧
       (∀ m1, s.m.memCheck x n .atomic = .ok (.failed, m1) →
         exec i s = .next (s.on (m1.late (m1.lateW d) (.value 0 0) true).done)) ∧
       (∀ pa pte m1, s.m.memCheck x n .atomic = .ok (.global pa pte, m1) →
         let m2 := (m1.dropL1 s.m.cur.core (lineOf pa)).drainAll s.m.cur.core
         exec i s = .next (s.on ((send m2 (m2.homeEnd s.m.cur.core pa (hashUnit pte)) op pa x (ptePk pte)).issuedAt
           (.global pa pte) (m2.nextId + 1) x)))
     here (s.m.w a + BitVec.ofInt 64 (imm.toInt * n)) (.amo f n (g == 1) v) i ∧
     here (s.m.w a) (.cas n v ((s.m.w b).toNat % 2 ^ (8 * n))) (.cas d a z g b))

/-- R434, R333: VLD brings the 64 bytes at w[a] + 64 × offset late to the active lanes, and VST stores the active lanes;
with no active lane neither accesses memory. An address that a check refuses traps, with nothing popped or pushed. Where
the spec leaves a point of this open, it is the model's choice: log 49. -/
def Obligations.VectorLoadsStores : Prop :=
  ∀ (s : State) (v : BitVec 4) (a : BitVec 5) (k : BitVec 3) (imm : BitVec 12),
    let off := BitVec.ofInt 64 (64 * imm.toInt)
    (∀ m0 mask val, s.m.vecReads (some v) [] k [a] = some (m0, mask, val) → s.m.canReadW a →
      let x := s.m.w a + off
      (∀ t, s.m.memCheck x 64 .load = .error t → exec (.vld v a k imm) s = .next (s.on (s.m.trapMe t))) ∧
      (∀ p m1, s.m.memCheck x 64 .load = .ok (p, m1) →
        (mask = 0 → exec (.vld v a k imm) s = .next (s.on m1.done)) ∧
        (mask ≠ 0 →
          (∀ t, m1.fetchData x 64 p true = .error t → exec (.vld v a k imm) s = .next (s.on (s.m.trapMe t))) ∧
          (∀ y m2, m1.fetchData x 64 p true = .ok (.value y, m2) → exec (.vld v a k imm) s =
            .next (s.on (m2.lateV v (.value (blend mask (BitVec.ofNat 512 y) (s.m.vimage v)).toNat 0) true).done)) ∧
          (∀ id fill m2, m1.fetchData x 64 p true = .ok (.packet id fill, m2) →
            let q : Parts := { wait := [(0, 64, id)], size := 64, old := s.m.vimage v, mask := mask, fill := fill }
            exec (.vld v a k imm) s =
              .next (s.on ((m2.lateV v (.parts q) true).issuedAt p m2.nextId x (s.m.undoOf [v]))))))) ∧
    (∀ m0 mask val, s.m.vecReads none [v] k [a] = some (m0, mask, val) → m0.canReadW a →
      let x := m0.w a + off
      (∀ t, m0.memCheck x 64 .store = .error t → exec (.vst v a k imm) s = .next (s.on (s.m.trapMe t))) ∧
      (∀ p m1, m0.memCheck x 64 .store = .ok (p, m1) →
        (mask = 0 → exec (.vst v a k imm) s = .next (s.on m1.done)) ∧
        (mask ≠ 0 → exec (.vst v a k imm) s = .next (s.on (m1.storeAt x (laneBytes mask (val v)) p (s.m.undoOf [v]))))))

/-- R433, R436: a gather checks its lanes' addresses in lane order, then brings all of them late; a scatter on no
parkable page stores its lanes in lane order, and one with a parkable page drains the combined stores and sends them one
after the other. A lane's address that a check refuses traps, with nothing popped or pushed. -/
def Obligations.GatherScatter : Prop :=
  ∀ (s : State) (v x : BitVec 4) (a : BitVec 5) (k : BitVec 3) (h : BitVec 2) (m0 : Mach) (mask : BitVec 16)
    (val : BitVec 4 → V), m0.canReadW a →
    (s.m.vecReads (some v) [x] k [a] = some (m0, mask, val) →
      (∀ t, m0.checkLanes (m0.w a) (val x) h.toNat .load (activeLanes mask) = .error t →
        exec (.vgath v a x k h) s = .next (s.on (s.m.trapMe t))) ∧
      (∀ ps m1, m0.checkLanes (m0.w a) (val x) h.toNat .load (activeLanes mask) = .ok (ps, m1) →
        (mask = 0 → exec (.vgath v a x k h) s = .next (s.on m1.done)) ∧
        (∀ t, mask ≠ 0 → m1.gatherLanes ps = .error t → exec (.vgath v a x k h) s = .next (s.on (s.m.trapMe t))) ∧
        (∀ wait got m2, mask ≠ 0 → m1.gatherLanes ps = .ok (wait, got, m2) →
          let m3 := m2.lateV v
            (.parts { wait := wait, got := got, size := 64, old := m1.vimage v, mask := mask, gather := true }) true
          exec (.vgath v a x k h) s = .next (s.on (if ps.any (fun p => p.2.2.parkable)
            then m3.await (.access m2.nextId (m0.w a) none [] (s.m.undoOf [v, x])) else m3.done))))) ∧
    (s.m.vecReads none [v, x] k [a] = some (m0, mask, val) →
      (∀ t, m0.checkLanes (m0.w a) (val x) h.toNat .store (activeLanes mask) = .error t →
        exec (.vscat v a x k h) s = .next (s.on (s.m.trapMe t))) ∧
      (∀ ps m1, m0.checkLanes (m0.w a) (val x) h.toNat .store (activeLanes mask) = .ok (ps, m1) →
        (ps.any (fun p => p.2.2.parkable) = false → exec (.vscat v a x k h) s =
          .next (s.on (ps.foldl (fun m p => m.storeData p.2.1 (bytesAt 0 4 (lane (val v) p.1).toNat) p.2.2) m1).done)) ∧
        (ps.any (fun p => p.2.2.parkable) = true →
          let m2 := m1.drainAll m1.cur.core
          exec (.vscat v a x k h) s = .next (s.on (m2.done.scatterNext m1.cur.core m2.cur.ctx m2.me.task m2.me.pc
            (s.m.undoOf [v, x])
            (ps.filterMap (fun p => (m2.homeOf p.2.2).map (fun h =>
              (p.1, p.2.1, (lane (val v) p.1).toNat, h.1, h.2, p.2.2.parkable)))))))))

/-- R156, R402: a release first drains the combined stores and performs the core's stores to its own window. A fence
that finds nothing outstanding completes at once, an acquire with its invalidations; otherwise its context waits, with
nothing else done; a release of system scope also waits for the peers' homes. PREF never traps once its address register
is read. Where the spec leaves a point of this open, it is the model's choice: log 60, 61. -/
def Obligations.FenceAndPrefetch : Prop :=
  ∀ (s : State) (k : BitVec 2) (sc : BitVec 3) (c : BitVec 2) (a : BitVec 5) (imm : BitVec 11),
    let acq := k.getLsbD 0
    let rel := k.getLsbD 1
    let sys := decide (4 ≤ sc.toNat)
    let core := s.m.cur.core
    let x := s.m.cur.ctx
    let t := s.m.me.task
    let m := if rel then (s.m.drainAll core).settleOwn core else s.m
    let free := (!acq || m.acquiredAll core x t) && (!rel || (m.releasedAll core x t && !(sys && m.peerHeld core x t)))
    (free = true → exec (.fence k sc) s = .next (s.on (if acq then m.acquire sc.toNat else m).done)) ∧
    (free = false → exec (.fence k sc) s = .next (s.on (m.stay (.fence acq rel sys)))) ∧
    (s.m.canReadW a →
      exec (.pref c a imm) s = .next (s.on (s.m.prefetch c (s.m.w a + BitVec.ofInt 64 (128 * imm.toInt))).done))

/-- R408, R415: SBIND binds port v12 + p to a copy of the 48-byte record in sh[h], at its first element; a record that a
check refuses leaves the port unbound and traps with STREAM_UNBOUND; SREL unbinds, and on an unbound port traps. -/
def Obligations.StreamPorts : Prop :=
  ∀ (s : State) (p h : BitVec 2) (ws : List Word), s.m.readSh h = .ok ws →
    let v : BitVec 4 := BitVec.ofNat 4 (12 + p.toNat)
    let m := s.m.setPort v .unbound
    (m.bindCause (recOf ws) = none → recCount (recOf ws) ≠ 0 →
      exec (.sbind p h) s = .next (s.on (m.setPort v (.stream ws (recDir (recOf ws)) 0)).done)) ∧
    (m.bindCause (recOf ws) = none → recCount (recOf ws) = 0 → exec (.sbind p h) s = .next (s.on m.done)) ∧
    (∀ e, m.bindCause (recOf ws) = some e →
      exec (.sbind p h) s = .next (s.on (m.trapMe { cause := .streamUnbound, bad := some (BitVec.ofNat 64 e.code) }))) ∧
    (s.m.port v ≠ .unbound → exec (.srel p) s = .next (s.on m.done)) ∧
    (s.m.port v = .unbound → exec (.srel p) s = .next (s.on (s.m.trapMe { cause := .streamUnbound })))

/-! ### Closures and messages -/

/-- R355, R356, R97, R98, R95: CAPT and CAPTR write the lowest free frame of the environment store with the entry, a
control word with one reference and the frame's generation, and the captured words, zeros after them; k[k] takes the
handle. CAPTR also records the workspace frame and its generation, and pins it. Words beyond w31, a full store, an
interjection's workspace, a full pin count and (R137) an uncorrectable control word that the search for a frame reads
trap before any effect. CAPT leaves OUTER and OGEN zero, which is the model's choice (log 69). Where the spec leaves a
point of this open, it is the model's choice: log 74. -/
def Obligations.CaptureResults : Prop :=
  ∀ (s : State) (k : BitVec 3) (b : BitVec 5) (n : BitVec 3) (o : BitVec 1) (f : BitVec 13),
    let c := s.m.cur.core
    let frame := s.m.myCore.frameNo s.m.me.wp
    let trap (e : Cause) : State := s.on (s.m.trapMe { cause := e })
    let entry := s.m.me.pc + BitVec.ofInt 64 (4 * f.toInt)
    (32 < b.toNat + n.toNat + 1 →
      exec (.capt k b n o f) s = .next (trap .captureRange) ∧ exec (.captr k b n o f) s = .next (trap .captureRange)) ∧
    (∀ caps, b.toNat + n.toNat + 1 ≤ 32 → s.m.readRange b.toNat (n.toNat + 1) = .ok caps →
      (s.m.cur.ctx = 11 → exec (.captr k b n o f) s = .next (trap .workspaceBounds)) ∧
      (∀ j, s.m.cur.ctx ≠ 11 → frame = some j → Table.get s.m.myCore.pins j 0 = 65535 →
        exec (.captr k b n o f) s = .next (trap .refcountOverflow)) ∧
      (∀ key, s.m.badEnv c = some key →
        let bad := s.on (s.m.trapMe { cause := .scratchUncorrectable, bad := lwOf key })
        exec (.capt k b n o f) s = .next bad ∧
        (s.m.cur.ctx ≠ 11 → (∀ j, frame = some j → Table.get s.m.myCore.pins j 0 ≠ 65535) → exec (.captr k b n o f) s = .next bad)) ∧
      (s.m.badEnv c = none → s.m.freeEnv c = none → exec (.capt k b n o f) s = .next (trap .envStoreFull) ∧
        (s.m.cur.ctx ≠ 11 → (∀ j, frame = some j → Table.get s.m.myCore.pins j 0 ≠ 65535) →
          exec (.captr k b n o f) s = .next (trap .envStoreFull))) ∧
      (∀ i, s.m.badEnv c = none → s.m.freeEnv c = some i →
        let key := s.m.envKey c i
        let gen := if ctlGen (s.m.ctl key) = 0 then 1 else ctlGen (s.m.ctl key)
        let out (byref : Bool) (outer : Word) (ogen : BitVec 8) : List (Nat × Byte) :=
          wordBytes key ([entry, mkCtl 1 gen (o == 1) byref s.m.me.rt n.toNat ogen, outer] ++ caps ++ List.replicate (7 - n.toNat) 0)
        exec (.capt k b n o f) s = .next (s.on ((s.m.storeScratch (out false 0 0)).writeK k (mkHandle c i gen)).done) ∧
        (∀ j, s.m.cur.ctx ≠ 11 → frame = some j → Table.get s.m.myCore.pins j 0 ≠ 65535 →
          let m := s.m.storeScratch (out true (BitVec.ofNat 64 s.m.me.wp) (Table.get s.m.myCore.gens j 0))
          exec (.captr k b n o f) s = .next (s.on ((m.modCore c (fun r =>
            { r with pins := Table.set r.pins j (Table.get r.pins j 0 + 1) })).writeK k (mkHandle c i gen)).done)) ∧
        (s.m.cur.ctx ≠ 11 → frame = none → exec (.captr k b n o f) s =
          .next (s.on ((s.m.storeScratch (out true (BitVec.ofNat 64 s.m.me.wp) 0)).writeK k (mkHandle c i gen)).done))))

/-- R339, R100, R101, R99: an application of a closure at the own home whose checks pass takes it: a flight more, and a
once closure's reference less; it is queued at the oldest end of the deque. One of another core's closure is a message,
once a send-queue entry is free. APPLY.tail ends its task; in the control context it goes on. A check that fails traps
with the handle in BADADDR, before any effect. The words are read and the arguments are zero for a = 0 (log 44). R414,
R101, R79: SPAWN of a closure at the own home takes it and queues it at the newest end of the deque; of another core's
closure it asks the home to take it, and the context awaits the reply; with a = 0 no word is read and the arguments are
zero. A deque that cannot take the entry traps before anything is asked. R340, R100, R102: APPLYV applies its active
lanes in lane order, lane i with arguments i and the issuing core. A lane whose home lies outside the partition traps,
then a local lane whose checks fail, counting the lanes before it; only then does any lane act; a deque that cannot take
every local lane traps with no lane applied, which is the model's choice (log 59). A local lane joins the deque at its
oldest end; a remote one takes a send-queue entry, and the context waits for one where none is free. Where the spec
leaves a point of this open, it is the model's choice: log 7, 37, 44, 68, 71, 77. -/
def Obligations.ApplySpawnResults : Prop :=
  (∀ (s : State) (k : BitVec 3) (a : BitVec 5) (args : Args),
     let c := s.m.cur.core
     let h := s.m.k k
     let p := (s.m.partOf c).getD 0
     let both (t : State) : Prop := exec (.apply k a) s = .next t ∧ exec (.applyTail k a) s = .next t
     let finish (m : Mach) : Prop := exec (.apply k a) s = .next (s.on m.done) ∧
       exec (.applyTail k a) s = .next (s.on (if m.cur.ctx = 0 then m.done else m.endTask m.cur.core m.cur.ctx))
     s.m.canReadK k → s.m.applyArgs a = .ok args →
     (29 < a.toNat → both (s.on (s.m.trapMe { cause := .captureRange }))) ∧
     (a.toNat ≤ 29 → s.m.inPart p (hHome h) = false → both (s.on (s.m.trapMe (handleTrap .partitionViolation h)))) ∧
     (a.toNat ≤ 29 → s.m.inPart p (hHome h) = true →
       (hHome h = c →
         (∀ e, s.m.takeApp p h s.m.me.rt = .error e → both (s.on (s.m.trapMe (handleTrap e h)))) ∧
         (∀ home key, s.m.live p h = .ok (home, key) → (ctlRt (s.m.ctl key) = true → s.m.me.rt = true) →
           ctlRefs (s.m.ctl key) ≠ 0 → ctlFlight (s.m.ctl key) ≠ 65535 →
           let refs := if ctlOnce (s.m.ctl key) then ctlRefs (s.m.ctl key) - 1 else ctlRefs (s.m.ctl key)
           let m1 := s.m.putAt h home key refs (ctlFlight (s.m.ctl key) + 1)
           let e : Entry := { h := h, args := args, tag := s.m.me.tag }
           ((m1.core c).spill = [] → (m1.core c).deque.length < 64 →
             finish (m1.modCore c (fun r => { r with deque := e :: r.deque }))) ∧
           (∀ m2, m1.pushOldest c e = some m2 → finish m2) ∧
           (m1.pushOldest c e = none → both (s.on (s.m.trapMe { cause := .helperExhausted }))))) ∧
       (hHome h ≠ c →
         (s.m.myCore.sendq < 16 → finish ((s.m.inject
           { id := 0, src := c, dst := hHome h, body := .apply h args s.m.me.rt s.m.me.tag,
             core := c, task := s.m.me.task, ctxs := [s.m.cur.ctx], pc := s.m.me.pc }).modCore c
             (fun r => { r with sendq := r.sendq + 1 }))) ∧
         (16 ≤ s.m.myCore.sendq → both (s.on (s.m.stay .sendSlot)))))) ∧
  (∀ (s : State) (k : BitVec 3) (a : BitVec 5) (args : Args),
     let c := s.m.cur.core
     let h := s.m.k k
     let p := s.m.myPart
     let trap (t : Trap) : Prop := exec (.spawn k a) s = .next (s.on (s.m.trapMe t))
     s.m.canReadK k → s.m.readArgs a = .ok args → (a = 0 → args = { w1 := 0, w2 := 0, w3 := 0 }) ∧
     (29 < a.toNat → trap { cause := .captureRange }) ∧
     (a.toNat ≤ 29 → s.m.spawnFull c = true → trap { cause := .helperExhausted }) ∧
     (a.toNat ≤ 29 → s.m.spawnFull c = false →
       (s.m.inPart p (hHome h) = false → trap (handleTrap .partitionViolation h)) ∧
       (s.m.inPart p (hHome h) = true →
         (hHome h ≠ c →
           exec (.spawn k a) s = .next (s.on ((s.m.request (hHome h) (.handle .take h s.m.me.rt)).await (.spawn h args)))) ∧
         (hHome h = c →
           (∀ e, s.m.takeApp p h s.m.me.rt = .error e → trap (handleTrap e h)) ∧
           (∀ home key, s.m.live p h = .ok (home, key) → (ctlRt (s.m.ctl key) = true → s.m.me.rt = true) →
             ctlRefs (s.m.ctl key) ≠ 0 → ctlFlight (s.m.ctl key) ≠ 65535 →
             let refs := if ctlOnce (s.m.ctl key) then ctlRefs (s.m.ctl key) - 1 else ctlRefs (s.m.ctl key)
             let m1 := s.m.putAt h home key refs (ctlFlight (s.m.ctl key) + 1)
             let e : Entry := { h := h, args := args, tag := m1.me.tag }
             ((m1.core c).deque.length < 64 → exec (.spawn k a) s =
               .next (s.on (m1.modCore c (fun r => { r with deque := r.deque ++ [e] })).done)) ∧
             (∀ m2, m1.pushNewest c e = some m2 → exec (.spawn k a) s = .next (s.on m2.done))))))) ∧
  (∀ (s : State) (v : BitVec 4) (k : BitVec 3) (m1 : Mach) (mask : BitVec 16) (val : BitVec 4 → V),
     s.m.vecReads none [v] k = some (m1, mask, val) →
     let c := m1.cur.core
     let x := m1.cur.ctx
     let lanes := activeLanes mask
     let h (i : Nat) : Handle := lane (val v) i
     let todo := lanes.map (fun i => (h i, laneArgs c i))
     (∀ i, lanes.find? (fun i => !m1.inPart m1.myPart (hHome (h i))) = some i →
       exec (.applyv v k) s = .next (s.on (s.m.trapMe (laneHandleTrap i (h i) .partitionViolation)))) ∧
     ((∀ i ∈ lanes, m1.inPart m1.myPart (hHome (h i)) = true) →
       (lanes = [] → exec (.applyv v k) s = .next (s.on m1.done)) ∧
       ((∀ i ∈ lanes, hHome (h i) ≠ c) → (m1.core c).sendq + lanes.length ≤ 16 → exec (.applyv v k) s = .next (s.on
         (lanes.foldl (fun m i => (m.inject
           { id := 0, src := c, dst := hHome (h i), body := .apply (h i) (laneArgs c i) (m.ctx c x).rt (m.ctx c x).tag,
             core := c, task := (m.ctx c x).task, ctxs := [x],
             pc := m1.me.pc }).modCore c (fun r => { r with sendq := r.sendq + 1 })) m1).done)) ∧
       (∀ e, m1.takeLocal (val v) lanes = .error e → exec (.applyv v k) s = .next (s.on (s.m.trapMe e))) ∧
       (∀ m2, m1.takeLocal (val v) lanes = .ok m2 →
         let own := (m2.pushLanes c x m2.me.pc (todo.filter (fun l => hHome l.1 == c))).2
         let r := m2.pushLanes c x m2.me.pc todo
         (own ≠ [] → exec (.applyv v k) s = .next (s.on (s.m.trapMe { cause := .helperExhausted }))) ∧
         (own = [] → r.2 = [] → exec (.applyv v k) s = .next (s.on r.1.done)) ∧
         (own = [] → r.2 ≠ [] → exec (.applyv v k) s = .next (s.on (r.1.await (.lanes r.2)))))))

/-- R365, R382, R393: DUPK and DROPK count at the handle's home, at once there and after a reply elsewhere; KINFO
reports late; MOVK copies a handle, zero-extended into a w register. Where the frame has moved, its new home acts in the
same step, which is the model's reading (log 37). Where the spec leaves a point of this open, it is the model's choice:
log 7, 71. -/
def Obligations.HandleInstructions : Prop :=
  ∀ (s : State) (k : BitVec 3) (w : BitVec 5), s.m.canReadK k →
    let c := s.m.cur.core
    let h := s.m.k k
    (s.m.inPart s.m.myPart (hHome h) = false →
      ∀ i ∈ [(.dupk k : Instr), .dropk k, .kinfo k w], exec i s = .next (s.on (s.m.trapMe (handleTrap .partitionViolation h)))) ∧
    (s.m.inPart s.m.myPart (hHome h) = true →
      (∀ m1, hHome h = c → s.m.dupRef s.m.myPart h = .ok m1 → exec (.dupk k) s = .next (s.on m1.done)) ∧
      (∀ m1, hHome h = c → s.m.dropRef s.m.myPart h = .ok m1 → exec (.dropk k) s = .next (s.on m1.done)) ∧
      (∀ e, hHome h = c → s.m.dupRef s.m.myPart h = .error e → exec (.dupk k) s = .next (s.on (s.m.trapMe (handleTrap e h)))) ∧
      (∀ e, hHome h = c → s.m.dropRef s.m.myPart h = .error e → exec (.dropk k) s = .next (s.on (s.m.trapMe (handleTrap e h)))) ∧
      (hHome h ≠ c →
        exec (.dupk k) s = .next (s.on ((s.m.request (hHome h) (.handle .dup h s.m.me.rt)).await .counted)) ∧
        exec (.dropk k) s = .next (s.on ((s.m.request (hHome h) (.handle .drop h s.m.me.rt)).await .counted))) ∧
      (hHome h = c ∨ hGen h = 0 →
        exec (.kinfo k w) s = .next (s.on (s.m.late (s.m.lateW w) (.value (s.m.handleInfo s.m.myPart h) 0)).done)) ∧
      (hHome h ≠ c → hGen h ≠ 0 →
        let m1 := s.m.request (hHome h) (.handle .info h s.m.me.rt)
        exec (.kinfo k w) s =
          .next (s.on (m1.late (m1.lateW w) (.parts { wait := [(0, 8, s.m.nextId)], size := 8 })).done))) ∧
    exec (.movkW k w) s = .next (s.on (s.m.writeW w (h.setWidth 64)).done) ∧
    (s.m.canReadW w → exec (.movk k w) s = .next (s.on (s.m.writeK k ((s.m.w w).setWidth 32)).done))

/-- R99, R365: a DUPK adds one reference to the control word of the handle's live closure; every other bit of that word,
every byte outside it and everything else stay, but for the forwarding entries passed where the frame has moved, whose
life begins anew (the action in one step there is the model's: log 37). -/
def Obligations.DupAddsOneReference : Prop :=
  ∀ (m m1 : Mach) (p : Nat) (h : Handle), m.dupRef p h = .ok m1 →
    ∃ c key, m.live p h = .ok (c, key) ∧ ctlRefs (m1.ctl key) = ctlRefs (m.ctl key) + 1 ∧
      (∀ i, 16 ≤ i → (m1.ctl key).getLsbD i = (m.ctl key).getLsbD i) ∧
      (∀ a, (a < key + 8 ∨ key + 16 ≤ a) → Mem.get m1.mem a = Mem.get m.mem a) ∧
      m1 = { m with mem := m1.mem, cores := m1.cores } ∧ (c = hHome h → m1.cores = m.cores) ∧
      ∀ x, { m1.core x with forwards := [] } = { m.core x with forwards := [] }

/-- R417: START in the control context dispatches into the lowest free helper and frame, at once for an own closure and
after the reply of a remote home, for which the helper and the frame stay reserved; with a = 0 the arguments are zero.
Where the frame has moved, its new home acts in the same step, which is the model's reading (log 37). Where the spec
leaves a point of this open, it is the model's choice: log 44, 58, 71. -/
def Obligations.StartDispatches : Prop :=
  ∀ (s : State) (k : BitVec 3) (a : BitVec 5) (args : Args) (x i : Nat),
    let c := s.m.cur.core
    let h := s.m.k k
    s.m.canReadK k → s.m.readArgs a = .ok args → (a = 0 → args = { w1 := 0, w2 := 0, w3 := 0 }) ∧
    (s.m.cur.ctx ≠ 0 → exec (.start k a) s = .next (s.on (s.m.trapMe { cause := .privileged }))) ∧
    (s.m.cur.ctx = 0 → 29 < a.toNat → exec (.start k a) s = .next (s.on (s.m.trapMe { cause := .captureRange }))) ∧
    (s.m.cur.ctx = 0 → a.toNat ≤ 29 → s.m.inPart s.m.myPart (hHome h) = true → s.m.freeHelper c = some x → s.m.freeFrame c = some i →
      (∀ m1, hHome h = c → s.m.takeApp s.m.myPart h s.m.me.rt = .ok m1 → exec (.start k a) s =
        .next (s.on (((m1.takeFrame c i).startTask s.now c x ((m1.core c).frameAt i) { h := h, args := args }).done))) ∧
      (hHome h ≠ c → exec (.start k a) s =
        .next (s.on (((s.m.reserve c x i).request (hHome h) (.handle .take h s.m.me.rt)).await (.start h args x i))))) ∧
    (s.m.cur.ctx = 0 → a.toNat ≤ 29 → s.m.freeHelper c = none ∨ s.m.freeFrame c = none →
      exec (.start k a) s = .next (s.on (s.m.trapMe { cause := .helperExhausted })))

/-- R183, R405: a message takes a send-queue entry and leaves with its token empty, `.s` awaiting its status; with all
16 entries taken `.nt` writes 4 (BUSY) to its token and the other forms trap with SENDQ_FULL. -/
def Obligations.SendAndReply : Prop :=
  ∀ (s : State) (o : BitVec 2) (t a b : BitVec 5) (v : BitVec 4) (k : Nat) (plane : Bool),
    let desc := s.m.w a
    s.m.canReadW a → s.m.canReadW b → 1 ≤ descLen desc → descLen desc ≤ 64 → s.m.inPart s.m.myPart (descDest desc) = true →
    let send (m : Mach) (bytes : List Byte) : Mach :=
      let m1 := (m.late (m.lateW t) (.token false)).modCore m.cur.core (fun r => { r with sendq := r.sendq + 1 })
      let g : Msg := { src := m.cur.core, tag := descTag desc, chan := descChan desc, len := descLen desc,
                       payload := bytes.take (descLen desc), qtag := m.me.tag, rt := m.me.rt }
      let m2 := m1.inject { id := 0, src := m.cur.core, dst := descDest desc, reply := plane,
                            body := .message g m.nextId, core := m.cur.core, task := m.me.task, ctxs := [m.cur.ctx], pc := m.me.pc }
      if o = 2 then m2.await (.message m.nextId desc) else m2.done
    let out (m : Mach) (bytes : List Byte) : Mach :=
      if m.myCore.sendq < 16 then send m bytes
      else if o = 1 then (m.writeW t 4).done else s.m.trapMe { cause := .sendqFull }
    (∀ m0 mask val, s.m.vecReads none [v] 0 [a] = some (m0, mask, val) → m0.inPart m0.myPart (descDest desc) = true →
      exec (if plane then .reply o t a v else .send o t a v) s = .next (s.on (out m0 (toBytes 64 (val v).toNat)))) ∧
    (s.m.checkBuffer (s.m.w b) (descLen desc) = .ok k → (∀ w ∈ wordsOf k (descLen desc), w ∉ s.m.scratchBad) →
      exec (if plane then .replyBuf o t a b else .sendBuf o t a b) s =
        .next (s.on (out s.m (toBytes (descLen desc) (Mem.read s.m.mem k (descLen desc))))))

/-- R401, R190, R403, R192: POST empties the buffer's words and the token, takes the first overflow entry that matches
at once, and otherwise joins the list of posts; QCNT reads the free places of a channel. R358, R191: CHBIND binds a
handler-mode channel that holds no arrival, at once for an own closure and after the reply of a remote home; an
interjection binding (LEVEL = 1) at task privilege traps with PRIVILEGED. Where the frame has moved, its new home acts
in the same step, which is the model's reading (log 37). Where the spec leaves a point of this open, it is the model's
choice: log 7, 8, 45, 71. -/
def Obligations.ReceiveInstructions : Prop :=
  (∀ (s : State) (t a b d : BitVec 5) (ch : BitVec 3) (k : Nat),
     let c := s.m.cur.core
     let desc := s.m.w a
     let n := Post.chan desc
     (s.m.canReadW a → s.m.canReadW b → 1 ≤ descLen desc → descLen desc ≤ 64 →
       s.m.checkBuffer (s.m.w b) (descLen desc) = .ok k → (s.m.chan c n).mode = 2 → (s.m.chan c n).posts.length < 32 →
       let p : Post := { desc := desc, buf := k, token := s.m.nextId }
       let m1 := s.m.late (wordsOf k (descLen desc) ++ s.m.lateW t) (.token false)
       (∀ g rest, Post.rsv desc = false → takeOverflow desc (s.m.chan c n).overflow = some (g, rest) →
         exec (.post t a b) s = .next (s.on ((m1.modChan c n (fun q => { q with overflow := rest })).deliver p g).done)) ∧
       ((Post.rsv desc = true ∨ takeOverflow desc (s.m.chan c n).overflow = none) →
         exec (.post t a b) s = .next (s.on (m1.modChan c n (fun q => { q with posts := q.posts ++ [p] })).done))) ∧
     exec (.qcnt d ch) s = .next (s.on (s.m.writeW d (s.m.freeSlots c ch.toNat)).done)) ∧
  (∀ (s : State) (ch k pr : BitVec 3) (l : BitVec 1), s.m.canReadK k →
     let c := s.m.cur.core
     let h := s.m.k k
     (l = 1 → s.m.me.rt = false → exec (.chbind ch k l pr) s = .next (s.on (s.m.trapMe { cause := .privileged }))) ∧
     ((l = 0 ∨ s.m.me.rt = true) →
       (s.m.canBind c ch.toNat = false → exec (.chbind ch k l pr) s = .next (s.on (s.m.trapMe { cause := .channelBindConflict }))) ∧
       (s.m.canBind c ch.toNat = true → s.m.inPart s.m.myPart (hHome h) = false →
         exec (.chbind ch k l pr) s = .next (s.on (s.m.trapMe (handleTrap .partitionViolation h)))) ∧
       (s.m.canBind c ch.toNat = true → s.m.inPart s.m.myPart (hHome h) = true →
         (∀ e, hHome h = c → s.m.bindRef s.m.myPart h s.m.me.rt = .error e →
           exec (.chbind ch k l pr) s = .next (s.on (s.m.trapMe (handleTrap e h)))) ∧
         (∀ m1, hHome h = c → s.m.bindRef s.m.myPart h s.m.me.rt = .ok m1 →
           exec (.chbind ch k l pr) s = .next (s.on (m1.bindChan c ch.toNat h (l == 1) pr.toNat).done)) ∧
         (hHome h ≠ c → exec (.chbind ch k l pr) s =
           .next (s.on ((s.m.request (hHome h) (.handle .bind h s.m.me.rt)).await (.bind ch.toNat h (l == 1) pr.toNat)))))))

/-! ### Tasks, engines, registers and traps -/

/-- R342, R343, R354, R118, R119, R120, R63: AWAIT takes its application and asks the block's home slice to park it;
AWAITV does so lane by lane; with a late result of the task outstanding, one that would go on to its park waits instead,
as at a marker. BPROBE asks the slice and brings the answer late. The combined stores before a park request or a probe
are sent before it. An address whose walk meets bad data has an error reply: nothing is applied, and BPROBE brings zero
(R134, R144). An address that does not translate, a page that is not parkable and an application that fails trap before
any effect. Where the spec leaves a point of this open, it is the model's choice: log 7, 44, 71, 73. -/
def Obligations.AwaitingBlocks : Prop :=
  ∀ (s : State) (k : BitVec 3) (d a : BitVec 5) (v b : BitVec 4) (pa : Nat) (pte : Word) (m1 : Mach),
    let c := m1.cur.core
    let h := s.m.k k
    let p := (m1.partOf c).getD 0
    let l : ParkLane := (0, h, s.m.w a, m1.blockOf pa pte)
    let park (m : Mach) (task : Nat) (lane : Bool) (rest ls : List ParkLane) : State :=
      s.on (s.m.parksAfter ((m.drainAll c).done.takeNext c m.cur.ctx task m1.me.pc lane rest ls))
    (∀ t : Mach, s.m.parksAfter t = if t.me.parking = true ∧ s.m.outstanding s.m.cur.core s.m.me.task = true
      then s.m.stay .marker else t) ∧
    (∀ t, s.m.canReadW a → s.m.parkXlate (s.m.w a) = .error t →
      exec (.bprobe d a) s = .next (s.on (s.m.trapMe t)) ∧
      (s.m.canReadK k → exec (.await k a) s = .next (s.on (s.m.trapMe t)))) ∧
    (s.m.canReadW a → s.m.parkXlate (s.m.w a) = .ok (none, m1) →
      exec (.bprobe d a) s = .next (s.on (m1.late (m1.lateW d) (.value 0 0)).done) ∧
      (s.m.canReadK k → exec (.await k a) s = .next (s.on m1.done))) ∧
    (s.m.canReadW a → s.m.parkXlate (s.m.w a) = .ok (some (pa, pte), m1) →
      let t := s.on (s.m.trapMe { cause := .pageAttrConflict, bad := s.m.w a })
      (ptePk pte = false → exec (.bprobe d a) s = .next t ∧ (s.m.canReadK k → exec (.await k a) s = .next t)) ∧
      (ptePk pte = true →
        (let m2 := m1.drainAll c
         let q := m2.request (sliceEnd (m1.blockOf pa pte).2.2) (.probe (m1.blockOf pa pte).1 (m1.blockOf pa pte).2.1 m2.myPart)
         exec (.bprobe d a) s =
           .next (s.on (q.late (q.lateW d) (.parts { wait := [(0, 8, m2.nextId)], size := 8 })).done)) ∧
        (s.m.canReadK k →
          (m1.inPart p (hHome h) = false →
            exec (.await k a) s = .next (s.on (s.m.trapMe (handleTrap .partitionViolation h)))) ∧
          (m1.inPart p (hHome h) = true →
            (∀ m2, hHome h = c → m1.takeApp p h m1.me.rt = .ok m2 →
              exec (.await k a) s = .next (park m2 m2.me.task false [] [l])) ∧
            (∀ e, hHome h = c → m1.takeApp p h m1.me.rt = .error e →
              exec (.await k a) s = .next (s.on (s.m.trapMe (handleTrap e h)))) ∧
            (hHome h ≠ c → exec (.await k a) s = .next (park m1 m1.me.task false [l] [l])))))) ∧
    (∀ (m0 : Mach) (mask : BitVec 16) (val : BitVec 4 → V) (ls : List (ParkLane × Word)),
      s.m.vecReads none [v, b] k [a] = some (m0, mask, val) → m0.canReadW a →
      (∀ t, m0.xlateLanes (m0.w a) (val v) (val b) (activeLanes mask) = .error t →
        exec (.awaitv v a b k) s = .next (s.on (s.m.trapMe t))) ∧
      (m0.xlateLanes (m0.w a) (val v) (val b) (activeLanes mask) = .ok (ls, m1) →
        (mask = 0 → exec (.awaitv v a b k) s = .next (s.on m1.done)) ∧
        (∀ x, ls.find? (fun x => !ptePk x.2) = some x →
          exec (.awaitv v a b k) s = .next (s.on (s.m.trapMe { cause := .pageAttrConflict, bad := x.1.2.2.1 }))) ∧
        (mask ≠ 0 → ls.find? (fun x => !ptePk x.2) = none →
          (∀ t, m1.takeLanes c m1.me.rt true (ls.map (·.1)) = .error t →
            exec (.awaitv v a b k) s = .next (s.on (s.m.trapMe t))) ∧
          (∀ m2 rest, m1.takeLanes c m1.me.rt true (ls.map (·.1)) = .ok (m2, rest) →
            exec (.awaitv v a b k) s = .next (park m2 m2.me.task true rest (ls.map (·.1)))))))

/-- R369, R63, R104: END of a task frees its context, keeps every byte of memory, and releases the pool frame that WP
names (log 68), whose generation advances, unless the frame is pinned; the shadow workspace stays: an END of an
interjection releases no frame and advances no generation. In the control context END does nothing. Where the spec
leaves a point of this open, it is the model's choice: log 68. -/
def Obligations.TaskEnd : Prop :=
  ∀ (s : State),
    let c := s.m.cur.core
    let x := s.m.cur.ctx
    (x = 0 → exec .endTask s = .next (s.on s.m.done)) ∧
    (x ≠ 0 → ∃ u : State, exec .endTask s = .next u ∧ u = s.on u.m ∧ (u.m.ctx c x).live = false ∧ u.m.mem = s.m.mem ∧
      u.m.empties = s.m.empties ∧
      (∀ y, y < 16 → y ≠ x → u.m.ctx c y = s.m.ctx c y) ∧
      (∀ i, x ≠ 11 → s.m.myCore.frameNo s.m.me.wp = some i →
        (Table.get s.m.myCore.pins i 0 = 0 →
          Table.get (u.m.core c).gens i 0 = nextGen (Table.get s.m.myCore.gens i 0) ∧ (u.m.core c).used = eraseNat s.m.myCore.used i) ∧
        (Table.get s.m.myCore.pins i 0 ≠ 0 → (u.m.core c).gens = s.m.myCore.gens ∧ (u.m.core c).used = s.m.myCore.used)) ∧
      (x = 11 → (u.m.core c).gens = s.m.myCore.gens ∧ (u.m.core c).used = s.m.myCore.used))

/-- R344, R345, R85, R86, R87, R388, R73, R75: a team check that fails traps with BARRIER_TEAM_INVALID; BARA empties
w[d], drains the stores, waits for their acknowledgements and counts the arrival, giving the phase number; BARW goes on,
acquiring, once the phase is complete and waits before; a phase that every member has reached, or that is fenced,
advances. Where the spec leaves a point of this open, it is the model's choice: log 10, 42, 61. -/
def Obligations.BarriersAndWindows : Prop :=
  ∀ (s : State) (d a : BitVec 5) (cr : BitVec 3) (n : BitVec 6),
    let c := s.m.cur.core
    let bad := s.on (s.m.trapMe { cause := .barrierTeamInvalid })
    (s.m.cur.ctx = 11 → exec (.bara d cr) s = .next bad ∧ (s.m.canReadW a → exec (.barw a) s = .next bad) ∧
      exec (.maskw n) s = .next (s.on s.m.done)) ∧
    (s.m.cur.ctx ≠ 11 →
      (s.m.me.window = 0 → exec (.maskw n) s = .next (s.on (s.m.done.modMe (fun x => { x with window := n.toNat + 1 })))) ∧
      (s.m.me.window ≠ 0 → exec (.maskw n) s = .next (s.on (s.m.trapMe { cause := .maskWindowLimit }))) ∧
      (field s.m.myCore.teamid 0 16 = 0 → exec (.bara d cr) s = .next bad ∧ (s.m.canReadW a → exec (.barw a) s = .next bad)) ∧
      (∀ e, s.m.teamCheck = .error e → exec (.bara d cr) s = .next (s.on (s.m.trapMe e)) ∧
        (s.m.canReadW a → exec (.barw a) s = .next (s.on (s.m.trapMe e)))) ∧
      (∀ t tm ms, s.m.teamCheck = .ok (t, tm, ms) →
        (let m0 := s.m.emptyAll (s.m.lateW d)
         let m := (m0.drainAll c).settleOwn c
         (m.releasedAll c s.m.cur.ctx m0.me.task = false →
           exec (.bara d cr) s = .next (s.on (m.stay (.fence false true false)))) ∧
         (m.releasedAll c s.m.cur.ctx m0.me.task = true → exec (.bara d cr) s = .next (s.on (m.arriveTeam t tm d cr.toNat)))) ∧
        (s.m.canReadW a →
          let ahead := (tm.phase % 2 ^ 32 + 2 ^ 32 - field (s.m.w a) 0 32) % 2 ^ 32
          (ahead = 0 → (tm.arrived.any (fun x => x.1 == c)) = true → exec (.barw a) s = .next (s.on (s.m.stay (.barrier tm.phase)))) ∧
          ((ahead = 0 ∧ (tm.arrived.any (fun x => x.1 == c)) = false) ∨ 2 ^ 31 ≤ ahead → exec (.barw a) s = .next bad) ∧
          (0 < ahead → ahead < 2 ^ 31 →
            (s.m.acquiredAll c s.m.cur.ctx s.m.me.task = true → exec (.barw a) s = .next (s.on (s.m.acquire (teamScope ms)).done)) ∧
            (s.m.acquiredAll c s.m.cur.ctx s.m.me.task = false →
              exec (.barw a) s = .next (s.on (s.m.stay (.fence true false false)))))))) ∧
    (∀ p t tm g, Table.find (s.m.part p).teams t = some tm → s.m.groupOf p tm.group = some g →
      let all := g.members.all (fun c => s.m.isFenced c || tm.arrived.any (fun x => x.1 == c))
      let m := match carveAsked tm.arrived with | some v => s.m.carveTeam g.members v | none => s.m
      let q := splitNext tm.next []
      (all = false ∨ tm.arrived = [] → exec (.phaseComplete p t) s = .next (s.on s.m)) ∧
      (all = true → tm.arrived ≠ [] → exec (.phaseComplete p t) s =
        .next (s.on (q.1.foldl (fun m x => m.resolve x.2.2 (phaseWord (tm.phase + 1)))
          (m.modTeam p t (fun x => { x with phase := x.phase + 1, arrived := q.1.map (fun x => (x.1, x.2.1)), next := q.2 }))))))

/-- R391, R394, R232, R233: MLEASE of the holder completes at once and another's is queued, once the lease of a holder
for whom nobody waited has been renewed; MREL gives the lease up. R367, R370, R366: ECAN and ERES act on the ticket's
sequence, at its own core at once, after the core's stores; an ECAN of a sequence that has yet to stop waits. R360,
R230: CPY queues a sequence of its two records; R368, R229: EFORK one sequence for each list, where every check has
passed and each sequencer has room. Where the spec leaves a point of this open, it is the model's choice: log 45, 61,
62. -/
def Obligations.EngineCommands : Prop :=
  ∀ (s : State) (t a j c k : BitVec 5) (p q : BitVec 2),
    let core := s.m.cur.core
    let cl := clusterOf core
    ((s.m.cluster cl).holder = some core →
      exec (.mlease t) s = .next (s.on (s.m.writeW t 0).done) ∧
      exec .mrel s = .next (s.on (s.m.modCluster cl (fun x => { x with holder := none, leaving := some core })).done)) ∧
    ((s.m.cluster cl).holder ≠ some core →
      exec .mrel s = .next (s.on (s.m.trapMe { cause := .leaseNotHeld })) ∧
      ((s.m.cluster cl).fifo.any (fun e => e.1 == core) = false → exec (.mlease t) s =
        .next (s.on (((s.m.renewLease cl).late (s.m.lateW t) (.token false)).modCluster cl (fun x =>
          { x with fifo := x.fifo ++ [(core, [s.m.nextId])] })).done)) ∧
      ((s.m.cluster cl).fifo.any (fun e => e.1 == core) = true → exec (.mlease t) s =
        .next (s.on (((s.m.renewLease cl).late (s.m.lateW t) (.token false)).modCluster cl (fun x =>
          { x with fifo := x.fifo.map (fun e => if e.1 = core then (e.1, e.2 ++ [s.m.nextId]) else e) })).done))) ∧
    (s.m.me.rt = true → s.m.canReadW a → field (s.m.w a) 13 51 = 0 → s.m.inPart s.m.myPart ((s.m.w a).toNat % 1024) = true →
      let n := (s.m.w a).toNat
      (n % 1024 = core →
        (let m := (s.m.settleOwn core).cancelTicket n
         exec (.ecan a) s = .next (s.on (if m.cancelling n then m.await (.cancelled n) else m.done))) ∧
        exec (.eres a) s = .next (s.on ((s.m.settleOwn core).resumeTicket n).done)) ∧
      (n % 1024 ≠ core →
        exec (.ecan a) s = .next (s.on ((s.m.request (n % 1024) (.handle .cancel ((s.m.w a).setWidth 32) true)).await .counted)) ∧
        exec (.eres a) s = .next (s.on ((s.m.request (n % 1024) (.handle .restart ((s.m.w a).setWidth 32) true)).await .counted)))) ∧
    (∀ x y, s.m.readSh p = .ok x → s.m.readSh q = .ok y →
      let n := (s.m.joinWord core s.m.cur.ctx t.toNat 1).1
      let m := (s.m.joinWord core s.m.cur.ctx t.toNat 1).2
      (s.m.myCore.seqs.length < 4 → exec (.cpy t p q) s =
        .next (s.on (m.queueSeq m.cur.core m.cur.ctx false m.me.pc none (x ++ y) n s.m.nextId).done)) ∧
      (4 ≤ s.m.myCore.seqs.length → exec (.cpy t p q) s = .next (s.on (s.m.stay (.seqSlot true false false))))) ∧
    (∀ hs, s.m.canReadW c → s.m.canReadW k → s.m.checkList core false (s.m.w c) = .ok hs →
      (s.m.forkFrom core s.m.me.rt false (s.m.w k) hs = .ok .ready →
        (s.m.w k ≠ 0 → (s.m.cluster cl).holder ≠ some core →
          exec (.efork j c k) s = .next (s.on (s.m.trapMe { cause := .leaseNotHeld }))) ∧
        (s.m.w k = 0 ∨ (s.m.cluster cl).holder = some core →
          (s.m.forkRoom core (s.m.w c) (s.m.w k) = true → exec (.efork j c k) s =
            .next (s.on (s.m.fork core s.m.cur.ctx s.m.me.pc j.toNat (s.m.w c) (s.m.w k)).done)) ∧
          (s.m.forkRoom core (s.m.w c) (s.m.w k) = false → exec (.efork j c k) s =
            .next (s.on (s.m.stay (.seqSlot (s.m.w c != 0) (s.m.w k != 0) false)))))) ∧
      (∀ z h rest, s.m.forkFrom core s.m.me.rt false (s.m.w k) hs = .ok (.ask z (h :: rest)) → exec (.efork j c k) s =
        .next (s.on ((s.m.request (hHome h) (.handle .peek h false)).await
          (.efork (j.toNat + if z then 32 else 0) (s.m.w c) (s.m.w k) (h :: rest))))))

/-- R361, R362, R25, R24: CSRD writes the register's value to w[d], CSWR takes the word in w[a] to the register; each
row of a register's write is that write; a register that runtime privilege guards traps with PRIVILEGED at task
privilege. R209, R213, R211, R198, R26, R65, R238, R81, R85, R362: what a write of each register that places nothing
takes and refuses. A write of TEAMID is accepted whatever it holds; the team that it may configure is the model's (log
10). R27, R28, R29, R30, R93, R363, R185, R111, R6, R275: what a write of each register that places a region, a bank, a
channel or a pool takes and refuses. `ok` is the condition of R30 on the two regions of a core, `idle` that on the time.
Where the spec leaves a point of this open, it is the model's choice: log 4, 9, 37. -/
def Obligations.SystemRegisters : Prop :=
  (∀ (s : State) (d a : BitVec 5) (n : BitVec 12) (ch : BitVec 3) (b : BitVec 6) (i : Instr) (x : Nat),
     let denied := s.on (s.m.trapMe { cause := .privileged, bad := some (s.m.cur.word.setWidth 64) })
     (n ≠ 0x034 → (csrRuntime n.toNat && !s.m.me.rt) = false → exec (.csrd d n) s = .next (s.on (s.m.writeW d (s.m.csr n.toNat)).done)) ∧
     (n ≠ 0x034 → (csrRuntime n.toNat && !s.m.me.rt) = true → exec (.csrd d n) s = .next denied) ∧
     (Table.find s.power.dutyWas s.m.cur.core = none →
       exec (.csrd d 0x034) s = .next (s.on (s.m.writeW d (BitVec.ofNat 64 (s.power.dutyOf s.m.cur.core))).done)) ∧
     (s.m.csr 0x001 = s.m.me.pc ∧ s.m.csr 0x002 = s.m.me.cause ∧ s.m.csr 0x003 = s.m.me.badaddr ∧ s.m.csr 0x005 = s.m.me.trappc ∧
       s.m.csr 0x010 = s.m.me.fpmode ∧ s.m.csr 0x020 = BitVec.ofNat 64 s.m.myCore.cycles ∧
       s.m.csr 0x022 = BitVec.ofNat 64 s.m.cur.core ∧ s.m.csr 0x031 = s.m.myCore.envcfg) ∧
     ((i, x) ∈ [((.cswr a n : Instr), n.toNat), (.carveWrite a, 0x030), (.bankfmtWrite a b, 0x100 + b.toNat), (.envcfgWrite a, 0x031),
         (.wspoolWrite a, 0x032), (.chcfgWrite a ch, 0x040 + ch.toNat), (.fpmodeWrite a, 0x010), (.fpflagsWrite a, 0x011),
         (.foldstatWrite a, 0x013), (.stealdomWrite a, 0x024), (.brcfgWrite a, 0x800), (.partcfgWrite a, 0x802)] ∨
       (i, x) = (.wpWrite a, 0) ∧ s.m.outstanding s.m.cur.core s.m.me.task = false →
       (((csrRuntime x || x == 0) && !s.m.me.rt) = true → exec i s = .next denied) ∧
       (((csrRuntime x || x == 0) && !s.m.me.rt) = false → s.m.canReadW a →
         (∀ m', s.m.writeCsr x (s.m.w a) = .ok m' → exec i s = .next (s.on m'.done)) ∧
         (∀ t, s.m.writeCsr x (s.m.w a) = .error t → exec i s = .next (s.on (s.m.trapMe t))))) ∧
     (s.m.outstanding s.m.cur.core s.m.me.task = true → exec (.wpWrite a) s = .next (s.on (s.m.stay .marker)))) ∧
  (∀ (m : Mach) (v : Word),
     let c := m.cur.core
     let bad (e : Cause) : Res Mach := .error { cause := e }
     let low := v &&& 0xFFFFFFFF
     m.writeCsr 0x005 v = .ok (m.modMe (fun x => { x with trappc := v })) ∧
     (4 < field v 0 3 ∨ field v 8 2 = 3 → m.writeCsr 0x010 v = bad .reservedField) ∧
     (field v 0 3 ≤ 4 → field v 8 2 ≠ 3 → m.writeCsr 0x010 v = .ok (m.modMe (fun x => { x with
       fpmode := v &&& 0xFFFFFFFF0000030F, gen := seedGen (v &&& 0xFFFFFFFF0000030F) c m.cur.ctx m.now }))) ∧
     m.writeCsr 0x011 v = .ok (m.modMe (fun x => { x with fpflags := x.fpflags &&& ~~~(v.setWidth 5) })) ∧
     m.writeCsr 0x012 v = .ok (m.modMe (fun x => { x with policy := low })) ∧
     m.writeCsr 0x013 v = .ok (m.modMe (fun x => { x with foldstat := x.foldstat &&& ~~~v })) ∧
     m.writeCsr 0x014 v = .ok (m.modCore c (fun r => { r with tasklim := low })) ∧
     m.writeCsr 0x033 v = .ok (m.modCore c (fun r => { r with mxgate := low })) ∧
     (field v 0 3 < 5 → m.writeCsr 0x024 v = .ok (m.modCore c (fun r => { r with stealdom := field v 0 3 }))) ∧
     (5 ≤ field v 0 3 → m.writeCsr 0x024 v = bad .stealDomainInvalid) ∧
     (∃ m', m.writeCsr 0x023 v = .ok m' ∧ m'.core c = { m.core c with teamid := low } ∧
       (∀ d, d ≠ c → m'.core d = m.core d) ∧ m' = { m with cores := m'.cores, parts := m'.parts }) ∧
     (∀ n, n ∈ [1, 2, 3, 4, 0x020, 0x021, 0x022, 0x034, 0x050, 0x801] → m.writeCsr n v = .ok m)) ∧
  (∀ (m : Mach) (v : Word) (b : Nat),
     let c := m.cur.core
     let r := m.core c
     let bad (e : Cause) : Res Mach := .error { cause := e }
     let pool (r : Core) : Nat := field r.wspool 0 21
     let frames (r : Core) : Nat := field r.wspool 32 16
     let store (r : Core) : Nat := field r.envcfg 0 21
     let stored (r : Core) : Nat := 96 * field r.envcfg 32 16
     let inside (r : Core) : Prop := pool r + 2048 * frames r ≤ r.scratchSize ∧ store r + stored r ≤ r.scratchSize
     let touches (b base n : Nat) : Prop := base < 32768 * (b + 1) ∧ 32768 * b < base + n
     let holds (r : Core) (b : Nat) : Prop := touches b (pool r) (2048 * frames r) ∨ touches b (store r) (stored r)
     let ok (r : Core) : Prop := inside r ∧ (∀ b, b < 64 → holds r b → r.bankfmt.getD b 0 = 0) ∧
       (pool r + 2048 * frames r ≤ store r ∨ store r + stored r ≤ pool r)
     let idle : Prop := (∀ x, 1 ≤ x → x ≤ 10 → (m.ctx c x).live = false) ∧ ∀ i, i < field r.envcfg 32 16 →
       ctlRefs (m.ctl (m.envKey c i)) = 0 ∧ ctlFlight (m.ctl (m.envKey c i)) = 0
     let frame (r : Core) (w : Nat) : Prop := ∃ i, i < frames r ∧ w = pool r + 2048 * i
     let kept := v &&& 0x0000FFFF001FFFFF
     (¬ frame r v.toNat → m.writeCsr 0 v = bad .workspaceBounds) ∧
     (∀ i, i < frames r → v.toNat = pool r + 2048 * i →
       let taken : Prop := m.cur.ctx = 0 ∧ ((v.toNat ≠ m.me.wp ∧ m.frameLive c i = true) ∨ i + 1 = frames r)
       (taken → m.writeCsr 0 v = bad .workspaceBounds) ∧
       (¬ taken → m.writeCsr 0 v = .ok (m.modMe (fun x => { x with wp := v.toNat })))) ∧
     (let n := field v 0 3
      let big : Core := { r with carve := n }
      (n < 2 ∨ 6 < n → m.writeCsr 0x030 v = bad .reservedField) ∧
      (2 ≤ n → n ≤ 6 → field r.teamid 0 16 ≠ 0 → m.writeCsr 0x030 v = bad .barrierTeamInvalid) ∧
      (2 ≤ n → n ≤ 6 → field r.teamid 0 16 = 0 →
        (¬ inside big → m.writeCsr 0x030 v = bad .workspaceBounds) ∧
        (inside big → ∃ m', m.writeCsr 0x030 v = .ok m' ∧ (m'.core c).carve = n ∧
          (∀ b, b < 64 → (m'.core c).bankfmt.getD b 0 =
            if r.scratchSize ≤ 32768 * b ∧ 32768 * b < big.scratchSize then 0 else r.bankfmt.getD b 0) ∧
          ∀ off, big.scratchSize ≤ off → off < r.scratchSize →
            Mem.get m'.mem (scratchKey c off) = 0 ∧ m'.full (scratchKey c off) = true))) ∧
     (field v 32 16 = 0 ∨ 16384 < field v 32 16 ∨ field v 0 12 ≠ 0 → m.writeCsr 0x031 v = bad .reservedField) ∧
     (1 ≤ field v 32 16 → field v 32 16 ≤ 16384 → field v 0 12 = 0 →
       (¬ idle → m.writeCsr 0x031 v = bad .helperExhausted) ∧
       (idle → ¬ ok { r with envcfg := kept } → m.writeCsr 0x031 v = bad .workspaceBounds) ∧
       (idle → ok { r with envcfg := kept } → m.writeCsr 0x031 v = .ok (m.modCore c (fun r => { r with envcfg := kept })))) ∧
     (field v 32 16 < 3 ∨ 1024 < field v 32 16 ∨ field v 0 11 ≠ 0 → m.writeCsr 0x032 v = bad .reservedField) ∧
     (3 ≤ field v 32 16 → field v 32 16 ≤ 1024 → field v 0 11 = 0 →
       let q : Core := { r with wspool := kept }
       (¬ idle → m.writeCsr 0x032 v = bad .helperExhausted) ∧
       (idle → ¬ (ok q ∧ frame q (m.ctx c 0).wp) → m.writeCsr 0x032 v = bad .workspaceBounds) ∧
       (idle → ok q → frame q (m.ctx c 0).wp → m.writeCsr 0x032 v = .ok (m.modCore c (fun r => { r with wspool := kept })))) ∧
     (b < 8 →
       let k := m.chan c b
       let mode := field v 0 2
       let clash : Prop := k.mode ≠ 0 ∧ k.mode ≠ mode ∨ field v 4 4 + 1 < m.chanHeld c b
       (mode = 3 → m.writeCsr (0x040 + b) v = bad .reservedField) ∧
       (mode = 0 → m.writeCsr (0x040 + b) v = .ok (m.disableChan c b v)) ∧
       (mode = 1 ∨ mode = 2 → clash → m.writeCsr (0x040 + b) v = bad .channelBindConflict) ∧
       (mode = 1 ∨ mode = 2 → ¬ clash → m.writeCsr (0x040 + b) v =
         .ok (m.modChan c b (fun k => { k with cfg := (v &&& 0x78F3) ||| (k.cfg &&& 0x8000) })))) ∧
     (b < 64 →
       let f := field v 0 5
       let mismatch : Prop := f ≠ 0 ∧ (holds r b ∨ r.scratchSize ≤ 32768 * b)
       (0x10 < f → m.writeCsr (0x100 + b) v = bad .reservedField) ∧
       (f ≤ 0x10 → mismatch → m.writeCsr (0x100 + b) v = bad .bankFormatMismatch) ∧
       (f ≤ 0x10 → ¬ mismatch → m.writeCsr (0x100 + b) v = .ok (m.modCore c (fun r => { r with bankfmt := r.bankfmt.set b f })))) ∧
     (let p := m.myPart
      let d := dieOfCore c
      let old := (m.diePart d p).brcfg
      let expert : Word := if (m.part p).expert then 0 else 0xFFF0000F00000000
      let fits : Prop := field v 0 9 ≤ 320 ∧ m.poolOthers d p + field v 0 9 ≤ 320
      (¬ fits → m.writeCsr 0x800 v = bad .reservedField) ∧
      (fits → ∃ m', m.writeCsr 0x800 v = .ok m' ∧
        (m'.diePart d p).brcfg = (v &&& 0xFFFFFFFFFFFF01FF &&& ~~~expert) ||| (old &&& expert) ∧
        m' = { m with slices := m'.slices, dieParts := m'.dieParts }) ∧
      ((m.part p).expert = false → m.writeCsr 0x802 v = .ok m) ∧
      ((m.part p).expert = true → 7 < field v 40 4 → m.writeCsr 0x802 v = bad .reservedField) ∧
      ((m.part p).expert = true → field v 40 4 ≤ 7 → ∃ m', m.writeCsr 0x802 v = .ok m' ∧
        (m'.diePart d p).e2e = field v 40 4 ∧
        m' = { m with slices := m'.slices, dies := m'.dies, dieParts := m'.dieParts })))

/-- R248: trap entry writes TRAPPC, CAUSE, BADADDR and BRSRC and the five words of the trap frame, closes the window,
raises the privilege and goes to the partition's runtime entry; the words written are good again (R137), and every other
byte, context and core stays. Where the spec leaves a point of this open, it is the model's choice: log 7. -/
def Obligations.TrapEntry : Prop :=
  ∀ (m : Mach) (c x : Nat) (t : Trap) (pc bad : Word), t.bad = some bad →
    let v := m.ctx c x
    let f := scratchKey c (v.wp + 1776)
    let u := m.enterTrap c x t pc
    let status := (if v.rt then 1 else 0) + 2 * v.window + 256 * (if x = 11 then 1 else 0)
    (u.ctx c x).trappc = pc ∧ (u.ctx c x).cause = BitVec.ofNat 64 t.cause.code ∧ (u.ctx c x).badaddr = bad ∧
    (u.ctx c x).brsrc = t.brsrc ∧ (u.ctx c x).window = 0 ∧ (u.ctx c x).rt = true ∧ (u.ctx c x).wait = .none ∧
    (u.ctx c x).pc = BitVec.ofNat 64 (u.pcb ((m.partOf c).getD 0) 16) ∧ (u.ctx c x).wp = v.wp ∧
    Mem.read u.mem f 8 = pc.toNat ∧ Mem.read u.mem (f + 8) 8 = t.cause.code % 2 ^ 64 ∧ Mem.read u.mem (f + 16) 8 = bad.toNat ∧
    Mem.read u.mem (f + 24) 8 = t.brsrc.toNat ∧ Mem.read u.mem (f + 32) 8 = status % 2 ^ 64 ∧
    (∀ a, (a < f ∨ f + 40 ≤ a) → Mem.get u.mem a = Mem.get m.mem a) ∧
    (∀ d y, 16 * d + y ≠ 16 * c + x → u.ctx d y = m.ctx d y) ∧
    (∀ k, u.scratchBad.contains k = (m.scratchBad.contains k && !(decide (f ≤ k) && decide (k < f + 40)))) ∧
    u = { m with mem := u.mem, ctxs := u.ctxs, scratchBad := u.scratchBad }

/-- R422, R250, R331, R66, R385: what raises a trap by its own effect enters the runtime at once, with the cause and
address of its rule. Where the spec leaves a point of this open, it is the model's choice: log 7, 15, 66. -/
def Obligations.TrapInstructions : Prop :=
  ∀ (s : State) (code : BitVec 16) (cause : Cause) (addr : Word) (w : BitVec 32) (core x : Nat),
    let c := s.m.cur.core
    let enter (t : Trap) : State := s.on (s.m.lastHere.enterTrap c s.m.cur.ctx t s.m.me.pc)
    exec (.trap code) s = .next (enter { cause := .trapInstruction, bad := some (code.setWidth 64) }) ∧
    exec (.trapBrk code) s = .next (enter { cause := .breakpoint, bad := some (code.setWidth 64) }) ∧
    (recoverable cause = false ∨ s.m.cur.ctx = 0 ∨ 10 < s.m.cur.ctx →
      exec (.fetchFault cause addr) s = .next (s.on (s.m.enterTrap c s.m.cur.ctx
        { cause := cause, bad := some addr, brsrc := s.m.me.last } s.m.me.pc))) ∧
    (recoverable cause = true → 0 < s.m.cur.ctx → s.m.cur.ctx < 11 → s.m.myCore.holds.length + s.m.myCore.resumed.length < 16 →
      exec (.fetchFault cause addr) s = .next (s.on (s.m.hold c s.m.cur.ctx
        { cause := cause, bad := some addr, brsrc := s.m.me.last } s.m.me.pc))) ∧
    (∀ e, decode w = .error e → exec (.illegalEncoding w) s =
      .next (enter { cause := refusedCause w s.m.me.rt, bad := some (w.setWidth 64) })) ∧
    (let v := s.m.ctx core x
     let told := s.m.modCtx core x (fun v => { v with overran := true, deferred := false })
     s.m.overrunDue core x = true →
      ((v.wait = .none ∨ v.wait = .marker ∨ ∃ p, v.wait = .barrier p) → (v.rt && v.trapped) = false →
        exec (.taskOverrun core x) s = .next (s.on (told.enterTrap core x { cause := .taskOverrun } v.pc))) ∧
      (∀ id m, v.wait = .sync id → told.withdraw id = (true, m) →
        exec (.taskOverrun core x) s = .next (s.on (m.enterTrap core x { cause := .syncLoadTimeout } v.last))) ∧
      ((∃ pc k, v.wait = .reply pc k) → exec (.taskOverrun core x) s =
        .next (s.on (s.m.modCtx core x (fun v => { v with deferred := true })))) ∧
      (v.deferred = true → (∀ pc k, v.wait ≠ .reply pc k) → (v.rt && v.trapped) = false →
        exec (.deferredTaskOverrun core x) s = .next (s.on (told.enterTrap core x { cause := .taskOverrun } v.pc))))

/-- R249: RTE carries an implicit switch marker; at task privilege it raises PRIVILEGED. At runtime privilege it goes to
TRAPPC at the saved privilege and opens a masked window of the saved count if that is not 0; a saved status outside its
range traps with RESERVED_FIELD, and (R137) an uncorrectable one with SCRATCH_UNCORRECTABLE. Where the spec leaves a
point of this open, it is the model's choice: log 7. -/
def Obligations.TrapReturn : Prop :=
  implicitMarker .rte = true ∧ ∀ (s : State),
    (s.m.me.rt = false → exec .rte s = .next (s.on (s.m.lastHere.enterTrap s.m.cur.core s.m.cur.ctx
      { cause := .privileged, bad := some (s.m.cur.word.setWidth 64) } s.m.me.pc))) ∧
    (s.m.me.rt = true →
    let k := scratchKey s.m.cur.core (s.m.me.wp + 1808)
    let st := s.m.word k
    (k ∈ s.m.scratchBad → exec .rte s = .next (s.on (s.m.trapMe { cause := .scratchUncorrectable, bad := lwOf k }))) ∧
    (k ∉ s.m.scratchBad → 64 < field st 1 7 ∨ field st 9 55 ≠ 0 → exec .rte s = .next (s.on (s.m.trapMe { cause := .reservedField }))) ∧
    (k ∉ s.m.scratchBad → field st 1 7 ≤ 64 → field st 9 55 = 0 → ∃ u : State, exec .rte s = .next u ∧ u = s.on u.m ∧ u.m.me.pc = s.m.me.trappc ∧
      u.m.me.rt = st.getLsbD 0 ∧ (0 < field st 1 7 → u.m.me.window = field st 1 7) ∧ u.m.me.trappc = s.m.me.trappc ∧
      u.m.me.cause = s.m.me.cause ∧ u.m.mem = s.m.mem ∧ u.m = { s.m with ctxs := u.m.ctxs } ∧
      ∀ c x, 16 * c + x ≠ 16 * s.m.cur.core + s.m.cur.ctx → u.m.ctx c x = s.m.ctx c x))

/-- R249, R258, R367, R370, R378, R406, R421: the instructions of the runtime trap with PRIVILEGED at task privilege,
the word of the instruction in BADADDR, and change nothing else. R378, R254, R406, R253, R421, R390, R258: at runtime
privilege FQPOP takes the oldest entry of the die's queue, or zeros, late; RESUME readies or kills the held task of its
ticket; TLBINV sends an invalidation to every unit of the partition and waits for their acknowledgements; MIGR checks
its task control block and starts a migration. Where the spec leaves a point of this open, it is the model's choice: log
7, 21, 41, 55. -/
def Obligations.RuntimeInstructions : Prop :=
  (∀ (s : State) (t a : BitVec 5) (v : BitVec 4) (i : Instr), s.m.me.rt = false →
     i ∈ [.rte, .fqpop v, .resume a, .tlbinv a, .tlbinvAll a, .migr t a, .ecan a, .eres a] →
     exec i s = .next (s.on (s.m.lastHere.enterTrap s.m.cur.core s.m.cur.ctx
       { cause := .privileged, bad := some (s.m.cur.word.setWidth 64) } s.m.me.pc))) ∧
  (∀ (s : State) (t a : BitVec 5) (v : BitVec 4), s.m.me.rt = true →
     let c := s.m.cur.core
     let d := dieOfCore c
     let p := s.m.myPart
     let sent (va : Option Nat) : Mach := ({ s.m.fresh with invals := s.m.invals ++
       [{ id := s.m.nextId, core := c, task := s.m.me.task, va := va, todo := s.m.invalUnits p }] } : Mach).await (.inval s.m.nextId)
     (s.m.portsReady (some v) [] →
       ((s.m.diePart d p).fq = [] → exec (.fqpop v) s = .next (s.on (s.m.lateV v (.value 0 0)).done)) ∧
       (∀ n e rest, (s.m.diePart d p).fq = (n, e) :: rest →
         let m := (s.m.modDiePart d p (fun q => { q with fq := rest })).lateV v (.value (e.image n) 0)
         exec (.fqpop v) s = .next (s.on ({ m with
           pends := m.pends.map (fun q => if q.id = s.m.nextId then { q with entry := true } else q) } : Mach).done))) ∧
     (s.m.canReadW a →
       (field (s.m.w a) 17 47 ≠ 0 → exec (.resume a) s = .next (s.on (s.m.trapMe { cause := .reservedField }))) ∧
       (field (s.m.w a) 17 47 = 0 →
         let n := field (s.m.w a) 0 16
         (s.m.holder d p n = none → exec (.resume a) s = .next (s.on s.m.done)) ∧
         (∀ x, s.m.holder d p n = some x →
           ((s.m.w a).getLsbD 16 = true → exec (.resume a) s = .next (s.on (s.m.killHolds x (fun h => h.ticket == n)).done)) ∧
           ((s.m.w a).getLsbD 16 = false → exec (.resume a) s =
             .next (s.on (s.m.modCore x (fun r => { r with holds := r.holds.filter (fun h => !(h.ticket == n)),
                                                           resumed := r.resumed ++ r.holds.filter (fun h => h.ticket == n) })).done)))) ∧
       (isGv (s.m.w a) = true → exec (.tlbinv a) s = .next (s.on (sent (some (s.m.w a).toNat)))) ∧
       (isGv (s.m.w a) = false → exec (.tlbinv a) s = .next (s.on (s.m.trapMe { cause := .addressClass, bad := some (s.m.w a) }))) ∧
       (∀ e, s.m.readTcb (s.m.w a) = .error e → exec (.migr t a) s = .next (s.on (s.m.trapMe e))) ∧
       (∀ ws, s.m.readTcb (s.m.w a) = .ok ws →
         (∀ e, s.m.migrCause c ws = some e → exec (.migr t a) s = .next (s.on (s.m.trapMe { cause := e }))) ∧
         (s.m.migrCause c ws = none → exec (.migr t a) s =
           .next (s.on ((s.m.late (s.m.lateW t) (.token false)).modCore c (fun r => { r with migrations := r.migrations ++
             [{ fwd := tcbForward ws s.m.now, team := (ws.getD 0 0).getLsbD 24, token := s.m.nextId }] })).done)))) ∧
     exec (.tlbinvAll a) s = .next (s.on (sent none)))

/-- R384, R195, R199, R419, R197: LDG asks the group's root for a fold, read at each member; once every member is read
the root answers with the result, and when the answer has come it is written, absent and partial members counted; STG
stores to each member, to the issuing core's own window at once and to the others by packets; a fold with no result
after 100 µs gives zero and an entry. A fold address that a check of R195 refuses traps. Where the spec leaves a point
of this open, it is the model's choice: log 3, 8, 39, 61, 74. -/
def Obligations.Folds : Prop :=
  ∀ (s : State) (v : BitVec 4) (a : BitVec 5) (o : BitVec 4) (t : BitVec 1) (g : Group),
    let fa := s.m.w a
    (s.m.canReadW a → s.m.portsReady (some v) [] →
      (∀ e, s.m.foldCheck fa (decide (10 ≤ o.toNat)) = .error e → exec (.ldg v a o t) s = .next (s.on (s.m.trapMe e))) ∧
      (s.m.foldCheck fa (decide (10 ≤ o.toNat)) = .ok g →
        let m := s.m.lateV v (.token true)
        let f : Fold := { id := m.nextId, pend := s.m.nextId, core := m.cur.core, task := m.me.task, part := m.myPart,
                          group := field fa 24 6, op := o.toNat, fa := fa, since := s.now, unread := g.members, got := [],
                          packet := m.nextId + 1 }
        let m1 := m.fresh.request g.root (.fold m.nextId)
        let m2 : Mach := { m1 with folds := m1.folds ++ [f] }
        exec (.ldg v a o t) s = .next (s.on (if t = 1 then m2.await (.fold s.m.nextId fa) else m2.done)))) ∧
    (∀ (m0 : Mach) (mask : BitVec 16) (val : BitVec 4 → V), s.m.vecReads none [v] 0 [a] = some (m0, mask, val) →
      m0.canReadW a →
      let fa := m0.w a
      (∀ e, m0.foldCheck fa false = .error e → exec (.stg v a) s = .next (s.on (s.m.trapMe e))) ∧
      (m0.foldCheck fa false = .ok g →
        let own := m0.cur.core
        let here := g.members.filter (fun c => !m0.isFenced c && c != own)
        let mine := g.members.contains own && !m0.isFenced own
        let outside := decide (m0.scratchSize own ≤ offOf fa)
        let m1 := if mine && !outside then (m0.settleOwn own).storeScratch (bytesAt (scratchKey own (offOf fa)) 64 (val v).toNat)
          else m0
        let m := here.foldl (fun m c => m.request c
          (.mem (.foldStore (bytesAt (scratchKey c (offOf fa)) 64 (val v).toNat)) (scratchKey c (offOf fa)) fa false)) m1
        let f : FoldStore := { id := m.nextId, core := m.cur.core, ctx := m.cur.ctx, task := m.me.task,
                               unacked := (List.range here.length).map (m1.nextId + ·),
                               absent := g.members.filter (fun c => m0.isFenced c), part := if mine && outside then [own] else [] }
        exec (.stg v a) s = .next (s.on (m.fresh.settleStg f).done))) ∧
    (∀ (id : Nat) (f : Fold), s.m.folds.find? (fun f => f.id == id) = some f →
      (∀ g p, s.m.groupOf f.part f.group = some g → s.m.packet f.packet = some p → f.unread = [] → p.phase = .done →
        (∀ r ∈ s.m.packets, r.answers ≠ p.id) →
        s.m.foldAnswer id = (s.m.modPacket p.id (fun q => { q with noticed := false })).answer p
          (.folded (f.result g).1 (f.result g).2)) ∧
      (∀ x fl, s.m.foldReply f = some (x, fl) → s.m.foldFree f = true →
        let m := s.m.modTask f.core f.task (fun x => { x with foldstat := foldCount x.foldstat f.absents f.partials })
        exec (.foldResult id) s = .next (s.on (m.foldDone f x fl
          (if f.partials ≠ [] then some .foldPartialFault else if f.absents ≠ [] then some .foldIncomplete else none)))) ∧
      (f.since + 100000 ≤ s.m.now → s.m.foldFree f = true → exec (.foldTreeTimeout id) s =
        (let p := s.m.packet f.packet
         let entry : FqEntry :=
           { cause := Cause.foldTreeTimeout.code, core := some f.core, bad := some f.fa, ctx := p.bind (·.ctxs.head?),
             pc := p.map (·.pc) }
         .next (s.on ((s.m.postAt f.core entry).foldDone f 0 0 (some .foldTreeTimeout))))))

/-! ### Engines, launches and dispatch as they run -/

/-- R229, R231, R239, R330, R341, R371, R439, R440: a command's record is read once, when every write of the command
before it is performed. A copy command makes its checks at its start, stopping its sequence at the first that fails,
completes at once where an extent is 0, and otherwise moves its elements in order until a halt; a read or write of
another home is sent and awaited, and the reads that can be made meanwhile are sent too (log 62); it ends when its
writes are performed. A copy of CPY is one of its own two records. ESIG arrives, then applies, then is done, a cancelled
matrix sequence ending with it; the end record frees the slot and counts the join word down, or stops the sequence where
that word is uncorrectable (R137). Where the spec leaves a point of this open, it is the model's choice: log 27, 37, 45,
46, 62. -/
def Obligations.CopyAndSignal : Prop :=
  ∀ (s : State) (c n op : Nat) (mtx : Bool) (q : Seq) (r : Nat) (p : Copy) (i : Instr),
    let m := s.m
    let reached (mtx : Bool) (op : Nat) : Prop := m.headSeq mtx c = some q ∧ cmdOp r = op ∧
      (q.cmd = some r ∨ q.cmd = none ∧ m.seqQuiet q.id = true ∧ m.cmdOf mtx q = .ok r)
    ((op, i) ∈ [(1, (.xcpy c n : Instr)), (2, .xgath c n)] → reached false op →
      (q.started = false →
        (∀ h, m.copyStart q r = .error h → exec i s = .next (s.on (m.haltCmd false c q h))) ∧
        (m.copyStart q r = .ok none → exec i s = .next (s.on (m.cmdDone false c))) ∧
        (m.copyStart q r = .ok (some p) →
          let q1 := { q with started := true, cmd := some r, recs := shapeWords p.src ++ shapeWords p.dst }
          exec i s = .next (s.on ((m.modHead false c (fun _ => q1)).copyOn c n q1 p)))) ∧
      (q.started = true →
        exec i s = .next (s.on (m.copyOn c n q (copyPlan r (recOf (q.recs.take 6)) (recOf (q.recs.drop 6))))))) ∧
    (∀ (m : Mach) (run : Run),
      let runs (w : Agent) : Run := if p.blocks then m.copyBlocks w p q.rm q.sat q.done q.gen q.index
                                    else m.copyRuns w p q.rm q.sat n q.done q.gen q.index
      (p.count ≤ q.done → m.seqQuiet q.id = true → m.copyOn c n q p = m.cmdDone false c) ∧
      (p.count ≤ q.done → m.seqQuiet q.id = false → m.copyOn c n q p = m) ∧
      (q.done < p.count → run = runs q.agent →
        let m1 := run.m.modHead false c (fun x => { x with done := run.done, gen := run.gen, index := run.index,
                                                           reads := x.reads.filter (fun r => decide (run.done ≤ r.elem)) })
        (∀ e bad found, run.halt = some (.stop e bad found) →
          (m1.seqQuiet q.id = true → m.copyOn c n q p = m1.stopSeq false c q e bad found (recIndices p.dst run.done)) ∧
          (m1.seqQuiet q.id = false → m.copyOn c n q p = m1)) ∧
        (∀ a, run.halt = some (.ask a) → m.copyOn c n q p = m1.sendAsk false c q a) ∧
        (run.halt = some .wait →
          (∀ a, (runs q.assumed.agent).halt.bind Halt.read = some a → m.copyOn c n q p = m1.sendAsk false c q a) ∧
          ((runs q.assumed.agent).halt.bind Halt.read = none → m.copyOn c n q p = m1)) ∧
        (run.halt = none → m.copyOn c n q p = m1))) ∧
    (reached mtx 0 →
      (q.join ∉ m.scratchBad → exec (.sequenceEnd mtx c) s =
        .next (s.on ((m.setSeqs mtx c ((m.unitSeqs mtx c).drop 1)).joinArrive q))) ∧
      (q.join ∈ m.scratchBad → exec (.sequenceEnd mtx c) s = .next (s.on (m.stopSeq mtx c q .engineDataError
        (some (lwOf q.join)) Cause.scratchUncorrectable.code [])))) ∧
    (reached mtx 0x20 →
      let out (m : Mach) : State := s.on (if mtx then m.endCancelled c else m)
      let stepped (m : Mach) (k : Nat) : State := out ((m.begun mtx c r).modHead mtx c (fun x => { x with done := k }))
      let join : Eng Mach := if r.testBit 8 then m.signalJoin q.agent (BitVec.ofNat 64 (r / 2 ^ 64)) else .ok m
      let app := m.signalApply q (BitVec.ofNat 32 (cmdWord r 4)) (scratchKey q.core (q.list.getD 0))
      (q.done = 0 → (∀ h, join = .error h → exec (.esig mtx c) s = .next (out (m.haltCmd mtx c q h))) ∧
        (∀ m1, join = .ok m1 → exec (.esig mtx c) s = .next (stepped m1 1))) ∧
      (0 < q.done → m.seqQuiet q.id = false → exec (.esig mtx c) s = .next (out m)) ∧
      (q.done = 1 → m.seqQuiet q.id = true → r.testBit 9 = true →
        (∀ m1, app = some m1 → exec (.esig mtx c) s = .next (stepped m1 2)) ∧
        (app = none → exec (.esig mtx c) s = .next (out m))) ∧
      (0 < q.done → m.seqQuiet q.id = true → (r.testBit 9 = false ∨ 1 < q.done) →
        exec (.esig mtx c) s = .next (out (m.cmdDone mtx c)))) ∧
    (m.headSeq mtx c = none ∨ m.headSeq mtx c = some q ∧ q.cmd = none ∧ m.seqQuiet q.id = false →
      exec (.sequenceEnd mtx c) s = .next s ∧
      exec (.esig mtx c) s = .next (s.on (if mtx then m.endCancelled c else m)) ∧
      (mtx = false → exec (.xcpy c n) s = .next s ∧ exec (.xgath c n) s = .next s))

/-- R29, R231, R233, R239, R265, R330, R392, R395, R397, R438: a matrix command starts unless the lease has passed on,
which stops its sequence, or the lease is at a limit with another request queued, where it waits; it is counted once in
a grant, and reads its record and the formats of its banks then and no more. Once it has started it goes on whoever
holds the lease: it stops its sequence where a check of it fails, sends its reads of other homes and waits for them (log
62), and otherwise has its effect and ends when its writes are performed; a sequence that is cancelled ends once its
command has. MZERO clears its tile and nothing else; an MMA of no row or no column has no effect; a sub-array gates
where the rule says so. R232, R233: the lease passes to the first request once it is free and the sequences of the core
that left have ended; its tokens are written, and both counts restart. At a limit it passes on where another request is
queued, and otherwise the counts are taken again from where the limit was reached, below both limits. Where the spec
leaves a point of this open, it is the model's choice: log 27, 46, 62, 64. -/
def Obligations.MatrixArray : Prop :=
  (∀ (s : State) (cl sub op : Nat) (q : Seq) (r : Nat) (i : Instr) (f : Mach → Seq → Nat → Eng Mach),
     let m := s.m
     let k := m.cluster cl
     let reached (op : Nat) : Prop := m.headSeq true cl = some q ∧ cmdOp r = op ∧
       (q.cmd = some r ∨ q.cmd = none ∧ m.seqQuiet q.id = true ∧ m.cmdOf true q = .ok r)
     let mzero (m : Mach) (_ : Seq) (r : Nat) : Eng Mach :=
       if 16 ≤ cmdByte r 1 then .error (.stop .accBounds none 0)
       else .ok { m with mem := Mem.clear m.mem (accKey cl (cmdByte r 1) 0 0) 0x10000 }
     ((op, i, f) ∈ [(0x10, (.mzero cl : Instr), mzero), (0x11, .mma cl, fun m q r => m.mma cl q r),
         (0x12, .mstore cl, fun m q r => m.mstore cl q r), (0x13, .wload cl, fun m q r => m.wload cl q r)] → reached op →
       let out (m : Mach) : State := s.on (m.endCancelled cl)
       (q.started = true →
         (m.seqQuiet q.id = true → exec i s = .next (out (m.cmdDone true cl))) ∧ (m.seqQuiet q.id = false → exec i s = .next (out m))) ∧
       (q.started = false → q.cmd = none → q.core ∈ k.passed →
         exec i s = .next (out (m.haltCmd true cl q (.stop .leaseExpired none 0)))) ∧
       (q.started = false → q.cmd = none → q.core ∉ k.passed → q.counted = false → m.leaseOver cl q.core = true →
         exec i s = .next (out m)) ∧
       (q.started = false → (q.cmd = none → q.core ∉ k.passed ∧ (q.counted = true ∨ m.leaseOver cl q.core = false)) →
         let q1 := if q.cmd = none then (m.matrixStart cl q r).1 else q
         let m1 := if q.cmd = none then (m.matrixStart cl q r).2 else m
         (∀ h, h ≠ .wait → f m1 q1 r = .error h → exec i s = .next (out (m1.haltCmd true cl q1 h))) ∧
         (f m1 q1 r = .error .wait →
           (∀ h a, f m1 q1.assumed r = .error h → h.read = some a → exec i s = .next (out (m1.sendAsk true cl q1 a))) ∧
           ((∀ h, f m1 q1.assumed r = .error h → h.read = none) → exec i s = .next (out m1))) ∧
         (∀ m2, f m1 q1 r = .ok m2 →
           let m3 := m2.modHead true cl (fun x => { x with reads := [] })
           (m3.seqQuiet q1.id = true → exec i s = .next (out (m3.cmdDone true cl))) ∧
           (m3.seqQuiet q1.id = false → exec i s = .next (out (m3.begun true cl r)))))) ∧
     (cmdByte r 1 < 16 → cmdByte r 2 % 16 = 0 ∨ cmdByte r 2 / 16 = 0 → m.mma cl q r = .ok m) ∧
     (∀ a, cmdByte r 1 < 16 → Mem.get (Mem.clear m.mem (accKey cl (cmdByte r 1) 0 0) 0x10000) a =
       if accKey cl (cmdByte r 1) 0 0 ≤ a ∧ a < accKey cl (cmdByte r 1) 0 0 + 0x10000 then 0 else Mem.get m.mem a) ∧
     (let idle := m.arrayCycles cl - Table.get k.idleFrom sub 0
      let due := sub < 16 ∧ m.gateDelay cl ≠ 0 ∧ m.gateDelay cl ≤ idle ∧ 2304 ≤ Table.get k.predicted sub 0
      (due → exec (.subarrayGate cl sub) s = .next (s.on (m.modCluster cl (fun x => { x with gated := insertNat x.gated sub })))) ∧
      (¬ due → exec (.subarrayGate cl sub) s = .next s))) ∧
  (∀ (s : State) (cl c : Nat) (ids : List Nat) (rest : List (Nat × List Nat)),
     let m := s.m
     let k := m.cluster cl
     let granted (m : Mach) : Mach := ids.foldl (fun m id => m.resolve id 0) (m.modCluster cl (fun x =>
       { x with holder := some c, leaving := none, fifo := rest, commands := 0, grantedAt := (m.core c).cycles,
                passed := eraseNat x.passed c,
                seqs := x.seqs.map (fun q => if q.core = c then { q with counted := false } else q) }))
     (k.fifo = (c, ids) :: rest → k.holder = none →
       (k.leaving = none ∨ ∃ d, k.leaving = some d ∧ k.seqs.any (fun q => q.core == d) = false) →
       exec (.leaseGrant cl) s = .next (s.on (granted m))) ∧
     (k.holder ≠ none ∨ (∃ d, k.leaving = some d ∧ k.seqs.any (fun q => q.core == d) = true) ∨ k.fifo = [] →
       exec (.leaseGrant cl) s = .next s) ∧
     (k.holder = none → exec (.leaseExpiry cl) s = .next s) ∧
     (∀ d, k.holder = some d →
       let at_ := 64 ≤ k.commands ∨ 200000 ≤ (m.core d).cycles - k.grantedAt
       (¬ at_ → exec (.leaseExpiry cl) s = .next s) ∧
       (k.fifo = [] →
         (at_ → exec (.leaseExpiry cl) s = .next (s.on (m.renewLease cl))) ∧
         ((m.renewLease cl).cluster cl).holder = some d ∧ ((m.renewLease cl).cluster cl).commands < 64 ∧
         (m.core d).cycles - ((m.renewLease cl).cluster cl).grantedAt < 200000) ∧
       (at_ → k.fifo = (c, ids) :: rest → exec (.leaseExpiry cl) s =
         .next (s.on (granted (m.modCluster cl (fun x => { x with passed := insertNat x.passed d })))))))

/-- R241, R242, R244: a doorbell write of one of the 64 queues of a partition that is configured and not being reset
reads the descriptor, once its line and the tables that lead to it are not held; one that passes its checks loads the
descriptor and the tail and sets the state; one that does not, or whose read fails, sets ERROR. A ready queue that is
next in rotation takes its record; a full target is tried again. R246, R247, R298: the rungs of the watchdog. At T1 the
queue is PREEMPTED; at T2 it is KILLED, and its running and held tasks are killed with their entries; T3 after the
dispatch that set off T2 it is FENCED, with the cores whose kill is not complete. A rung's entry goes to the queue of
the die of the core it concerns. Where the spec leaves a point of this open, it is the model's choice: log 23, 31, 32,
55. -/
def Obligations.LaunchAndWatchdog : Prop :=
  (∀ (s : State) (p q : Nat) (v w : Word) (i : Instr),
     let m := s.m
     let x := m.queue p q
     let a := m.descAddr p q
     let st := (m.part p).state
     ((i, w) ∈ [((.launchDoorbell p q v : Instr), v), (.doorbellClear p q v, v ||| 0x100000000)] →
       (64 ≤ q ∨ st = .absent ∨ st = .resetting ∨ m.launchHeld p a = true → exec i s = .next s) ∧
       (q < 64 → st ≠ .absent → st ≠ .resetting → m.launchHeld p a = false →
         (∀ e m1, (m.launcherMap p q a).launchRead p a 64 = (.error e, m1) → exec i s = .next (s.on
           (((m1.modQueue p q (fun x => { x with state := .error })).launchEntry p q e (m1.descAddr p q) none).publishWith false p q))) ∧
         (∀ d m1, (m.launcherMap p q a).launchRead p a 64 = (.ok d, m1) →
           let y := m1.queue p q
           let clear := w.getLsbD 32
           let st1 := doorbellState y.state (d.testBit 72) clear
           let m2 := m1.modQueue p q (fun x => { x with
             base := BitVec.ofNat 64 (nbits d 0 64), log2n := nbits d 64 5, t1 := nbits d 192 20, t2 := nbits d 212 20,
             t3 := nbits d 232 20, tail := field w 0 32, state := st1,
             rungs := if clear then [] else x.rungs, killSince := if clear then none else x.killSince,
             killed := if clear then [] else x.killed })
           (doorbellOk w d y.head = false →
             exec i s = .next (s.on ((m1.setState p q .error).launchEntry p q .reservedField a none))) ∧
           (doorbellOk w d y.head = true →
             exec i s = .next (s.on (if st1 = y.state then m2 else m2.publish p q)))))) ∧
     (let m1 := m.modDie (q % 4) (fun d => { d with served := 64 * p + q })
      let next := m.queueReady p q = true ∧ m.nextQueue (q % 4) = some (64 * p + q)
      (next → (∀ m2, m1.takeRecord p q = some m2 → exec (.launchRecord p q) s = .next (s.on m2)) ∧
        (m1.takeRecord p q = none → exec (.launchRecord p q) s = .next s)) ∧
      (¬ next → exec (.launchRecord p q) s = .next s)) ∧
     (let may := st = .running ∧ (x.state = .running ∨ x.state = .preempted ∨ x.state = .disabled) ∧ x.todo ≠ []
      (may → exec (.launchTargetRetry p q) s = .next (s.on (m.launchTargets p q x.todo))) ∧
      (¬ may → exec (.launchTargetRetry p q) s = .next s))) ∧
  (∀ (s : State) (p q : Nat),
     let m := s.m
     let x := m.queue p q
     (m.rungDue p q 0 x.t1 = true →
       let m1 := (m.modQueue p q (fun x => { x with rungs := 0 :: x.rungs })).setState p q .preempted
       exec (.watchdogPreempt p q) s = .next (s.on (m1.rungEntry p q .watchdogPreempt (((m.oldestTag p q).map (·.2)).getD 0) false))) ∧
     (m.rungDue p q 0 x.t1 = false → exec (.watchdogPreempt p q) s = .next s) ∧
     (m.rungDue p q 1 x.t2 = true →
       let cs := m.tagCores p q
       let m1 := (m.modQueue p q (fun x => { x with rungs := 1 :: x.rungs, killSince := (m.oldestTag p q).map (·.1),
                                                     killed := cs.flatMap (fun c => m.tagTasks c q) })).setState p q .killed
       let m2 := ((m1.coresOf p).foldl (fun m c => m.killTag c q) m1).dropParked p q
       exec (.watchdogKill p q) s = .next (s.on (cs.foldl (fun m c => m.rungEntry p q .watchdogKill c true) m2))) ∧
     (m.rungDue p q 1 x.t2 = false → exec (.watchdogKill p q) s = .next s) ∧
     (∀ t, x.killSince = some t →
       let due := x.t3 ≠ 0 ∧ 2 ∉ x.rungs ∧ x.state = .killed ∧ t + 10000 * x.t3 ≤ m.now
       let m1 := m.modQueue p q (fun x => { x with rungs := 2 :: x.rungs })
       (due → exec (.watchdogFence p q) s = .next (s.on (((m1.killOpen x.killed).foldl (fun m c =>
         (m.fenceCore c).rungEntry p q .coreFenced c true) m1).setState p q .fenced))) ∧
       (¬ due → exec (.watchdogFence p q) s = .next s)) ∧
     (x.killSince = none → exec (.watchdogFence p q) s = .next s))

/-- R76, R77, R72, R82: a dispatch takes from its source into a free helper; a level-1 task starts where no window is
open and its application has been taken; a thief asks its next victim, which surrenders its oldest entry or declines;
after 256 cycles it asks again. Where the spec leaves a point of this open, it is the model's choice: log 35, 37, 38,
58, 71. -/
def Obligations.DispatchAndSteal : Prop :=
  ∀ (s : State) (c d : Nat),
    let m := s.m
    let r := m.core c
    let may := m.running c = true ∧ (m.freeHelper c).isSome = true ∧ (m.source c).isSome = true
    (may → exec (.dispatch c) s = .next (s.on ((m.modCore c (fun r => { r with tried := 0 })).dispatchOne m.now c))) ∧
    (¬ may → exec (.dispatch c) s = .next s) ∧
    (∀ ch e rest, r.level1 = (ch, e) :: rest →
      let may := m.running c = true ∧ (m.part ((m.partOf c).getD 0)).state = .running ∧ (m.ctx c 11).live = false ∧
        m.windowOpen c = false ∧ e.check = 0 ∧ m.homeReady c e = true
      let m1 := (m.modCore c (fun r => { r with level1 := rest })).modChan c ch (fun k => { k with running := k.running + 1 })
      (may → exec (.level1TaskStart c) s = .next (s.on ((m1.startTask m1.now c 11
        ((m1.core c).frameAt ((m1.core c).poolCount - 1)) e).givePayload c 11 ch e))) ∧
      (¬ may → exec (.level1TaskStart c) s = .next s)) ∧
    (r.level1 = [] → exec (.level1TaskStart c) s = .next s) ∧
    (∀ v l, m.maySteal c = true → m.victims c (r.victim.getD c) = v :: l → exec (.stealRequest c) s =
      .next (s.on ((m.modCore c (fun r => { r with victim := some v, tried := r.tried + 1, stealing := true })).inject
        { id := 0, src := c, dst := v, body := .stealAsk, core := c }))) ∧
    (m.maySteal c = false ∨ m.victims c (r.victim.getD c) = [] → exec (.stealRequest c) s = .next s) ∧
    (∀ p, m.next c d false = some p → p.body = .stealAsk →
      (∀ e m1, m.isFenced d = false → m.inDomain d c = true → m.popOldest d = some (e, m1) →
        exec (.stealGrant c d) s = .next (s.on (m1.answer p (.stolen (some e))))) ∧
      (m.isFenced d = true ∨ m.inDomain d c = false ∨ m.popOldest d = none →
        exec (.stealGrant c d) s = .next (s.on (m.answer p (.stolen none))))) ∧
    (∀ t, r.stealWait = some t →
      (t + 256 ≤ r.cycles → exec (.stealWaitExpiry c) s = .next (s.on (m.modCore c (fun r => { r with stealWait := none })))) ∧
      (r.cycles < t + 256 → exec (.stealWaitExpiry c) s = .next s))

/-! ### Homes, network, slices and services -/

/-- R113, R134, R149, R179, R195, R260, R99, R107: the next request of a pair channel is performed at the core or slice
it has reached and answered; a retired slice answers with a remap, whose table the requester takes, sending the request
again to its new home behind the requests already sent again there; an LDS whose word is empty waits at the home; a
request to a held line or a hot stack waits. A handle operation and an apply message are performed at the core they have
reached, where a frame that has moved again is found in the same step, which is the model's reading (log 37); a fold is
read at its members once its request has reached the root, which answers after the last of them. Where the spec leaves a
point of this open, it is the model's choice: log 21, 37, 39, 47. -/
def Obligations.RequestsAtHome : Prop :=
  ∀ (s : State) (src dst : Nat) (p : Packet),
    let m := s.m
    let done (id : Nat) : Mach := m.modPacket id (fun q => { q with phase := .done, noticed := true })
    (m.next src dst false = none → src < 2048 → exec (.memoryRequest src dst) s = .next s) ∧
    (m.next src dst false = some p →
      (∀ f, src < 2048 → p.body = .fold f → exec (.memoryRequest src dst) s = .next (s.on ((done p.id).foldAnswer f))) ∧
      (∀ op k va pk, src < 2048 → p.body = .mem op k va pk →
        (dst < 1024 → p.dst = dst →
          (∀ b m1, m.performCore dst op k (m.forwardGone p) = some (b, m1) →
            exec (.memoryRequest src dst) s = .next (s.on (m1.answer p b))) ∧
          (∀ take, m.performCore dst op k (m.forwardGone p) = none → op = .sync take →
            ((m.core dst).waiters.length < 64 → exec (.memoryRequest src dst) s =
              .next (s.on ((m.modCore dst (fun r => { r with waiters := r.waiters ++ [(p.id, k, take)] })).modPacket p.id
                (fun q => { q with phase := .done, noticed := true })))) ∧
            (64 ≤ (m.core dst).waiters.length → exec (.memoryRequest src dst) s = .next s))) ∧
        (1024 ≤ dst → p.dst = dst →
          ((m.slice (dst - 1024)).retired = true →
            exec (.memoryRequest src dst) s = .next (s.on (m.answer p (m.remapBody dst)))) ∧
          ((m.slice (dst - 1024)).retired = false → m.memHeld k = false →
            ∀ b m1, m.performSlice op k (p.requester va) pk = (b, m1) → exec (.memoryRequest src dst) s = .next (s.on (m1.answer p b))) ∧
          ((m.slice (dst - 1024)).retired = false → m.memHeld k = true → exec (.memoryRequest src dst) s = .next s))) ∧
      (∀ op h rt b m1, p.body = .handle op h rt → m.handleDone op h rt p.core p.dst = (b, m1) →
        exec (.handleRequest src dst) s = .next (s.on (m1.answer p b))) ∧
      (∀ h args rt tag, p.body = .apply h args rt tag → p.dst = dst →
        (m.isFenced dst = true → exec (.applyMessage src dst) s = .next (s.on (m.answer p (.failed .applyTargetFenced false)))) ∧
        (m.isFenced dst = false →
          let part := (m.partOf p.core).getD 0
          (∀ e, m.takeApp part h rt dst = .error e →
            exec (.applyMessage src dst) s = .next (s.on ((m.complainHandle dst e h p.core).answer p .ack))) ∧
          (∀ m1, m.takeApp part h rt dst = .ok m1 →
            (∀ m2, m1.pushOldest dst { h := h, args := args, tag := tag } = some m2 →
              exec (.applyMessage src dst) s = .next (s.on (m2.answer p .ack))) ∧
            (m1.pushOldest dst { h := h, args := args, tag := tag } = none → exec (.applyMessage src dst) s = .next s))))) ∧
    (2048 ≤ src → exec (.memoryRequest src dst) s = .next (s.on (({ m with folds := m.folds.map (fun f =>
      if f.id = src - 2048 && f.unread.contains dst && m.foldRuns f && !m.foldHeld f dst then
        { f with unread := eraseNat f.unread dst, got := f.got ++ [(dst, m.foldRead f dst)] } else f) } : Mach).foldAnswer
          (src - 2048)))) ∧
    (∀ id r q d gen map, m.arrivedReply id = some r → r.body = .remap d gen map → m.packet r.answers = some q →
      let m1 := m.setMap q.src d { gen := gen, map := map }
      (3 ≤ q.remaps → exec (.remapReply id) s =
        .next (s.on ((m1.modPacket r.id (fun r => { r with body := remapFailure q.body })).unhold q.id))) ∧
      (q.remaps < 3 →
        let home2 := m1.rehash q
        let behind := m1.behindResend { q with dst := home2 }
        exec (.remapReply id) s = .next (s.on (((m1.retire r.id).modPacket q.id (fun p =>
          { p with dst := home2, phase := if behind = 0 then .flying else .waiting, slot := if behind = 0 then p.slot else none,
                   heldBy := behind, sends := 1, remaps := q.remaps + 1, noticed := false, golden := false,
                   mapGen := gen })).launch q.src false))))

/-- R19, R67, R101, R118, R133, R150, R177, R183: a late result whose value is known is written once no earlier one is
bound for its words, and a part of one as its reply comes; replies end the waits of their contexts and complete
messages; the acknowledgement of a store on a parkable page ends its context's wait, or traps; the answer to an engine's
request is noted for its sequence. The reply of a START waits for the requests before it, and an ECAN for the end of a
matrix command. Where the spec leaves a point of this open, it is the model's choice: log 18, 35, 37, 62, 73. -/
def Obligations.ResultsAndReplies : Prop :=
  ∀ (s : State) (id : Nat) (p : Pend) (r q : Packet),
    let m := s.m
    (m.findPend id = none → exec (.lateResult id) s = .next s) ∧
    (m.findPend id = some p →
      (m.behind p = true → exec (.lateResult id) s = .next s) ∧
      (m.behind p = false →
        (∀ v fl, p.late = .value v fl → exec (.lateResult id) s = .next (s.on (m.writeLate p v fl))) ∧
        (∀ x, p.late = .parts x →
          (x.wait = [] → exec (.lateResult id) s = .next (s.on (m.finishParts p x))) ∧
          (∀ w r, x.wait ≠ [] → m.partReply x = some (w, r) → exec (.lateResult id) s = .next (s.on (m.partBack p x w r))) ∧
          (x.wait ≠ [] → m.partReply x = none → exec (.lateResult id) s = .next s)))) ∧
    (m.arrivedReply id = none → exec (.acknowledgement id) s = .next s ∧ exec (.handleReply id) s = .next s ∧
      exec (.sendStatus id) s = .next s ∧ exec (.remapReply id) s = .next s) ∧
    (m.arrivedReply id = some r → m.packet r.answers = some q →
      let m1 := m.settleReply r
      let who := m1.ctxOf r.core r.task
      (∀ g token n, r.body = .status n → q.body = .message g token →
        ((m.findPend token).any m.behind = true → exec (.sendStatus id) s = .next s) ∧
        ((m.findPend token).any m.behind = false → exec (.sendStatus id) s = .next (s.on (m1.messageDone r.core token n)))) ∧
      (∀ op h rt out n, r.body = .handled out n → q.body = .handle op h rt →
        (out = none → m.startWaits r.core r.task h = true → exec (.handleReply id) s = .next s) ∧
        (out ≠ none ∨ m.startWaits r.core r.task h = false →
        (op = .giveBack ∨ op = .unref ∨ op = .unfly → exec (.handleReply id) s = .next (s.on m1)) ∧
        (op = .accept → exec (.handleReply id) s = .next (s.on (m1.settleArrival r.core r.answers h out.isNone))) ∧
        (op ≠ .giveBack → op ≠ .unref → op ≠ .unfly → op ≠ .accept →
          (who = none → exec (.handleReply id) s = .next (s.on m1)) ∧
          (∀ x pc k, who = some x → (m1.ctx r.core x).wait = .reply pc k →
            (op ≠ .cancel ∨ out ≠ none ∨ m1.cancelling h.toNat = false →
              exec (.handleReply id) s = .next (s.on (m1.handleBack s.now r.core x r.task pc k h out))) ∧
            (op = .cancel → out = none → m1.cancelling h.toNat = true → exec (.handleReply id) s =
              .next (s.on (m1.modCtx r.core x (fun v => { v with wait := .reply pc (.cancelled h.toNat) })))))))) ∧
      (∀ n e x pc l todo parked, r.body = .parked n e → who = some x →
        (m1.ctx r.core x).wait = .reply pc (.park l todo parked) →
        exec (.handleReply id) s = .next (s.on (m1.parkBack r.core x r.task pc l parked todo n e))) ∧
      (r.body = .ack ∨ (∃ e pk, r.body = .failed e pk) ∨ (∃ v, r.body = .data v) ∨ (∃ l, r.body = .line l) ∨ (∃ e, r.body = .stolen e) →
        m.replyWaits s.now q r = false → (∀ y ∈ m.pends, ∀ x, y.late = .parts x → ∀ w ∈ x.wait, w.2.2 ≠ q.id) →
        (m.engineAsked q.id = true → exec (.acknowledgement id) s = .next (s.on (m1.noteAnswer q.id
          (match r.body with | .data v => some v | _ => some 0) (match r.body with | .failed e _ => some e | _ => none)))) ∧
        (m.engineAsked q.id = false →
        (m1.foldStores.any (fun f => f.unacked.contains q.id) = true → exec (.acknowledgement id) s =
          .next (s.on (m1.foldAcked q.id q.dst (match r.body with | .failed _ _ => true | _ => false)
            (r.body == .failed .coreFenced false)))) ∧
        (m1.foldStores.any (fun f => f.unacked.contains q.id) = false → (∀ f, q.body ≠ .fold f) →
          (who = none → exec (.acknowledgement id) s = .next (s.on (m1.acknowledge s.now q r))) ∧
          (∀ x, who = some x → (∀ pc a l t u, (m1.ctx r.core x).wait ≠ .reply pc (.access q.id a l t u)) →
            exec (.acknowledgement id) s = .next (s.on (m1.acknowledge s.now q r))) ∧
          (∀ x pc a lane todo undo, who = some x → (m1.ctx r.core x).wait = .reply pc (.access q.id a lane todo undo) →
            (∀ e, r.body = .failed e true → exec (.acknowledgement id) s = .next (s.on ((m1.undone r.core x undo).raise r.core x
              { cause := e, bad := some a, brsrc := BitVec.ofNat 64 (lane.getD 0) } pc))) ∧
            ((∀ e, r.body ≠ .failed e true) → exec (.acknowledgement id) s =
              .next (s.on ((m1.acknowledge s.now q r).scatterNext r.core x r.task pc undo todo))))) ∧
        (∀ f g, m1.foldStores.any (fun f => f.unacked.contains q.id) = false → q.body = .fold f →
          m1.folds.find? (fun g => g.id == f) = some g →
          exec (.acknowledgement id) s = .next (s.on (m1.foldDone g 0 0 none))))))

/-- R71, R186, R187, R188: a message next on its pair channel is received at the channel of the core it has reached, and
its sender answered with the status: as a handler's arrival, as a match, or as a reply. Where the spec leaves a point of
this open, it is the model's choice: log 47. -/
def Obligations.MessageArrivals : Prop :=
  ∀ (s : State) (src dst : Nat) (p : Packet) (g : Msg),
    let m := s.m
    let c := dst
    let matched := (m.chan c g.chan).mode = 2 ∧ m.isFenced c = false
    (m.nextMessage src dst false = some (p, g) →
      (¬ matched → exec (.handlerArrival src dst) s =
          .next (s.on ((m.arriveHandler c g).2.answer p (.status (m.arriveHandler c g).1))) ∧
        exec (.matchedArrival src dst) s = .next s) ∧
      (matched → exec (.handlerArrival src dst) s = .next s ∧ exec (.matchedArrival src dst) s =
          .next (s.on ((m.arriveMatched c g).2.answer p (.status (m.arriveMatched c g).1))))) ∧
    (m.nextMessage src dst true = some (p, g) →
      exec (.replyArrival src dst) s = .next (s.on ((m.arriveReply c g).2.answer p (.status (m.arriveReply c g).1)))) ∧
    (m.isFenced c = true → m.arriveHandler c g = (2, m) ∧ m.arriveReply c g = (2, m)) ∧
    (∀ x rest, m.isFenced c = false → (m.chan c g.chan).mode = 2 → takePost false g (m.chan c g.chan).posts = some (x, rest) →
      m.arriveMatched c g = (if descLen x.desc < g.len then 3 else 0,
        (m.modChan c g.chan (fun k => { k with posts := rest })).deliver x g))

/-- R174, R176, R177, R180, R145: a packet's arrival, its re-sends after a NACK or its timer, the golden pair, a link
that is down, and the draining of a combining entry after 64 cycles. Where the spec leaves a point of this open, it is
the model's choice: log 3, 8, 11, 16, 17, 18, 19, 20, 78. -/
def Obligations.NetworkEvents : Prop :=
  ∀ (s : State) (id : Nat) (p : Packet) (die link c : Nat),
    let m := s.m
    (m.packet id = some p →
      (p.phase ≠ .flying → ∀ f, exec (.packetArrival id f) s = .next s) ∧
      (p.phase = .flying → p.src = p.dst → ∀ f, exec (.packetArrival id f) s = .next (s.on (m.accept p))) ∧
      (p.phase = .flying → p.src ≠ p.dst →
        exec (.packetArrival id .taken) s = .next (s.on (m.accept p)) ∧
        exec (.packetArrival id (.badCrc die)) s =
          .next (s.on ((m.post (die % 4) ((m.partOf p.core).getD 0) { cause := Cause.networkCrc.code }).modPacket id
            (fun q => { q with phase := .lost }))) ∧
        (p.answers = 0 → p.reply = false → p.golden = false → exec (.packetArrival id .full) s =
          .next (s.on (m.modPacket id (fun q => { q with phase := .nacked, nackedLast := true })))) ∧
        (p.answers ≠ 0 ∨ p.reply = true ∨ p.golden = true → exec (.packetArrival id .full) s = .next s)) ∧
      (p.phase = .nacked → p.noticed = false → exec (.nackResend id) s = .next (s.on (m.resend p))) ∧
      (p.phase ≠ .nacked ∨ p.noticed = true → exec (.nackResend id) s = .next s) ∧
      (let due := p.answers = 0 ∧ p.noticed = false ∧ p.phase ≠ .waiting ∧ p.src ≠ p.dst
       (due → p.sends = closedSends → exec (.e2eTimerExpiry id) s = .next (s.on (m.exhaustOne p))) ∧
       (due → p.sends ≠ closedSends → exec (.e2eTimerExpiry id) s = .next (s.on (m.resend p))) ∧
       (¬ due → exec (.e2eTimerExpiry id) s = .next s)) ∧
      (p.golden = true → p.phase = .flying → p.pair ≠ some (goldenAt m.now) → exec (.goldenTimeout id) s =
        .next (s.on ((m.postEnd p.src p.core (m.packetEntry p .goldenTimeout)).modPacket p.id
          (fun q => { q with phase := .lost })))) ∧
      (p.golden = false ∨ p.phase ≠ .flying ∨ p.pair = some (goldenAt m.now) → exec (.goldenTimeout id) s = .next s)) ∧
    (m.packet id = none → exec (.packetArrival id .taken) s = .next s ∧ exec (.nackResend id) s = .next s ∧
      exec (.e2eTimerExpiry id) s = .next s ∧ exec (.goldenTimeout id) s = .next s) ∧
    exec (.holdNotice id) s =
      .next (s.on (m.modPacket id (fun q => if q.phase == .held then { q with noticed := true } else q))) ∧
    (let m1 := (m.packets.filter m.goldenLate).foldl Mach.goldenTimeout m
     let m2 := m1.goldenLost.foldl Mach.exhaust m1
     let now (p : Packet) : Bool := p.pair == some (goldenAt m2.now) && p.phase != .waiting && p.sends != closedSends
     exec .goldenPeriod s = .next (s.on { m2 with packets := m2.packets.map (fun p =>
       if now p then (if p.golden then p else p.gild)
       else if p.answers ≠ 0 && ((m2.packets.filter now).map (·.id)).contains p.answers && p.phase == .lost then { p with phase := .flying }
       else { p with golden := false }) })) ∧
    ((m.die die).down.contains link = false → exec (.linkDown die link none) s =
      .next (s.on ((m.modDie die (fun d => { d with down := insertNat d.down link })).postDie die
        { cause := Cause.linkDown.code, aux0 := BitVec.ofNat 64 link }))) ∧
    ((m.die die).down.contains link = true → exec (.linkDown die link none) s = .next s) ∧
    (∀ n, (m.peersDown.contains n = false → exec (.linkDown die link (some n)) s =
      .next (s.on (({ m with peersDown := insertNat m.peersDown n } : Mach).postDie die
        { cause := Cause.linkDown.code, aux0 := BitVec.ofNat 64 n }))) ∧
      (m.peersDown.contains n = true → exec (.linkDown die link (some n)) s = .next s)) ∧
    (∀ e rest, (m.core c).combine = e :: rest →
      (e.since + 64 ≤ (m.core c).cycles → exec (.wcDrain c) s = .next (s.on (m.drainOne c))) ∧
      ((m.core c).cycles < e.since + 64 → exec (.wcDrain c) s = .next s)) ∧
    ((m.core c).combine = [] → exec (.wcDrain c) s = .next s)

/-- R31, R114, R118, R120, R124, R125, R127, R149: what a slice does with the request next on a pair channel: a park
request, a probe, an unpin, a report and a wake at their destinations. A retired slice answers a park request and a
probe with a remap, and a probe outside the partition's HBM has an error reply (R277). R111, R114, R122 to R124, R126,
R128, R129, R144, R148: stages, wakes, evictions and timeouts at a slice. A stage starts for the chosen queue where a
free run fits and no retired slice has the block's frame; its end copies the block and readies a wake for each waiter; a
read that fails reports them, the bad lines it met marked (log 57). A waiter is reported WAITMAX times 65,536 slice
cycles after its enqueue, unless its partition is saved (log 26). R31, R110, R111, R275: a slice of a die takes the
BRCFG and E2E last written there, evicting the lingering frames in removed units; a launcher takes the E2E; until then
each acts on the value before. Where the spec leaves a point of this open, it is the model's choice: log 3, 8, 26, 36,
37, 50, 56, 57. -/
def Obligations.BrumationEvents : Prop :=
  (∀ (s : State) (src dst : Nat) (p : Packet),
     let m := s.m
     let sl := dst - 1024
     (m.next src dst false = none → exec (.parkRequest src dst) s = .next s ∧ exec (.blockProbe src dst) s = .next s ∧
       exec (.unpin src dst) s = .next s ∧ exec (.waiterReport src dst) s = .next s ∧ exec (.wakeArrival src dst) s = .next s) ∧
     (m.next src dst false = some p →
       (∀ h va bs size pt tag, p.body = .park h va bs size pt tag →
         ((m.slice sl).retired = true → exec (.parkRequest src dst) s = .next (s.on (m.answer p (m.remapBody dst)))) ∧
         ((m.slice sl).retired = false →
           let x := m.fresh.park sl { h := h, core := p.core, va := va, since := (m.slice sl).cycles, tag := tag, order := m.nextId } bs size pt
           exec (.parkRequest src dst) s = .next (s.on (x.2.answer p (.parked x.1.1 x.1.2))))) ∧
       (∀ bs size pt, p.body = .probe bs size pt → exec (.blockProbe src dst) s =
         .next (s.on (m.answer p (if (m.slice sl).retired then m.remapBody dst
           else if m.outOfRange pt bs then .failed .partitionViolation false else .data (m.probe sl bs))))) ∧
       (∀ bs, p.body = .unpin bs → exec (.unpin src dst) s = .next (s.on ((m.pinDown sl bs).answer p .ack))) ∧
       (∀ cause w, p.body = .report cause w →
         exec (.waiterReport src dst) s =
           .next (s.on ((m.reported (if m.isFenced dst then (src - 1024) / 32 else dieOfCore dst) cause w).answer p .ack))) ∧
       (∀ e, p.body = .wake e →
         let refused (x : Cause) : Prop := exec (.wakeArrival src dst) s = .next (s.on (m.answer p (.failed x false)))
         (m.isFenced dst = true → refused .applyTargetFenced) ∧
         (m.isFenced dst = false → m.forwardGone p = true → refused .forwardExpired) ∧
         (m.isFenced dst = false → m.forwardGone p = false →
           ((m.core dst).wakes.length < 64 → exec (.wakeArrival src dst) s =
             .next (s.on ((m.modCore dst (fun r => { r with wakes := r.wakes ++ [e] })).answer p .ack))) ∧
           (64 ≤ (m.core dst).wakes.length → exec (.wakeArrival src dst) s = .next s))))) ∧
  (∀ (s : State) (slice base part n : Nat) (lost : List Nat) (b : Block),
     let m := s.m
     let here (x : Block) : Prop := m.chosen slice part = some x
     let elsewhere (x : Block) : Bool := m.blocks.any (fun y => y.base == x.base && y.slice != x.slice)
     (m.chosen slice part = none → exec (.stage slice part) s = .next s) ∧
     (here b → elsewhere b = true ∨ m.freeRun slice part b.size = none → exec (.stage slice part) s = .next s) ∧
     (∀ u, here b → elsewhere b = false → m.freeRun slice part b.size = some u → exec (.stage slice part) s =
         .next (s.on (m.modBlock slice b.base (fun b => { b with state := .staging, unit := some u })))) ∧
     (m.findBlock slice base = none → exec (.stageComplete slice base) s = .next s ∧ exec (.lingerExpiry slice base) s = .next s ∧
       exec (.writebackComplete slice base lost) s = .next s ∧ exec (.brumWaitTimeout slice base n) s = .next s) ∧
     (m.findBlock slice base = some b →
       (b.state ≠ .staging ∨ m.blockHeld base b.size = true → exec (.stageComplete slice base) s = .next s) ∧
       (b.state = .staging → m.blockHeld base b.size = false →
         (m.stageFails base b.size = true → exec (.stageComplete slice base) s =
           .next (s.on (((m.stageMarked base b.size).dropBlock slice base).reportAll slice .brumFetchError b.queue))) ∧
         (m.stageFails base b.size = false →
           let m1 := ({ m with mem := Mem.copy m.mem base (frameKey base) b.size } : Mach).modSlice slice
             (fun x => { x with wakes := x.wakes ++ b.queue.map (fun w => (base, w)) })
           let nextSt : BlockState := if b.queue ≠ [] then .resident
             else if b.leaving || m1.beyondPool b || m1.otherQueued slice b.part base then .evicting else .lingering
           exec (.stageComplete slice base) s = .next (s.on (m1.modBlock slice base
             (fun b => { b with state := nextSt, pins := b.pins + b.queue.length, queue := [], dirty := [],
                                lingerFrom := (m1.slice slice).cycles }))))) ∧
       (let due := b.state = .lingering ∧ b.lingerFrom + brLinger (m.sliceBrcfg slice b.part) ≤ (m.slice slice).cycles
        (due → exec (.lingerExpiry slice base) s = .next (s.on (m.modBlock slice base (fun b => { b with state := .evicting })))) ∧
        (¬ due → exec (.lingerExpiry slice base) s = .next s)) ∧
       (b.state ≠ .evicting ∨ m.stackHeld base = true → exec (.writebackComplete slice base lost) s = .next s) ∧
       (b.state = .evicting → m.stackHeld base = false →
         let gone := b.dirty.filter (fun l => lost.contains l || m.peerGone (128 * l))
         let m1 := m.writeLines (b.dirty.filter (fun l => !gone.contains l))
         (gone = [] → exec (.writebackComplete slice base lost) s = .next (s.on (m1.freeBlock b))) ∧
         (gone ≠ [] →
           let m2 : Mach := { m1 with poisoned := (gone.filter (fun l => regionType (128 * l) == 0)).foldl insertNat m1.poisoned }
           exec (.writebackComplete slice base lost) s = .next (s.on ((m2.post (slice / 32) b.part
             { cause := Cause.brumWritebackError.code, bad := some (BitVec.ofNat 64 base),
               aux0 := BitVec.ofNat 64 gone.length }).freeBlock b)))) ∧
       (b.queue[n]? = none → exec (.brumWaitTimeout slice base n) s = .next s) ∧
       (∀ w, b.queue[n]? = some w →
         let max := brWaitMax (m.sliceBrcfg slice b.part)
         let due := (b.state = .queued ∨ b.state = .evicting) ∧ max ≠ 0 ∧ (m.part b.part).state ≠ .saved ∧ max * 65536 ≤ (m.slice slice).cycles - w.since
         let m1 := m.modBlock slice base (fun b => { b with queue := dropNth b.queue n })
         (¬ due → exec (.brumWaitTimeout slice base n) s = .next s) ∧
         (due → b.state = .queued → b.queue.length = 1 → exec (.brumWaitTimeout slice base n) s =
           .next (s.on ((m1.dropBlock slice base).report slice .brumWaitTimeout w))) ∧
         (due → b.state = .evicting ∨ b.queue.length ≠ 1 → exec (.brumWaitTimeout slice base n) s =
           .next (s.on (m1.report slice .brumWaitTimeout w))))) ∧
     ((m.slice slice).wakes = [] → exec (.wake slice) s = .next s) ∧
     (∀ bs w rest, (m.slice slice).wakes = (bs, w) :: rest →
       let m1 := m.modSlice slice (fun x => { x with wakes := rest })
       let size := ((m1.findBlock slice bs).map (·.size)).getD 0x4000
       (m1.isFenced w.core = true →
         exec (.wake slice) s = .next (s.on ((m1.pinDown slice bs).report slice .applyTargetFenced w))) ∧
       (m1.isFenced w.core = false →
         let args : Args := { w1 := BitVec.ofNat 64 (w.va.toNat - w.va.toNat % size), w2 := w.va, w3 := BitVec.ofNat 64 size }
         let e : Entry := { h := w.h, tag := w.tag, pin := some (slice, bs), since := w.since, order := w.order, args := args }
         exec (.wake slice) s =
           .next (s.on (m1.inject { id := 0, src := sliceEnd slice, dst := w.core, body := .wake e, core := w.core })))) ∧
     exec (.ageUnit slice n) s = .next (s.on (m.modSlice slice (fun x => { x with cycles := x.cycles + n })))) ∧
  (∀ (s : State) (unit part : Nat),
     let m := s.m
     (unit < 128 → ∃ u : State, exec (.scopeDValueTaken unit part) s = .next u ∧ u = s.on (m.takeBrcfg unit part) ∧
       u.m.sliceBrcfg unit part = (m.diePart (unit / 32) part).brcfg ∧ u.m.mem = m.mem) ∧
     (128 ≤ unit → unit < 132 → exec (.scopeDValueTaken unit part) s = .next (s.on (m.modDie (unit - 128)
       (fun x => { x with e2e := Table.set x.e2e part (m.diePart (unit - 128) part).e2e })))) ∧
     (132 ≤ unit → exec (.scopeDValueTaken unit part) s = .next s))

/-- R262, R263, R266, R267, R268, R269: a tick of Isobar gives each core the duty of its budget, demand and floor, each
die its clock and each stack its band, and begins its counts anew; a die that has run no MMA since the last tick has no
matrix-busy cycle (log 33). In a collective the least pair that the leader and its members report is announced, and
applied at its tick, when each die's clock is its own under the ceiling announced. Where the spec leaves a point of this
open, it is the model's choice: log 33, 34, 65. -/
def Obligations.PowerEvents : Prop :=
  ∀ (s : State) (x : Measures) (duty clock tick : Nat),
    let p := s.power
    (s.now ≠ 10000 * (p.ticked + 1) → exec (.isobarTick x) s = .next s) ∧
    (s.now = 10000 * (p.ticked + 1) → ∃ u : State, exec (.isobarTick x) s = .next u ∧
      (p.collective = false → ∀ c, c < 1024 →
        u.power.dutyOf c = dutyFor (x.budget (p.limit * 1000) c) (x.core c) (s.m.dutyFloor c)) ∧
      (p.collective = true → u.power.duty = p.duty) ∧
      u.power.own = (List.range 4).map (x.clock s.m p.limit) ∧ u.power.clocks = p.capped u.power.own ∧ u.power.temps = x.temps ∧
      u.power.ticked = p.ticked + 1 ∧ u.m.bands = s.m.nextBands x.temps ∧ u.m.vectorIssues = [0, 0, 0, 0] ∧ u.m.matrixRan = []) ∧
    (∀ d ms, s.m.matrixBusy d = false → ({ x with matrix := ms } : Measures).clock s.m p.limit d = x.clock s.m p.limit d) ∧
    (let announce (t d c : Nat) : State := { s with power := { p with
       announced := p.announced.filter (fun a => a.1 != t) ++ [(t, d, c)] } }
     let mine := 1 ≤ duty ∧ duty ≤ 16 ∧ p.lastTick < tick ∧ tick ≤ s.now / 10000 + 2
     (p.collective = false → exec (.collectiveAnnouncement duty clock tick) s = .next s) ∧
     (p.collective = true → p.leader = true →
       (p.announces = none → exec (.collectiveAnnouncement duty clock tick) s = .next s) ∧
       (∀ d c, p.announces = some (d, c) →
         exec (.collectiveAnnouncement duty clock tick) s = .next (announce (p.ticked + 2) d c))) ∧
     (p.collective = true → p.leader = false →
       (mine → exec (.collectiveAnnouncement duty clock tick) s = .next (announce tick duty clock)) ∧
       (¬ mine → exec (.collectiveAnnouncement duty clock tick) s = .next s))) ∧
    (p.collective = false ∨ s.now + 100 < 10000 * (p.lastTick + 1) → exec .collectiveApplyTick s = .next s) ∧
    (p.collective = true → 10000 * (p.lastTick + 1) ≤ s.now + 100 →
      let due := p.announced.find? (fun a => a.1 == p.lastTick + 1)
      (due = some (tick, duty, clock) → ∃ u : State, exec .collectiveApplyTick s = .next u ∧
        (∀ c, c < 1024 → u.power.dutyOf c = max 1 (min 16 duty)) ∧ u.power.ceiling = some clock ∧ u.power.missed = 0 ∧
        u.power.clocks = p.own.map (fun c => min c clock) ∧ u.power.lastTick = p.lastTick + 1) ∧
      (due = none → ∃ u : State, exec .collectiveApplyTick s = .next u ∧ u.power.duty = p.duty ∧ u.power.ceiling = p.ceiling ∧
        u.power.missed = p.missed + 1 ∧ u.power.lastTick = p.lastTick + 1))

/-- R148, R177, R193, R262, R268, R271, R275, R280: the management commands. In recovery each is refused with STATUS 2;
bad arguments give STATUS 3, failed conditions 2, and one performed 1. FW_LOAD gives STATUS 4 from the runtime's ring,
and takes the image at its address if the boot ROM runs it, in recovery too. Records and images lie at physical
addresses of HBM, and a read of one that is bad gives STATUS 3, which is the model's choice (log 23). R257, R279, R442,
R280: resets and context switches. A reset is two steps, `beginReset` and `endReset`, and its STATUS comes at the
second. CTX_SAVE stops the partition, which is saved once it is quiescent and no stack it writes to is held, and
CTX_RESTORE puts the state back. Power-on leaves the reset state, in recovery where the image does not run; its values
that the spec does not give are the model's choice (log 1, log 4). R116, R148, R167, R273, R277, R281, R282: the device
as the host sees it. An access to a line of HBM that its function may reach is performed at the home, and elsewhere
refused with an entry; RESYNC writes the summary, a refused write of it giving STATUS 3; a retired slice's line is
written back, unless its stack is held; an SPDM request has its answer. R258 to R260, R104: a migration completed has
copied its extents, moves pins, frames, channels and, if asked, the team, and forwards what comes after; its token is
written 0 once every request held for it has been performed at its destination, and not before. With the destination
fenced nothing moves: it reports and writes its token 1. An entry unused for its life expires, and the frames in its
extents are released. R270: a turn of the management controller takes the record that is next, the rings in alternation,
and performs the command it holds, or writes the STATUS that refuses it: 3 for an unknown OP, 4 for the wrong ring; a
record that cannot be read has its entry and stays. The STATUS of the command performed goes to its own record. Where
the spec leaves a point of this open, it is the model's choice: log 2, 5, 6, 8, 21, 22, 23, 24, 25, 26, 30, 31, 34, 36,
51, 52. -/
def Obligations.ManagementEvents : Prop :=
  (∀ (s : State) (p c n area pcb rows src dst watts : Nat) (on leader expert : Bool) (peers : List Nat) (i : Instr),
     let m := s.m
     let gives (i : Instr) (m : Mach) (k : Nat) : Prop := exec i s = .next (s.on (m.served p k))
     (m.recovery = true → i ∈ [.partConfig p pcb rows expert, .partReset p, .foldConfig p area, .sliceRetire p c n, .ctxSave p area,
         .ctxRestore p area, .chanReopen p src dst, .powerLimit p watts, .collective p on leader peers n, .corePowerOff p c,
         .corePowerOn p c] → gives i m 2) ∧
     gives (.fwLoad p area c true) m 4 ∧
     (hbmEnd < area + c → gives (.fwLoad p area c false) m 3) ∧
     (area + c ≤ hbmEnd →
       let read := m.controlLines p area c
       let image := some (toBytes c (read.2.read area c))
       (m.controlHeld area c = true → exec (.fwLoad p area c false) s = .next s) ∧
       (m.controlHeld area c = false →
         (read.1 = false → gives (.fwLoad p area c false) read.2 3) ∧
         (read.1 = true → imageRuns image = true → gives (.fwLoad p area c false) { read.2 with nextImage := image } 1) ∧
         (read.1 = true → imageRuns image = false → gives (.fwLoad p area c false) read.2 3))) ∧
     (m.recovery = false →
       (partArgsBad p pcb rows = true → gives (.partConfig p pcb rows expert) m 3) ∧
       (partArgsBad p pcb rows = false → m.partRefused p pcb rows = true → gives (.partConfig p pcb rows expert) m 2) ∧
       (partArgsBad p pcb rows = false → m.partRefused p pcb rows = false →
         let old := (m.part p).rows
         exec (.partConfig p pcb rows expert) s = .next { s with
           m := (m.configure p pcb rows expert).served p 1,
           power := s.power.resetDuty (rowCores ((old ||| rows) ^^^ (old &&& rows))) }) ∧
       (hbmEnd < area + 136 ∨ area % 8 ≠ 0 → gives (.foldConfig p area) m 3) ∧
       (area + 136 ≤ hbmEnd → area % 8 = 0 →
         let read := m.controlLines p area (m.groupBytes area)
         let m := read.2
         (s.m.controlHeld area (s.m.groupBytes area) = true → exec (.foldConfig p area) s = .next s) ∧
         (s.m.controlHeld area (s.m.groupBytes area) = false →
           (read.1 = false → gives (.foldConfig p area) m 3) ∧
           (read.1 = true → m.readGroup p area = none → gives (.foldConfig p area) m 2) ∧
           (∀ g v, read.1 = true → m.readGroup p area = some (g, v) →
             let taken := ∃ k, k < 8 ∧ k ≠ p ∧ (Table.find (m.part k).groups g).isSome = true
             let busy := (∃ f ∈ m.folds, f.part = p ∧ f.group = g) ∨ m.foldStores ≠ []
             (taken → gives (.foldConfig p area) m 2) ∧
             (¬ taken → busy → exec (.foldConfig p area) s = .next (s.on m)) ∧
             (¬ taken → ¬ busy → gives (.foldConfig p area) (m.modPart p (fun x => { x with groups := Table.set x.groups g v })) 1)))) ∧
       (let k := 32 * c + n
        let m1 := m.modDie c (fun d => { d with map := d.map.map (fun x => if x = n then m.nextLive c n else x),
                                                 mapGen := (d.mapGen + 1) % 256 })
        let m2 := m1.modSlice k (fun x => { x with retired := true, unwritten := m.linesAt k, copies := [] })
        (4 ≤ c ∨ 32 ≤ n → gives (.sliceRetire p c n) m 3) ∧
        (c < 4 → n < 32 → (m.slice k).retired = true ∨ 8 ≤ (m.retiredOf c).length → gives (.sliceRetire p c n) m 2) ∧
        (c < 4 → n < 32 → (m.slice k).retired = false → (m.retiredOf c).length < 8 →
          gives (.sliceRetire p c n) (m2.retireBlocks k) 1)) ∧
       (1165 ≤ src ∨ 1165 ≤ dst → gives (.chanReopen p src dst) m 3) ∧
       (src < 1165 → dst < 1165 →
         gives (.chanReopen p src dst) { m with closed := m.closed.filter (fun e => e != (src, dst)) } 1) ∧
       (400 ≤ watts → watts ≤ 3200 → exec (.powerLimit p watts) s =
         .next { s with m := m.served p 1, power := { s.power with limit := watts } }) ∧
       (watts < 400 ∨ 3200 < watts → gives (.powerLimit p watts) m 3) ∧
       ((∃ k ∈ peers, k ∉ m.peers) → gives (.collective p on leader peers n) m 3) ∧
       (let ahead := on = true ∧ m.now < n
        ((∀ k ∈ peers, k ∈ m.peers) → ahead → m.now = 10000 * (s.power.ticked + 1) →
         exec (.collective p on leader peers n) s = .next s) ∧
        ((∀ k ∈ peers, k ∈ m.peers) → ¬ (ahead ∧ m.now = 10000 * (s.power.ticked + 1)) →
        ∃ u : State, exec (.collective p on leader peers n) s = .next u ∧ u.power.collective = on ∧
         u.power.duty = s.power.duty ∧ (¬ ahead → u.m.now = m.now ∧ u.power.ticked = s.power.ticked) ∧
         (ahead → u.m.now = n ∧ n ≤ 10000 * (u.power.ticked + 1)) ∧ (on = true → u.power.members = peers ∧ u.power.leader = leader ∧
           u.power.lastTick = max m.now n / 10000))) ∧
       (m.inPart p c = false → gives (.corePowerOff p c) m 3 ∧ gives (.corePowerOn p c) m 3) ∧
       (m.inPart p c = true →
         ((m.core c).off = true ∨ m.coreQuiet c = false → gives (.corePowerOff p c) m 2) ∧
         ((m.core c).off = false → m.coreQuiet c = true → exec (.corePowerOff p c) s =
           .next { s with m := (m.switchCore c true).served p 1, power := s.power.resetDuty [c] }) ∧
         ((m.core c).off = false → gives (.corePowerOn p c) m 2) ∧
         ((m.core c).off = true → exec (.corePowerOn p c) s =
           .next { s with m := ((m.switchCore c false).startCore p c).served p 1, power := s.power.resetDuty [c] })))) ∧
  (∀ (s : State) (p area : Nat),
     let m := s.m
     let st := (m.part p).state
     (st = .absent → exec (.flr p) s = .next s) ∧
     (st = .resetting → exec (.flr p) s = .next (s.endReset p)) ∧
     (st ≠ .absent → st ≠ .resetting → exec (.flr p) s = .next (s.on (m.beginReset p))) ∧
     (∃ u : State, exec .powerOn s = .next u ∧ u.m.mem = State.reset.m.mem ∧ u.m.now = 0 ∧ u.m.cores = State.reset.m.cores ∧
       u.m.ctxs = State.reset.m.ctxs ∧ u.m.recovery = !imageRuns (m.nextImage.or m.image) ∧ u.power = State.reset.power) ∧
     (m.recovery = false →
       (st = .absent → exec (.partReset p) s = .next (s.on (m.served p 2))) ∧
       (st = .resetting → exec (.partReset p) s = .next (s.endReset p)) ∧
       (st ≠ .absent → st ≠ .resetting → exec (.partReset p) s = .next (s.on ((m.beginReset p).defer p))) ∧
       (hbmEnd ≤ area → exec (.ctxSave p area) s = .next (s.on (m.served p 3))) ∧
       (area < hbmEnd → st ≠ .running → exec (.ctxSave p area) s = .next (s.on (m.served p 2))) ∧
       (area < hbmEnd → st = .running → exec (.ctxSave p area) s =
         .next (s.on (((m.postAll p { cause := Cause.contextSwitchRequest.code }).modPart p
           (fun x => { x with state := .switching, saveArea := area })).defer p))) ∧
       (let found := m.saved.find? (fun v => v.area == area && v.rows == (m.part p).rows)
        (found = none ∨ m.areaHeld p area = false ∧ st ≠ .saved → exec (.ctxRestore p area) s = .next (s.on (m.served p 2))) ∧
        (∀ v, found = some v → m.areaHeld p area = true → exec (.ctxRestore p area) s = .next s) ∧
        (∀ v, found = some v → m.areaHeld p area = false → st = .saved → exec (.ctxRestore p area) s = .next
          { s with m := (m.restore p v).served p 1, power := s.power.forgetCycles (rowCores v.rows) }))) ∧
     (let ready := st = .switching ∧ m.quiescent p = true ∧ m.pendingHeld p = false ∧ m.drainHeld p = false ∧
        m.areaHeld p (m.part p).saveArea = false
      (ready → ∃ m1 : Mach, exec (.contextSwitchSave p) s = .next (s.on (m1.completed p 1)) ∧ (m1.part p).state = .saved ∧
        ∃ v ∈ m1.saved, v.area = (m.part p).saveArea ∧ v.rows = (m.part p).rows) ∧
      (¬ ready → exec (.contextSwitchSave p) s = .next s))) ∧
  (∀ (s : State) (p n area : Nat) (addr : BitVec 64) (bytes : List Byte),
     let m := s.m
     exec (.spdmRequest bytes) s = .next (s.on { m with spdm := Config.spdmAnswer bytes }) ∧
     exec (.hostMemoryAccess (.hostRead p area n)) s = .next (s.on (m.hostAccess p area n none)) ∧
     exec (.hostMemoryAccess (.hostWrite p area bytes)) s = .next (s.on (m.hostAccess p area bytes.length (some bytes))) ∧
     exec (.hostMemoryAccess (.peerRead area n)) s = .next (s.on (m.peerAccess area n none)) ∧
     exec (.hostMemoryAccess (.peerWrite area bytes)) s = .next (s.on (m.peerAccess area bytes.length (some bytes))) ∧
     (∀ w, oneLine area n = false ∨ m.memHeld area = true → m.hostAccess p area n w = m ∧ m.peerAccess area n w = m) ∧
     (∀ w, oneLine area n = true → m.memHeld area = false →
       let may := m.hostMay p area = true ∧ m.hostMay p (area + n - 1) = true
       m.peerAccess area n w = m.outside area 0 w ∧
       (may → m.hostAccess p area n w = m.outside area (m.firstCore p) w) ∧
       (¬ may → m.hostAccess p area n w = m.post (dieOfPa area) p
         { cause := Cause.partitionViolation.code, bad := some (BitVec.ofNat 64 area) })) ∧
     (let held := ∃ k, k < 33 ∧ m.launchHeld p (addr + BitVec.ofNat 64 (min (128 * k) 4088)) = true
      let written := (List.range 512).foldl (fun (r : Bool × Mach) k =>
        let w := r.2.controlWrite p (addr + BitVec.ofNat 64 (8 * k)) (summaryPiece (s.summary p) k)
        (r.1 && w.1, w.2)) (true, { m with free := m.free + 1 })
      (addr.toNat % 8 ≠ 0 → exec (.resync p addr) s = .next (s.on (m.served p 3))) ∧
      (addr.toNat % 8 = 0 → held → exec (.resync p addr) s = .next s) ∧
      (addr.toNat % 8 = 0 → ¬ held →
        (written.1 = true → exec (.resync p addr) s =
          .next (s.on ((written.2.postAll p { cause := Cause.hostResync.code }).served p 1))) ∧
        (written.1 = false → exec (.resync p addr) s = .next (s.on (written.2.served p 3))))) ∧
     (let l := area / 128
      let m1 := m.modSlice n (fun x => { x with unwritten := eraseNat x.unwritten l })
      ((m.slice n).unwritten.contains l = false ∨ m.stackHeld area = true → exec (.retiredLineWriteback n area) s = .next s) ∧
      ((m.slice n).unwritten.contains l = true → m.stackHeld area = false → m.l2Bad.contains l = false →
        exec (.retiredLineWriteback n area) s = .next (s.on m1)) ∧
      ((m.slice n).unwritten.contains l = true → m.stackHeld area = false → m.l2Bad.contains l = true →
        exec (.retiredLineWriteback n area) s =
          .next (s.on { m1 with l2Bad := eraseNat m1.l2Bad l, poisoned := insertNat m1.poisoned l })))) ∧
  (∀ (s : State) (c n : Nat),
     let m := s.m
     (m.migrating c = none → exec (.migrationComplete c) s = .next s) ∧
     (∀ g, m.migrating c = some g →
       let f := g.fwd
       (m.isFenced f.dest = true → exec (.migrationComplete c) s =
         .next (s.on (((m.dropMigration c g.token).postAt c { cause := Cause.migrationFailed.code, core := some c }).resolve g.token 1))) ∧
       (m.isFenced f.dest = false →
         let m1 := m.copyWords c (extentWords f.extents).length
         let m2 := (m1.movePins c f.dest f.extents).moveFrames c f.dest f.env0 f.envn
         let m3 := m2.moveChans c f.dest f.chmask
         let m4 := if g.team then m3.moveTeam c f.dest else m3
         let m5 := m4.modMigration c g.token (fun x => { x with held := some (m4.heldFor c f) })
         exec (.migrationComplete c) s = .next (s.on ((m5.modCore c (fun r =>
           { r with forwards := r.forwards ++ [{ f with used := m5.now }] })).endMigrations c)))) ∧
     (∀ (m : Mach) g, (m.core c).migrations = [g] →
       (g.held = none → m.endMigrations c = m) ∧
       (∀ ids, g.held = some ids →
         (ids.all m.sentDone = false → m.endMigrations c = m) ∧
         (ids.all m.sentDone = true → m.endMigrations c = (m.dropMigration c g.token).resolve g.token 0))) ∧
     ((m.core c).forwards[n]? = none → exec (.forwardExpiry c n) s = .next s) ∧
     (∀ f, (m.core c).forwards[n]? = some f →
       let m1 := m.modCore c (fun r => { r with forwards := dropNth r.forwards n, expired := r.expired ++ [f] })
       (m.now < f.used + f.life → exec (.forwardExpiry c n) s = .next s) ∧
       (f.used + f.life ≤ m.now → exec (.forwardExpiry c n) s =
         .next (s.on (((m1.core c).framesIn f.extents).foldl (fun m i => m.releaseFrame c i) m1))))) ∧
  (∀ (s : State) (p r : Nat) (own : Bool) (a : BitVec 64) (rest : List Turn) (m0 m1 : Mach) (u : State),
     let m := s.m.advance
     let t : State := { s with agenda := rest, m := m }
     let x := m.part p
     let arg (n : Nat) : Nat := nbits r (64 * n) 64
     let free := s.m.free
     let serve (b : Bool) (m : Mach) : Mach := m.modPart p (fun x => { x with serving := b })
     (s.agenda = .manage p :: rest →
       (x.state = .resetting → x.pending.isSome = true → step s = .next (t.endReset p)) ∧
       (x.state = .switching → step s = .next t) ∧
       (x.state ≠ .switching → ¬ (x.state = .resetting ∧ x.pending.isSome = true) →
         (x.record = none → m.ringNext p = none → step s = .next t) ∧
         ((x.record = some (own, a) ∧ m0 = m ∨ x.record = none ∧ m.ringNext p = some (own, a) ∧ m0 = m.ringTake p own a) →
           (m.launchHeld p a = true → step s = .next t) ∧
           (∀ e, m.launchHeld p a = false → m0.launchRead p a 64 = (.error e, m1) →
             step s = .next (t.on ((m.launchRead p a 64).2.controlEntry p e a))) ∧
           (m.launchHeld p a = false → m0.launchRead p a 64 = (.ok r, m1) →
             (t.on (serve true { m1 with free := m1.free + 1 })).perform p own r = .next u →
             step s = .next (u.on (serve false u.m)))))) ∧
     (∀ (n : Nat) (out : Bool), (s.m.part p).record = some (own, a) → (s.m.part p).serving = true →
       s.m.controlWrite p a [(1, BitVec.ofNat 8 n)] = (out, m1) →
       s.m.writeStatus p n = m1.modPart p (fun x => { x with record := none })) ∧
     (∀ n, (s.m.part p).record = none ∨ (s.m.part p).serving = false → s.m.writeStatus p n = s.m) ∧
     (0x0C < r % 256 ∨ r % 256 = 0 → s.perform p own r = .next (s.on (s.m.served p 3))) ∧
     (r % 256 ∈ [0x05, 0x08, 0x0B] → s.perform p false r = .next (s.on (s.m.served p 4))) ∧
     (r % 256 ∈ [0x01, 0x02, 0x03, 0x06, 0x07, 0x09, 0x0A, 0x0C] → s.perform p true r = .next (s.on (s.m.served p 4))) ∧
     (r % 256 = 0x01 → s.perform p false r = exec (.resync p (BitVec.ofNat 64 (arg 1))) s) ∧
     (r % 256 = 0x02 → s.perform p false r = exec (.partConfig p (arg 1) (arg 2) ((arg 3).testBit 0)) s) ∧
     (r % 256 = 0x03 → s.perform p false r = exec (.partReset p) s) ∧
     (r % 256 = 0x04 → s.perform p own r = exec (.foldConfig p (arg 1)) s) ∧
     (r % 256 = 0x05 → s.perform p true r = exec (.sliceRetire p (arg 1) (arg 2)) s) ∧
     (r % 256 = 0x06 → s.perform p false r = exec (.ctxSave p (arg 1)) s) ∧
     (r % 256 = 0x07 → s.perform p false r = exec (.ctxRestore p (arg 1)) s) ∧
     (r % 256 = 0x08 → s.perform p true r = exec (.chanReopen p (arg 1) (arg 2)) s) ∧
     (r % 256 = 0x09 → s.perform p false r = exec (.powerLimit p (arg 1)) s) ∧
     (r % 256 = 0x0A → s.perform p false r = exec (.collective p ((arg 1).testBit 0) ((arg 2).testBit 0)
       ((List.range 64).filter (fun n => (arg 3).testBit n)) (Config.largestCount free)) s) ∧
     (r % 256 = 0x0B → (arg 2).testBit 0 = true → s.perform p true r = exec (.corePowerOn p (arg 1)) s) ∧
     (r % 256 = 0x0B → (arg 2).testBit 0 = false → s.perform p true r = exec (.corePowerOff p (arg 1)) s) ∧
     (r % 256 = 0x0C → s.perform p false r = exec (.fwLoad p (arg 1) (arg 2) false) s))

/-! ### The step, the encoding and invariants -/

/-- R68, R69, R331: where the core chooses a context whose word decodes, a core cycle at the head of the agenda is that
instruction's effect, the issuing core, context and word noted, the core's stores to its own window performed where the
instruction comes after them (R153), and the cycle counted if the vector unit issues it (R266, log 33); what comes about
by itself, such as the service of a waiting synchronising load whose word is full (R385), has come about first. Where
the instruction finds that it must wait before it issues, its context was not Ready: the core chooses again, with Last
as it was. R68, R69, R331: the context's candidate is what its word decodes to. With the fetch made, no push still to
come and no marker that results hold back, nor an end of the task that its stores hold back, nor an operation on a
handle that an earlier one sent on holds back (log 37), the instruction is `decode` of the word fetched at the context's
PC. Where the spec leaves a point of this open, it is the model's choice: log 2, 33, 37, 44, 61, 72. -/
def Obligations.StepRunsDecoded : Prop :=
  (∀ (s : State) (c x : Nat) (rest : List Turn) (w : IWord) (i : Instr) (m1 : Mach) (t : State),
     let last := (s.m.advance.core c).last
     s.agenda = .cycle c :: rest →
     s.m.advance.cycle c (s.power.dutyOf c) = (some { ctx := x, instr := i, word := w }, m1) →
     (m1.before c x w i).cur = { core := c, ctx := x, word := w } ∧
     (exec i { s with agenda := rest, m := m1.before c x w i } = .next t →
       (t.m.unissued c x = false → step s = .next { t with m := t.m.issuedCycle c i }) ∧
       (t.m.unissued c x = true → step s = State.issue c last 11 t (t.m.again c last)))) ∧
  (∀ (m m1 : Mach) (c x : Nat) (w : IWord) (i : Instr),
     let v := m.ctx c x
     v.live = true → m.waitOver c x v = true → m.pushing c v.task = false → m.fetch c x v.pc = .ok (some w, m1) →
     decode w = .ok i → (m1.outstanding c v.task = false ∨ w.getLsbD 31 = false ∧ implicitMarker i = false) →
     (endsTask i = false ∨ m1.storing c x v.task = false) → (({ m1 with cur := { core := c, ctx := x, word := w } } : Mach).usesMoved i = false ∨ m1.handlesFlying c = false) →
     m.candidate c x = (some { ctx := x, instr := i, word := w }, m1))

/-- R304 to R329: words written out from the encodings of the families decode to their instructions. -/
def Obligations.DecodedWords : Prop :=
  decode 0x02418C00 = .ok (.add 4 3 3) ∧ decode 0x10429803 = .ok (.div 4 5 6) ∧ decode 0x1242C20B = .ok (.ext 4 5 8 11) ∧
  decode 0x2051C802 = .ok (.ldI 5 3 2 2) ∧ decode 0x2471E800 = .ok (.ldsC 7 3 0) ∧
  decode 0x26515501 = .ok (.amoMax 5 2 2 1 1) ∧ decode 0x2A980000 = .ok (.fence 2 3) ∧
  decode 0x2E223980 = .ok (.vscat 1 2 3 1 2) ∧ decode 0x3E5FFFFC = .ok (.jal 5 0xFFFFC) ∧
  decode 0x424299C1 = .ok (.fcmp 4 5 6 0 1) ∧ decode 0x48246052 = .ok (.vmulFloat 1 2 3 1 2) ∧
  decode 0x4E241002 = .ok (.vred 1 2 8 0 2) ∧ decode 0x500A6000 = .ok (.mand 1 2 3) ∧
  decode 0x56A26000 = .ok (.chbind 2 1 0 3) ∧ decode 0x5890A030 = .ok (.capt 2 8 2 1 0x30) ∧
  decode 0x5EA09480 = .ok (.awaitv 4 2 5 1) ∧ decode 0x60C8C000 = .ok (.bara 4 3) ∧
  decode 0x62124280 = .ok (.efork 9 4 5) ∧ decode 0x645C0260 = .ok (.cswr 14 0x013) ∧ decode 0x65CA0000 = .ok (.tlbinv 5)

/-- R304 to R329: every well-formed instruction that a word encodes is read back from its word, with the switch marker
clear or set, with every operand at every value. -/
def Obligations.EncodeDecode : Prop :=
  ∀ (mark : BitVec 1) (i : Instr), i.isWord = true → i.wf = true → decode (encode mark i) = .ok i

/-- R263, R268: whatever step the machine takes, every core's duty stays from 1 to 16. Where the spec leaves a point of
this open, it is the model's choice: log 2. -/
def Obligations.DutyKept : Prop :=
  ∀ s t : State, s.dutyInRange → step s = .next t → t.dutyInRange

/-- R263: every core's duty is 16 at reset. -/
def Obligations.DutyAtReset : Prop :=
  State.reset.dutyInRange ∧ ∀ c, State.reset.power.dutyOf c = 16

/-- The integer instructions of the pipeline, the divisions, stores to scratchpad words and trap entry (R20, R150, R248)
keep the one canonical form of the model's own representation of memory (log 1, DESIGN CHOICE), so that equal memories
stay equal data. Where the spec leaves a point of this open, it is the model's choice: log 7, 61, 74. -/
def Obligations.CanonicalMemoryKept : Prop :=
  (∀ (s t : State) (d a b c : BitVec 5) (imm : BitVec 15) (n p q : BitVec 6) (h : BitVec 2) (g : BitVec 16) (i : Instr),
    Memory.wf s.m.mem →
    i ∈ [.add d a b, .sub d a b, .and d a b, .or d a b, .xor d a b, .shl d a b, .shr d a b, .sha d a b, .slt d a b,
         .sltN64 d a b, .min d a b, .minN64 d a b, .max d a b, .maxN64 d a b, .mul d a b, .mulh d a b, .mulhN64 d a b,
         .sel d a b c, .addi d a imm, .andi d a imm, .ori d a imm, .xori d a imm, .slti d a imm, .shlImm d a n,
         .shrImm d a n, .shaImm d a n, .clz d a, .popc d a, .ext d a p q, .extI64 d a p q, .ins d a p q, .lic d h g, .licZ d h g,
         .div d a b, .divN64 d a b, .rem d a b, .remN64 d a b] →
    exec i s = .next t → Memory.wf t.m.mem) ∧
  (∀ (m : Mach) (c x : Nat) (bytes : List (Nat × Byte)) (t : Trap) (pc : Word), Memory.wf m.mem →
    Memory.wf (m.storeScratch bytes).mem ∧ Memory.wf (m.storeOwn c bytes).mem ∧ Memory.wf (m.settleOwn c).mem ∧
    Memory.wf (m.enterTrap c x t pc).mem)
end

