-- ==== Sys2Proof/Laws/Alu.lean ====
section
/-!
SUPPORT. The bit-level facts of the scalar operations: fields, counts and extensions.
-/
namespace Sys2Proof.Machine

/-- The bits of a field mask. -/
theorem getLsbD_fieldMask (pos len i : Nat) : (fieldMask pos len).getLsbD i = (decide (i < 64) && decide (pos ≤ i) && decide (i < pos + len)) := by
  simp only [fieldMask, BitVec.getLsbD_shiftLeft, BitVec.getLsbD_ofNat, Nat.testBit_two_pow_sub_one]
  by_cases h1 : i < 64 <;> by_cases h2 : pos ≤ i <;> by_cases h3 : i < pos + len <;> simp [h1, h2, h3] <;> omega

/-- The bits of an extracted field. -/
theorem extract_bits (x : Word) (p l i : Nat) (h : p + l + 1 ≤ 64) : (extract x p (l+1)).getLsbD i = (decide (i ≤ l) && x.getLsbD (p + i)) := by
  simp only [extract, BitVec.getLsbD_and, BitVec.getLsbD_ushiftRight, getLsbD_fieldMask]
  by_cases h3 : i ≤ l
  · have : i < 64 := by omega
    have : i < 0 + (l+1) := by omega
    simp [*]
  · have : ¬ i < 0 + (l+1) := by omega
    simp [*]

/-- The bits of a sign-extended field. -/
theorem extractS_bits (x : Word) (p l i : Nat) (h : p + l + 1 ≤ 64) (hi : i < 64) : (extractS x p (l+1)).getLsbD i = x.getLsbD (p + min i l) := by
  simp only [extractS, BitVec.getLsbD_sshiftRight, BitVec.getLsbD_shiftLeft, BitVec.msb_eq_getLsbD_last]
  have e1 : ¬ 64 ≤ i := by omega
  simp only [e1, decide_false, Bool.not_false, Bool.true_and]
  by_cases h3 : i ≤ l
  · rw [if_pos (by omega), Nat.min_eq_left h3]
    have h4 : 64 - (l+1) + i < 64 := by omega
    have h5 : ¬ 64 - (l+1) + i < 64 - p - (l+1) := by omega
    have h6 : 64 - (l+1) + i - (64 - p - (l+1)) = p + i := by omega
    simp only [h4, h5, h6, decide_true, decide_false, Bool.not_false, Bool.true_and]
  · rw [if_neg (by omega), Nat.min_eq_right (by omega)]
    have h5 : ¬ 64 - 1 < 64 - p - (l+1) := by omega
    have h6 : 64 - 1 - (64 - p - (l+1)) = p + l := by omega
    simp only [h5, h6]; simp

/-- The bits after a field was inserted. -/
theorem insert_bits (x y : Word) (p l i : Nat) (h : p + l + 1 ≤ 64) : (Machine.insert x y p (l+1)).getLsbD i = if p ≤ i ∧ i ≤ p + l then x.getLsbD (i - p) else y.getLsbD i := by
  simp only [Machine.insert, BitVec.getLsbD_or, BitVec.getLsbD_and, BitVec.getLsbD_not, getLsbD_fieldMask, BitVec.getLsbD_shiftLeft]
  by_cases hi : i < 64
  · by_cases h1 : p ≤ i
    · by_cases h2 : i ≤ p + l
      · have : i < p + (l+1) := by omega
        have : ¬ i < p := by omega
        simp [*]
      · have : ¬ i < p + (l+1) := by omega
        simp [*]
    · simp [*]
  · have h1 : ¬ (p ≤ i ∧ i ≤ p + l) := by omega
    rw [if_neg h1]
    simp [hi, BitVec.getLsbD_of_ge y i (by omega)]

/-- At most as many zeros as bits looked at. -/
theorem leadingZeros_le (x : Word) (n : Nat) : leadingZeros x n ≤ n := by
  induction n with
  | zero => simp [leadingZeros]
  | succ n ih => simp only [leadingZeros]; split <;> omega

/-- The counted bits are zero. -/
theorem leadingZeros_zero (x : Word) (n i : Nat) (h : n - leadingZeros x n ≤ i) (hi : i < n) : x.getLsbD i = false := by
  induction n with
  | zero => omega
  | succ n ih =>
    simp only [leadingZeros] at h
    split at h
    · omega
    · rename_i hx
      have := leadingZeros_le x n
      by_cases e : i = n
      · subst e; simpa using hx
      · exact ih (by omega) (by omega)

/-- The bit below the counted ones is set. -/
theorem leadingZeros_one (x : Word) (n : Nat) (h : leadingZeros x n < n) : x.getLsbD (n - 1 - leadingZeros x n) = true := by
  induction n with
  | zero => omega
  | succ n ih =>
    simp only [leadingZeros] at h ⊢
    split
    · rename_i hx; simpa using hx
    · rename_i hx
      rw [if_neg hx] at h
      have := ih (by omega)
      have e : n + 1 - 1 - (1 + leadingZeros x n) = n - 1 - leadingZeros x n := by omega
      rwa [e]

/-- Counting over one more number. -/
theorem countP_range_succ (p : Nat → Bool) (n : Nat) : (List.range (n+1)).countP p = (if p 0 then 1 else 0) + (List.range n).countP (fun i => p (i+1)) := by
  rw [List.range_succ_eq_map, List.countP_cons, List.countP_map]
  rw [Nat.add_comm]; rfl

/-- The number of set bits among the first n. -/
theorem bitCount_eq (n v : Nat) : bitCount n v = (List.range n).countP (fun i => v.testBit i) := by
  induction n generalizing v with
  | zero => rfl
  | succ n ih =>
    rw [countP_range_succ, bitCount, ih]
    congr 1
    · rcases Nat.mod_two_eq_zero_or_one v with h | h <;> simp [Nat.testBit_zero, h]
    · congr 1; funext i; rw [Nat.testBit_succ]

/-- A sign extension is the number it stands for. -/
theorem signExtend_eq (imm : BitVec 15) : signExtend 15 imm = BitVec.ofInt 64 imm.toInt := rfl

/-- A zero extension is the number it stands for. -/
theorem zeroExtend_eq (imm : BitVec 15) : zeroExtend 15 imm = BitVec.ofNat 64 imm.toNat := by
  apply BitVec.eq_of_toNat_eq; simp [zeroExtend]

/-- The number of a sign-extended field is the field's. -/
theorem sx15int (imm : BitVec 15) : (signExtend 15 imm).toInt = imm.toInt := by
  simp [signExtend, BitVec.toInt_signExtend_of_le]

/-- A scaled displacement. -/
theorem signExtend_mul11 (i : BitVec 11) (n : Nat) : signExtend 11 i * BitVec.ofNat 64 n = BitVec.ofInt 64 (i.toInt * n) := by
  rw [BitVec.ofInt_mul, signExtend]; rfl

end Sys2Proof.Machine
end

