-- ==== Sys2Proof/Laws/Memory.lean ====
section
/-!
SUPPORT. Laws of tables, of rising number lists and of memory as bytes by key: a read after a write, and the canonical
form, which every memory operation keeps.
-/
namespace Sys2Proof.Machine

/-! ### Tables -/

@[simp] theorem Table.find_set_self {α : Type} (t : Table α) (n : Nat) (v : α) : Table.find (Table.set t n v) n = some v := by
  induction t with
  | nil => simp [Table.set, Table.find]
  | cons e t ih =>
    simp only [Table.set]
    split
    · rename_i h; simp [Table.find, h, Nat.ne_of_lt h, ih]
    · split <;> simp [Table.find]

theorem Table.find_set_ne {α : Type} (t : Table α) {n k : Nat} (v : α) (h : k ≠ n) :
    Table.find (Table.set t n v) k = Table.find t k := by
  induction t with
  | nil => simp [Table.set, Table.find, Ne.symm h]
  | cons e t ih =>
    obtain ⟨a, w⟩ := e
    simp only [Table.set]
    split
    · simp [Table.find, ih]
    · rename_i h1
      split
      · rename_i h2; subst h2; simp [Table.find, Ne.symm h]
      · rename_i h2
        simp only [Table.find, Ne.symm h, if_false]
        split
        · rfl
        · rename_i h3
          have : ¬ a < k := by omega
          have : a ≠ k := by omega
          simp [*]

@[simp] theorem Table.get_set_self {α : Type} (t : Table α) (n : Nat) (v d : α) : Table.get (Table.set t n v) n d = v := by
  simp [Table.get]

theorem Table.get_set_ne {α : Type} (t : Table α) {n k : Nat} (v d : α) (h : k ≠ n) :
    Table.get (Table.set t n v) k d = Table.get t k d := by
  simp [Table.get, Table.find_set_ne t v h]

/-! ### Rising number lists -/

@[simp] theorem mem_insertNat (l : List Nat) (n k : Nat) : k ∈ insertNat l n ↔ k = n ∨ k ∈ l := by
  induction l with
  | nil => simp [insertNat]
  | cons a t ih =>
    simp only [insertNat]
    split
    · simp [ih]; tauto
    · split
      · rename_i h; subst h; simp
      · simp

@[simp] theorem mem_eraseNat (l : List Nat) (n k : Nat) : k ∈ eraseNat l n ↔ k ≠ n ∧ k ∈ l := by
  simp [eraseNat]; tauto

/-! ### One byte -/

theorem Mem.get_filter_ne (l : List Host.Cell) {k a : Nat} (h : a ≠ k) : Mem.get (l.filter (fun c => c.1 != k)) a = Mem.get l a := by
  induction l with
  | nil => rfl
  | cons c t ih =>
    by_cases hc : c.1 = k
    · simp [hc, Mem.get, ih, Ne.symm h]
    · simp [hc, Mem.get, ih]

theorem Mem.get_filter_self (l : List Host.Cell) (k : Nat) : Mem.get (l.filter (fun c => c.1 != k)) k = 0 := by
  induction l with
  | nil => rfl
  | cons c t ih =>
    by_cases hc : c.1 = k
    · simp [hc, ih]
    · simp [hc, Mem.get, ih]

theorem Mem.get_place_ne (l : List Host.Cell) {k a : Nat} (v : Byte) (h : a ≠ k) : Mem.get (Mem.place l k v) a = Mem.get l a := by
  induction l with
  | nil => simp [Mem.place, Mem.get, Ne.symm h]
  | cons c t ih =>
    simp only [Mem.place]
    split <;> simp [Mem.get, ih, Ne.symm h]

theorem Mem.get_place_self (l : List Host.Cell) {k : Nat} (v : Byte) (h : ∀ c ∈ l, c.1 ≠ k) : Mem.get (Mem.place l k v) k = v := by
  induction l with
  | nil => simp [Mem.place, Mem.get]
  | cons c t ih =>
    simp only [Mem.place]
    have h1 : c.1 ≠ k := h c (by simp)
    split
    · simp [Mem.get, h1, ih (fun c hc => h c (by simp [hc]))]
    · simp [Mem.get]

/-- A read after a write gives the byte written. -/
@[simp] theorem Mem.get_set_self (l : List Host.Cell) (k : Nat) (v : Byte) : Mem.get (Mem.set l k v) k = v := by
  simp only [Mem.set]
  split
  · rename_i h; rw [Mem.get_filter_self, h]
  · exact Mem.get_place_self _ v (by simp)

/-- A write leaves every other byte as it was. -/
theorem Mem.get_set_ne (l : List Host.Cell) {k a : Nat} (v : Byte) (h : a ≠ k) : Mem.get (Mem.set l k v) a = Mem.get l a := by
  simp only [Mem.set]
  split
  · exact Mem.get_filter_ne l h
  · rw [Mem.get_place_ne _ v h, Mem.get_filter_ne l h]

/-! ### Several bytes -/

theorem Mem.get_write_out (l : List Host.Cell) (k n v a : Nat) (h : a < k ∨ k + n ≤ a) :
    Mem.get (Mem.write l k n v) a = Mem.get l a := by
  induction n generalizing l k v with
  | zero => rfl
  | succ n ih =>
    simp only [Mem.write]
    rw [ih _ _ _ (by omega), Mem.get_set_ne _ _ (by omega)]

theorem Mem.read_write_out (l : List Host.Cell) (k n v a j : Nat) (h : a + j ≤ k ∨ k + n ≤ a) :
    Mem.read (Mem.write l k n v) a j = Mem.read l a j := by
  induction j generalizing a with
  | zero => rfl
  | succ j ih =>
    simp only [Mem.read]
    rw [ih _ (by omega), Mem.get_write_out _ _ _ _ _ (by omega)]

theorem Mem.read_set_out (l : List Host.Cell) (k a j : Nat) (v : Byte) (h : k < a ∨ a + j ≤ k) :
    Mem.read (Mem.set l k v) a j = Mem.read l a j := by
  induction j generalizing a with
  | zero => rfl
  | succ j ih =>
    simp only [Mem.read]
    rw [ih _ (by omega), Mem.get_set_ne _ _ (by omega)]

theorem Mem.read_write_self (l : List Host.Cell) (k n v : Nat) : Mem.read (Mem.write l k n v) k n = v % 256 ^ n := by
  induction n generalizing l k v with
  | zero => simp [Mem.read, Nat.mod_one]
  | succ n ih =>
    simp only [Mem.write, Mem.read]
    rw [ih, Mem.get_write_out _ _ _ _ _ (by omega), Mem.get_set_self]
    rw [Nat.pow_succ, Nat.mul_comm (256 ^ n), Nat.mod_mul]
    simp

theorem Mem.get_writeAll_out (l : List Host.Cell) (ps : List (Nat × Byte)) (a : Nat) (h : ∀ p ∈ ps, p.1 ≠ a) :
    Mem.get (Mem.writeAll l ps) a = Mem.get l a := by
  induction ps generalizing l with
  | nil => rfl
  | cons p t ih =>
    obtain ⟨k, b⟩ := p
    simp only [Mem.writeAll]
    rw [ih _ (fun q hq => h q (by simp [hq])), Mem.get_set_ne _ _ (Ne.symm (h (k, b) (by simp)))]

theorem Mem.get_clear (l : List Host.Cell) (k n a : Nat) :
    Mem.get (Mem.clear l k n) a = if k ≤ a ∧ a < k + n then 0 else Mem.get l a := by
  induction l with
  | nil => simp [Mem.clear, Mem.get]
  | cons c t ih =>
    simp only [Mem.clear] at ih ⊢
    by_cases hc : k ≤ c.1 ∧ c.1 < k + n
    · rw [List.filter_cons_of_neg (by simp [hc])]
      rw [ih]
      by_cases ha : c.1 = a
      · subst ha; simp [hc]
      · simp [Mem.get, ha]
    · rw [List.filter_cons_of_pos (by simp; omega)]
      simp only [Mem.get, ih]
      by_cases ha : c.1 = a
      · subst ha; simp [hc]
      · simp [ha]

/-! ### The canonical form -/

theorem Memory.wfFrom_mono {lo lo' : Nat} (h : lo' ≤ lo) {l : List Host.Cell} (hl : Memory.wfFrom lo l) :
    Memory.wfFrom lo' l := by
  cases l with
  | nil => rfl
  | cons c t => simp only [Memory.wfFrom, Bool.and_eq_true, decide_eq_true_eq] at hl ⊢; exact ⟨⟨by omega, hl.1.2⟩, hl.2⟩

theorem Memory.wfFrom_filter (p : Host.Cell → Bool) {lo : Nat} {l : List Host.Cell} (h : Memory.wfFrom lo l) :
    Memory.wfFrom lo (l.filter p) := by
  induction l generalizing lo with
  | nil => rfl
  | cons c t ih =>
    simp only [Memory.wfFrom, Bool.and_eq_true, decide_eq_true_eq] at h
    by_cases hp : p c
    · rw [List.filter_cons_of_pos hp]
      simp [Memory.wfFrom, h.1.1, ih h.2]
      simpa using h.1.2
    · rw [List.filter_cons_of_neg hp]
      exact Memory.wfFrom_mono (by omega) (ih h.2)

theorem Memory.wfFrom_place {lo : Nat} {l : List Host.Cell} {k : Nat} {v : Byte} (h : Memory.wfFrom lo l) (hk : ∀ c ∈ l, c.1 ≠ k)
    (hl : lo ≤ k) (hv : v ≠ 0) : Memory.wfFrom lo (Mem.place l k v) := by
  induction l generalizing lo with
  | nil => simpa [Mem.place, Memory.wfFrom, hl] using hv
  | cons c t ih =>
    simp only [Memory.wfFrom, Bool.and_eq_true, decide_eq_true_eq] at h
    have h1 := hk c (by simp)
    simp only [Mem.place]
    split
    · rename_i h2
      simp only [Memory.wfFrom, Bool.and_eq_true, decide_eq_true_eq]
      exact ⟨h.1, ih h.2 (fun c hc => hk c (by simp [hc])) (by omega)⟩
    · simp only [Memory.wfFrom, Bool.and_eq_true, decide_eq_true_eq]
      exact ⟨⟨hl, by simpa using hv⟩, ⟨by omega, h.1.2⟩, h.2⟩

theorem Memory.wf_set {l : List Host.Cell} (h : Memory.wf l) (k : Nat) (v : Byte) : Memory.wf (Mem.set l k v) := by
  simp only [Mem.set]
  split
  · exact Memory.wfFrom_filter _ h
  · rename_i hv
    exact Memory.wfFrom_place (Memory.wfFrom_filter _ h) (by simp) (Nat.zero_le _) hv

theorem Memory.wf_write {l : List Host.Cell} (h : Memory.wf l) (k n v : Nat) : Memory.wf (Mem.write l k n v) := by
  induction n generalizing l k v with
  | zero => exact h
  | succ n ih => exact ih (Memory.wf_set h _ _) _ _

theorem Memory.wf_writeAll {l : List Host.Cell} (h : Memory.wf l) (ps : List (Nat × Byte)) : Memory.wf (Mem.writeAll l ps) := by
  induction ps generalizing l with
  | nil => exact h
  | cons p t ih => exact ih (Memory.wf_set h _ _)

theorem Memory.wf_clear {l : List Host.Cell} (h : Memory.wf l) (k n : Nat) : Memory.wf (Mem.clear l k n) :=
  Memory.wfFrom_filter _ h

theorem Memory.wf_copy {l : List Host.Cell} (h : Memory.wf l) (src dst n : Nat) : Memory.wf (Mem.copy l src dst n) :=
  Memory.wf_writeAll (Memory.wf_clear h _ _) _

theorem Memory.wf_reset : Memory.wf State.reset.m.mem := rfl

end Sys2Proof.Machine
end

