-- ==== Sys2Proof/Laws/State.lean ====
section
/-!
SUPPORT. One lemma per field and update of the state: a field that an update does not name is as it was; and reading a
unit after an update of one.
-/
namespace Sys2Proof.Machine

/-! ### `Mach.write` -/

@[simp] theorem Mach.write_cur (m : Mach) (k n v : Nat) : (m.write k n v).cur = m.cur := rfl
@[simp] theorem Mach.write_now (m : Mach) (k n v : Nat) : (m.write k n v).now = m.now := rfl
@[simp] theorem Mach.write_empties (m : Mach) (k n v : Nat) : (m.write k n v).empties = m.empties := rfl
@[simp] theorem Mach.write_ownStores (m : Mach) (k n v : Nat) : (m.write k n v).ownStores = m.ownStores := rfl
@[simp] theorem Mach.write_cores (m : Mach) (k n v : Nat) : (m.write k n v).cores = m.cores := rfl
@[simp] theorem Mach.write_ctxs (m : Mach) (k n v : Nat) : (m.write k n v).ctxs = m.ctxs := rfl
@[simp] theorem Mach.write_clusters (m : Mach) (k n v : Nat) : (m.write k n v).clusters = m.clusters := rfl
@[simp] theorem Mach.write_slices (m : Mach) (k n v : Nat) : (m.write k n v).slices = m.slices := rfl
@[simp] theorem Mach.write_dies (m : Mach) (k n v : Nat) : (m.write k n v).dies = m.dies := rfl
@[simp] theorem Mach.write_dieParts (m : Mach) (k n v : Nat) : (m.write k n v).dieParts = m.dieParts := rfl
@[simp] theorem Mach.write_parts (m : Mach) (k n v : Nat) : (m.write k n v).parts = m.parts := rfl
@[simp] theorem Mach.write_blocks (m : Mach) (k n v : Nat) : (m.write k n v).blocks = m.blocks := rfl
@[simp] theorem Mach.write_packets (m : Mach) (k n v : Nat) : (m.write k n v).packets = m.packets := rfl
@[simp] theorem Mach.write_closed (m : Mach) (k n v : Nat) : (m.write k n v).closed = m.closed := rfl
@[simp] theorem Mach.write_pends (m : Mach) (k n v : Nat) : (m.write k n v).pends = m.pends := rfl
@[simp] theorem Mach.write_folds (m : Mach) (k n v : Nat) : (m.write k n v).folds = m.folds := rfl
@[simp] theorem Mach.write_foldStores (m : Mach) (k n v : Nat) : (m.write k n v).foldStores = m.foldStores := rfl
@[simp] theorem Mach.write_saved (m : Mach) (k n v : Nat) : (m.write k n v).saved = m.saved := rfl
@[simp] theorem Mach.write_invals (m : Mach) (k n v : Nat) : (m.write k n v).invals = m.invals := rfl
@[simp] theorem Mach.write_nextId (m : Mach) (k n v : Nat) : (m.write k n v).nextId = m.nextId := rfl
@[simp] theorem Mach.write_poisoned (m : Mach) (k n v : Nat) : (m.write k n v).poisoned = m.poisoned := rfl
@[simp] theorem Mach.write_hbmBad (m : Mach) (k n v : Nat) : (m.write k n v).hbmBad = m.hbmBad := rfl
@[simp] theorem Mach.write_l2Bad (m : Mach) (k n v : Nat) : (m.write k n v).l2Bad = m.l2Bad := rfl
@[simp] theorem Mach.write_framePoisoned (m : Mach) (k n v : Nat) : (m.write k n v).framePoisoned = m.framePoisoned := rfl
@[simp] theorem Mach.write_frameBad (m : Mach) (k n v : Nat) : (m.write k n v).frameBad = m.frameBad := rfl
@[simp] theorem Mach.write_scratchBad (m : Mach) (k n v : Nat) : (m.write k n v).scratchBad = m.scratchBad := rfl
@[simp] theorem Mach.write_l1Bad (m : Mach) (k n v : Nat) : (m.write k n v).l1Bad = m.l1Bad := rfl
@[simp] theorem Mach.write_peers (m : Mach) (k n v : Nat) : (m.write k n v).peers = m.peers := rfl
@[simp] theorem Mach.write_peersDown (m : Mach) (k n v : Nat) : (m.write k n v).peersDown = m.peersDown := rfl
@[simp] theorem Mach.write_bands (m : Mach) (k n v : Nat) : (m.write k n v).bands = m.bands := rfl
@[simp] theorem Mach.write_image (m : Mach) (k n v : Nat) : (m.write k n v).image = m.image := rfl
@[simp] theorem Mach.write_nextImage (m : Mach) (k n v : Nat) : (m.write k n v).nextImage = m.nextImage := rfl
@[simp] theorem Mach.write_spdm (m : Mach) (k n v : Nat) : (m.write k n v).spdm = m.spdm := rfl
@[simp] theorem Mach.write_vectorIssues (m : Mach) (k n v : Nat) : (m.write k n v).vectorIssues = m.vectorIssues := rfl
@[simp] theorem Mach.write_matrixRan (m : Mach) (k n v : Nat) : (m.write k n v).matrixRan = m.matrixRan := rfl
@[simp] theorem Mach.write_free (m : Mach) (k n v : Nat) : (m.write k n v).free = m.free := rfl

/-! ### `Mach.fill` -/

@[simp] theorem Mach.fill_cur (m : Mach) (k : Nat) : (m.fill k).cur = m.cur := rfl
@[simp] theorem Mach.fill_now (m : Mach) (k : Nat) : (m.fill k).now = m.now := rfl
@[simp] theorem Mach.fill_mem (m : Mach) (k : Nat) : (m.fill k).mem = m.mem := rfl
@[simp] theorem Mach.fill_ownStores (m : Mach) (k : Nat) : (m.fill k).ownStores = m.ownStores := rfl
@[simp] theorem Mach.fill_cores (m : Mach) (k : Nat) : (m.fill k).cores = m.cores := rfl
@[simp] theorem Mach.fill_ctxs (m : Mach) (k : Nat) : (m.fill k).ctxs = m.ctxs := rfl
@[simp] theorem Mach.fill_clusters (m : Mach) (k : Nat) : (m.fill k).clusters = m.clusters := rfl
@[simp] theorem Mach.fill_slices (m : Mach) (k : Nat) : (m.fill k).slices = m.slices := rfl
@[simp] theorem Mach.fill_dies (m : Mach) (k : Nat) : (m.fill k).dies = m.dies := rfl
@[simp] theorem Mach.fill_dieParts (m : Mach) (k : Nat) : (m.fill k).dieParts = m.dieParts := rfl
@[simp] theorem Mach.fill_parts (m : Mach) (k : Nat) : (m.fill k).parts = m.parts := rfl
@[simp] theorem Mach.fill_blocks (m : Mach) (k : Nat) : (m.fill k).blocks = m.blocks := rfl
@[simp] theorem Mach.fill_packets (m : Mach) (k : Nat) : (m.fill k).packets = m.packets := rfl
@[simp] theorem Mach.fill_closed (m : Mach) (k : Nat) : (m.fill k).closed = m.closed := rfl
@[simp] theorem Mach.fill_pends (m : Mach) (k : Nat) : (m.fill k).pends = m.pends := rfl
@[simp] theorem Mach.fill_folds (m : Mach) (k : Nat) : (m.fill k).folds = m.folds := rfl
@[simp] theorem Mach.fill_foldStores (m : Mach) (k : Nat) : (m.fill k).foldStores = m.foldStores := rfl
@[simp] theorem Mach.fill_saved (m : Mach) (k : Nat) : (m.fill k).saved = m.saved := rfl
@[simp] theorem Mach.fill_invals (m : Mach) (k : Nat) : (m.fill k).invals = m.invals := rfl
@[simp] theorem Mach.fill_nextId (m : Mach) (k : Nat) : (m.fill k).nextId = m.nextId := rfl
@[simp] theorem Mach.fill_poisoned (m : Mach) (k : Nat) : (m.fill k).poisoned = m.poisoned := rfl
@[simp] theorem Mach.fill_hbmBad (m : Mach) (k : Nat) : (m.fill k).hbmBad = m.hbmBad := rfl
@[simp] theorem Mach.fill_l2Bad (m : Mach) (k : Nat) : (m.fill k).l2Bad = m.l2Bad := rfl
@[simp] theorem Mach.fill_framePoisoned (m : Mach) (k : Nat) : (m.fill k).framePoisoned = m.framePoisoned := rfl
@[simp] theorem Mach.fill_frameBad (m : Mach) (k : Nat) : (m.fill k).frameBad = m.frameBad := rfl
@[simp] theorem Mach.fill_scratchBad (m : Mach) (k : Nat) : (m.fill k).scratchBad = m.scratchBad := rfl
@[simp] theorem Mach.fill_l1Bad (m : Mach) (k : Nat) : (m.fill k).l1Bad = m.l1Bad := rfl
@[simp] theorem Mach.fill_peers (m : Mach) (k : Nat) : (m.fill k).peers = m.peers := rfl
@[simp] theorem Mach.fill_peersDown (m : Mach) (k : Nat) : (m.fill k).peersDown = m.peersDown := rfl
@[simp] theorem Mach.fill_bands (m : Mach) (k : Nat) : (m.fill k).bands = m.bands := rfl
@[simp] theorem Mach.fill_image (m : Mach) (k : Nat) : (m.fill k).image = m.image := rfl
@[simp] theorem Mach.fill_nextImage (m : Mach) (k : Nat) : (m.fill k).nextImage = m.nextImage := rfl
@[simp] theorem Mach.fill_spdm (m : Mach) (k : Nat) : (m.fill k).spdm = m.spdm := rfl
@[simp] theorem Mach.fill_vectorIssues (m : Mach) (k : Nat) : (m.fill k).vectorIssues = m.vectorIssues := rfl
@[simp] theorem Mach.fill_matrixRan (m : Mach) (k : Nat) : (m.fill k).matrixRan = m.matrixRan := rfl
@[simp] theorem Mach.fill_free (m : Mach) (k : Nat) : (m.fill k).free = m.free := rfl

/-! ### `Mach.empty` -/

@[simp] theorem Mach.empty_cur (m : Mach) (k : Nat) : (m.empty k).cur = m.cur := rfl
@[simp] theorem Mach.empty_now (m : Mach) (k : Nat) : (m.empty k).now = m.now := rfl
@[simp] theorem Mach.empty_mem (m : Mach) (k : Nat) : (m.empty k).mem = m.mem := rfl
@[simp] theorem Mach.empty_ownStores (m : Mach) (k : Nat) : (m.empty k).ownStores = m.ownStores := rfl
@[simp] theorem Mach.empty_cores (m : Mach) (k : Nat) : (m.empty k).cores = m.cores := rfl
@[simp] theorem Mach.empty_ctxs (m : Mach) (k : Nat) : (m.empty k).ctxs = m.ctxs := rfl
@[simp] theorem Mach.empty_clusters (m : Mach) (k : Nat) : (m.empty k).clusters = m.clusters := rfl
@[simp] theorem Mach.empty_slices (m : Mach) (k : Nat) : (m.empty k).slices = m.slices := rfl
@[simp] theorem Mach.empty_dies (m : Mach) (k : Nat) : (m.empty k).dies = m.dies := rfl
@[simp] theorem Mach.empty_dieParts (m : Mach) (k : Nat) : (m.empty k).dieParts = m.dieParts := rfl
@[simp] theorem Mach.empty_parts (m : Mach) (k : Nat) : (m.empty k).parts = m.parts := rfl
@[simp] theorem Mach.empty_blocks (m : Mach) (k : Nat) : (m.empty k).blocks = m.blocks := rfl
@[simp] theorem Mach.empty_packets (m : Mach) (k : Nat) : (m.empty k).packets = m.packets := rfl
@[simp] theorem Mach.empty_closed (m : Mach) (k : Nat) : (m.empty k).closed = m.closed := rfl
@[simp] theorem Mach.empty_pends (m : Mach) (k : Nat) : (m.empty k).pends = m.pends := rfl
@[simp] theorem Mach.empty_folds (m : Mach) (k : Nat) : (m.empty k).folds = m.folds := rfl
@[simp] theorem Mach.empty_foldStores (m : Mach) (k : Nat) : (m.empty k).foldStores = m.foldStores := rfl
@[simp] theorem Mach.empty_saved (m : Mach) (k : Nat) : (m.empty k).saved = m.saved := rfl
@[simp] theorem Mach.empty_invals (m : Mach) (k : Nat) : (m.empty k).invals = m.invals := rfl
@[simp] theorem Mach.empty_nextId (m : Mach) (k : Nat) : (m.empty k).nextId = m.nextId := rfl
@[simp] theorem Mach.empty_poisoned (m : Mach) (k : Nat) : (m.empty k).poisoned = m.poisoned := rfl
@[simp] theorem Mach.empty_hbmBad (m : Mach) (k : Nat) : (m.empty k).hbmBad = m.hbmBad := rfl
@[simp] theorem Mach.empty_l2Bad (m : Mach) (k : Nat) : (m.empty k).l2Bad = m.l2Bad := rfl
@[simp] theorem Mach.empty_framePoisoned (m : Mach) (k : Nat) : (m.empty k).framePoisoned = m.framePoisoned := rfl
@[simp] theorem Mach.empty_frameBad (m : Mach) (k : Nat) : (m.empty k).frameBad = m.frameBad := rfl
@[simp] theorem Mach.empty_scratchBad (m : Mach) (k : Nat) : (m.empty k).scratchBad = m.scratchBad := rfl
@[simp] theorem Mach.empty_l1Bad (m : Mach) (k : Nat) : (m.empty k).l1Bad = m.l1Bad := rfl
@[simp] theorem Mach.empty_peers (m : Mach) (k : Nat) : (m.empty k).peers = m.peers := rfl
@[simp] theorem Mach.empty_peersDown (m : Mach) (k : Nat) : (m.empty k).peersDown = m.peersDown := rfl
@[simp] theorem Mach.empty_bands (m : Mach) (k : Nat) : (m.empty k).bands = m.bands := rfl
@[simp] theorem Mach.empty_image (m : Mach) (k : Nat) : (m.empty k).image = m.image := rfl
@[simp] theorem Mach.empty_nextImage (m : Mach) (k : Nat) : (m.empty k).nextImage = m.nextImage := rfl
@[simp] theorem Mach.empty_spdm (m : Mach) (k : Nat) : (m.empty k).spdm = m.spdm := rfl
@[simp] theorem Mach.empty_vectorIssues (m : Mach) (k : Nat) : (m.empty k).vectorIssues = m.vectorIssues := rfl
@[simp] theorem Mach.empty_matrixRan (m : Mach) (k : Nat) : (m.empty k).matrixRan = m.matrixRan := rfl
@[simp] theorem Mach.empty_free (m : Mach) (k : Nat) : (m.empty k).free = m.free := rfl

/-! ### `Mach.setCtx` -/

@[simp] theorem Mach.setCtx_cur (m : Mach) (c x : Nat) (v : Ctx) : (m.setCtx c x v).cur = m.cur := rfl
@[simp] theorem Mach.setCtx_now (m : Mach) (c x : Nat) (v : Ctx) : (m.setCtx c x v).now = m.now := rfl
@[simp] theorem Mach.setCtx_mem (m : Mach) (c x : Nat) (v : Ctx) : (m.setCtx c x v).mem = m.mem := rfl
@[simp] theorem Mach.setCtx_empties (m : Mach) (c x : Nat) (v : Ctx) : (m.setCtx c x v).empties = m.empties := rfl
@[simp] theorem Mach.setCtx_ownStores (m : Mach) (c x : Nat) (v : Ctx) : (m.setCtx c x v).ownStores = m.ownStores := rfl
@[simp] theorem Mach.setCtx_cores (m : Mach) (c x : Nat) (v : Ctx) : (m.setCtx c x v).cores = m.cores := rfl
@[simp] theorem Mach.setCtx_clusters (m : Mach) (c x : Nat) (v : Ctx) : (m.setCtx c x v).clusters = m.clusters := rfl
@[simp] theorem Mach.setCtx_slices (m : Mach) (c x : Nat) (v : Ctx) : (m.setCtx c x v).slices = m.slices := rfl
@[simp] theorem Mach.setCtx_dies (m : Mach) (c x : Nat) (v : Ctx) : (m.setCtx c x v).dies = m.dies := rfl
@[simp] theorem Mach.setCtx_dieParts (m : Mach) (c x : Nat) (v : Ctx) : (m.setCtx c x v).dieParts = m.dieParts := rfl
@[simp] theorem Mach.setCtx_parts (m : Mach) (c x : Nat) (v : Ctx) : (m.setCtx c x v).parts = m.parts := rfl
@[simp] theorem Mach.setCtx_blocks (m : Mach) (c x : Nat) (v : Ctx) : (m.setCtx c x v).blocks = m.blocks := rfl
@[simp] theorem Mach.setCtx_packets (m : Mach) (c x : Nat) (v : Ctx) : (m.setCtx c x v).packets = m.packets := rfl
@[simp] theorem Mach.setCtx_closed (m : Mach) (c x : Nat) (v : Ctx) : (m.setCtx c x v).closed = m.closed := rfl
@[simp] theorem Mach.setCtx_pends (m : Mach) (c x : Nat) (v : Ctx) : (m.setCtx c x v).pends = m.pends := rfl
@[simp] theorem Mach.setCtx_folds (m : Mach) (c x : Nat) (v : Ctx) : (m.setCtx c x v).folds = m.folds := rfl
@[simp] theorem Mach.setCtx_foldStores (m : Mach) (c x : Nat) (v : Ctx) : (m.setCtx c x v).foldStores = m.foldStores := rfl
@[simp] theorem Mach.setCtx_saved (m : Mach) (c x : Nat) (v : Ctx) : (m.setCtx c x v).saved = m.saved := rfl
@[simp] theorem Mach.setCtx_invals (m : Mach) (c x : Nat) (v : Ctx) : (m.setCtx c x v).invals = m.invals := rfl
@[simp] theorem Mach.setCtx_nextId (m : Mach) (c x : Nat) (v : Ctx) : (m.setCtx c x v).nextId = m.nextId := rfl
@[simp] theorem Mach.setCtx_poisoned (m : Mach) (c x : Nat) (v : Ctx) : (m.setCtx c x v).poisoned = m.poisoned := rfl
@[simp] theorem Mach.setCtx_hbmBad (m : Mach) (c x : Nat) (v : Ctx) : (m.setCtx c x v).hbmBad = m.hbmBad := rfl
@[simp] theorem Mach.setCtx_l2Bad (m : Mach) (c x : Nat) (v : Ctx) : (m.setCtx c x v).l2Bad = m.l2Bad := rfl
@[simp] theorem Mach.setCtx_framePoisoned (m : Mach) (c x : Nat) (v : Ctx) : (m.setCtx c x v).framePoisoned = m.framePoisoned := rfl
@[simp] theorem Mach.setCtx_frameBad (m : Mach) (c x : Nat) (v : Ctx) : (m.setCtx c x v).frameBad = m.frameBad := rfl
@[simp] theorem Mach.setCtx_scratchBad (m : Mach) (c x : Nat) (v : Ctx) : (m.setCtx c x v).scratchBad = m.scratchBad := rfl
@[simp] theorem Mach.setCtx_l1Bad (m : Mach) (c x : Nat) (v : Ctx) : (m.setCtx c x v).l1Bad = m.l1Bad := rfl
@[simp] theorem Mach.setCtx_peers (m : Mach) (c x : Nat) (v : Ctx) : (m.setCtx c x v).peers = m.peers := rfl
@[simp] theorem Mach.setCtx_peersDown (m : Mach) (c x : Nat) (v : Ctx) : (m.setCtx c x v).peersDown = m.peersDown := rfl
@[simp] theorem Mach.setCtx_bands (m : Mach) (c x : Nat) (v : Ctx) : (m.setCtx c x v).bands = m.bands := rfl
@[simp] theorem Mach.setCtx_image (m : Mach) (c x : Nat) (v : Ctx) : (m.setCtx c x v).image = m.image := rfl
@[simp] theorem Mach.setCtx_nextImage (m : Mach) (c x : Nat) (v : Ctx) : (m.setCtx c x v).nextImage = m.nextImage := rfl
@[simp] theorem Mach.setCtx_spdm (m : Mach) (c x : Nat) (v : Ctx) : (m.setCtx c x v).spdm = m.spdm := rfl
@[simp] theorem Mach.setCtx_vectorIssues (m : Mach) (c x : Nat) (v : Ctx) : (m.setCtx c x v).vectorIssues = m.vectorIssues := rfl
@[simp] theorem Mach.setCtx_matrixRan (m : Mach) (c x : Nat) (v : Ctx) : (m.setCtx c x v).matrixRan = m.matrixRan := rfl
@[simp] theorem Mach.setCtx_free (m : Mach) (c x : Nat) (v : Ctx) : (m.setCtx c x v).free = m.free := rfl

/-! ### `Mach.setCore` -/

@[simp] theorem Mach.setCore_cur (m : Mach) (c : Nat) (v : Core) : (m.setCore c v).cur = m.cur := rfl
@[simp] theorem Mach.setCore_now (m : Mach) (c : Nat) (v : Core) : (m.setCore c v).now = m.now := rfl
@[simp] theorem Mach.setCore_mem (m : Mach) (c : Nat) (v : Core) : (m.setCore c v).mem = m.mem := rfl
@[simp] theorem Mach.setCore_empties (m : Mach) (c : Nat) (v : Core) : (m.setCore c v).empties = m.empties := rfl
@[simp] theorem Mach.setCore_ownStores (m : Mach) (c : Nat) (v : Core) : (m.setCore c v).ownStores = m.ownStores := rfl
@[simp] theorem Mach.setCore_ctxs (m : Mach) (c : Nat) (v : Core) : (m.setCore c v).ctxs = m.ctxs := rfl
@[simp] theorem Mach.setCore_clusters (m : Mach) (c : Nat) (v : Core) : (m.setCore c v).clusters = m.clusters := rfl
@[simp] theorem Mach.setCore_slices (m : Mach) (c : Nat) (v : Core) : (m.setCore c v).slices = m.slices := rfl
@[simp] theorem Mach.setCore_dies (m : Mach) (c : Nat) (v : Core) : (m.setCore c v).dies = m.dies := rfl
@[simp] theorem Mach.setCore_dieParts (m : Mach) (c : Nat) (v : Core) : (m.setCore c v).dieParts = m.dieParts := rfl
@[simp] theorem Mach.setCore_parts (m : Mach) (c : Nat) (v : Core) : (m.setCore c v).parts = m.parts := rfl
@[simp] theorem Mach.setCore_blocks (m : Mach) (c : Nat) (v : Core) : (m.setCore c v).blocks = m.blocks := rfl
@[simp] theorem Mach.setCore_packets (m : Mach) (c : Nat) (v : Core) : (m.setCore c v).packets = m.packets := rfl
@[simp] theorem Mach.setCore_closed (m : Mach) (c : Nat) (v : Core) : (m.setCore c v).closed = m.closed := rfl
@[simp] theorem Mach.setCore_pends (m : Mach) (c : Nat) (v : Core) : (m.setCore c v).pends = m.pends := rfl
@[simp] theorem Mach.setCore_folds (m : Mach) (c : Nat) (v : Core) : (m.setCore c v).folds = m.folds := rfl
@[simp] theorem Mach.setCore_foldStores (m : Mach) (c : Nat) (v : Core) : (m.setCore c v).foldStores = m.foldStores := rfl
@[simp] theorem Mach.setCore_saved (m : Mach) (c : Nat) (v : Core) : (m.setCore c v).saved = m.saved := rfl
@[simp] theorem Mach.setCore_invals (m : Mach) (c : Nat) (v : Core) : (m.setCore c v).invals = m.invals := rfl
@[simp] theorem Mach.setCore_nextId (m : Mach) (c : Nat) (v : Core) : (m.setCore c v).nextId = m.nextId := rfl
@[simp] theorem Mach.setCore_poisoned (m : Mach) (c : Nat) (v : Core) : (m.setCore c v).poisoned = m.poisoned := rfl
@[simp] theorem Mach.setCore_hbmBad (m : Mach) (c : Nat) (v : Core) : (m.setCore c v).hbmBad = m.hbmBad := rfl
@[simp] theorem Mach.setCore_l2Bad (m : Mach) (c : Nat) (v : Core) : (m.setCore c v).l2Bad = m.l2Bad := rfl
@[simp] theorem Mach.setCore_framePoisoned (m : Mach) (c : Nat) (v : Core) : (m.setCore c v).framePoisoned = m.framePoisoned := rfl
@[simp] theorem Mach.setCore_frameBad (m : Mach) (c : Nat) (v : Core) : (m.setCore c v).frameBad = m.frameBad := rfl
@[simp] theorem Mach.setCore_scratchBad (m : Mach) (c : Nat) (v : Core) : (m.setCore c v).scratchBad = m.scratchBad := rfl
@[simp] theorem Mach.setCore_l1Bad (m : Mach) (c : Nat) (v : Core) : (m.setCore c v).l1Bad = m.l1Bad := rfl
@[simp] theorem Mach.setCore_peers (m : Mach) (c : Nat) (v : Core) : (m.setCore c v).peers = m.peers := rfl
@[simp] theorem Mach.setCore_peersDown (m : Mach) (c : Nat) (v : Core) : (m.setCore c v).peersDown = m.peersDown := rfl
@[simp] theorem Mach.setCore_bands (m : Mach) (c : Nat) (v : Core) : (m.setCore c v).bands = m.bands := rfl
@[simp] theorem Mach.setCore_image (m : Mach) (c : Nat) (v : Core) : (m.setCore c v).image = m.image := rfl
@[simp] theorem Mach.setCore_nextImage (m : Mach) (c : Nat) (v : Core) : (m.setCore c v).nextImage = m.nextImage := rfl
@[simp] theorem Mach.setCore_spdm (m : Mach) (c : Nat) (v : Core) : (m.setCore c v).spdm = m.spdm := rfl
@[simp] theorem Mach.setCore_vectorIssues (m : Mach) (c : Nat) (v : Core) : (m.setCore c v).vectorIssues = m.vectorIssues := rfl
@[simp] theorem Mach.setCore_matrixRan (m : Mach) (c : Nat) (v : Core) : (m.setCore c v).matrixRan = m.matrixRan := rfl
@[simp] theorem Mach.setCore_free (m : Mach) (c : Nat) (v : Core) : (m.setCore c v).free = m.free := rfl

/-! ### `Mach.setCluster` -/

@[simp] theorem Mach.setCluster_cur (m : Mach) (c : Nat) (v : Cluster) : (m.setCluster c v).cur = m.cur := rfl
@[simp] theorem Mach.setCluster_now (m : Mach) (c : Nat) (v : Cluster) : (m.setCluster c v).now = m.now := rfl
@[simp] theorem Mach.setCluster_mem (m : Mach) (c : Nat) (v : Cluster) : (m.setCluster c v).mem = m.mem := rfl
@[simp] theorem Mach.setCluster_empties (m : Mach) (c : Nat) (v : Cluster) : (m.setCluster c v).empties = m.empties := rfl
@[simp] theorem Mach.setCluster_ownStores (m : Mach) (c : Nat) (v : Cluster) : (m.setCluster c v).ownStores = m.ownStores := rfl
@[simp] theorem Mach.setCluster_cores (m : Mach) (c : Nat) (v : Cluster) : (m.setCluster c v).cores = m.cores := rfl
@[simp] theorem Mach.setCluster_ctxs (m : Mach) (c : Nat) (v : Cluster) : (m.setCluster c v).ctxs = m.ctxs := rfl
@[simp] theorem Mach.setCluster_slices (m : Mach) (c : Nat) (v : Cluster) : (m.setCluster c v).slices = m.slices := rfl
@[simp] theorem Mach.setCluster_dies (m : Mach) (c : Nat) (v : Cluster) : (m.setCluster c v).dies = m.dies := rfl
@[simp] theorem Mach.setCluster_dieParts (m : Mach) (c : Nat) (v : Cluster) : (m.setCluster c v).dieParts = m.dieParts := rfl
@[simp] theorem Mach.setCluster_parts (m : Mach) (c : Nat) (v : Cluster) : (m.setCluster c v).parts = m.parts := rfl
@[simp] theorem Mach.setCluster_blocks (m : Mach) (c : Nat) (v : Cluster) : (m.setCluster c v).blocks = m.blocks := rfl
@[simp] theorem Mach.setCluster_packets (m : Mach) (c : Nat) (v : Cluster) : (m.setCluster c v).packets = m.packets := rfl
@[simp] theorem Mach.setCluster_closed (m : Mach) (c : Nat) (v : Cluster) : (m.setCluster c v).closed = m.closed := rfl
@[simp] theorem Mach.setCluster_pends (m : Mach) (c : Nat) (v : Cluster) : (m.setCluster c v).pends = m.pends := rfl
@[simp] theorem Mach.setCluster_folds (m : Mach) (c : Nat) (v : Cluster) : (m.setCluster c v).folds = m.folds := rfl
@[simp] theorem Mach.setCluster_foldStores (m : Mach) (c : Nat) (v : Cluster) : (m.setCluster c v).foldStores = m.foldStores := rfl
@[simp] theorem Mach.setCluster_saved (m : Mach) (c : Nat) (v : Cluster) : (m.setCluster c v).saved = m.saved := rfl
@[simp] theorem Mach.setCluster_invals (m : Mach) (c : Nat) (v : Cluster) : (m.setCluster c v).invals = m.invals := rfl
@[simp] theorem Mach.setCluster_nextId (m : Mach) (c : Nat) (v : Cluster) : (m.setCluster c v).nextId = m.nextId := rfl
@[simp] theorem Mach.setCluster_poisoned (m : Mach) (c : Nat) (v : Cluster) : (m.setCluster c v).poisoned = m.poisoned := rfl
@[simp] theorem Mach.setCluster_hbmBad (m : Mach) (c : Nat) (v : Cluster) : (m.setCluster c v).hbmBad = m.hbmBad := rfl
@[simp] theorem Mach.setCluster_l2Bad (m : Mach) (c : Nat) (v : Cluster) : (m.setCluster c v).l2Bad = m.l2Bad := rfl
@[simp] theorem Mach.setCluster_framePoisoned (m : Mach) (c : Nat) (v : Cluster) : (m.setCluster c v).framePoisoned = m.framePoisoned := rfl
@[simp] theorem Mach.setCluster_frameBad (m : Mach) (c : Nat) (v : Cluster) : (m.setCluster c v).frameBad = m.frameBad := rfl
@[simp] theorem Mach.setCluster_scratchBad (m : Mach) (c : Nat) (v : Cluster) : (m.setCluster c v).scratchBad = m.scratchBad := rfl
@[simp] theorem Mach.setCluster_l1Bad (m : Mach) (c : Nat) (v : Cluster) : (m.setCluster c v).l1Bad = m.l1Bad := rfl
@[simp] theorem Mach.setCluster_peers (m : Mach) (c : Nat) (v : Cluster) : (m.setCluster c v).peers = m.peers := rfl
@[simp] theorem Mach.setCluster_peersDown (m : Mach) (c : Nat) (v : Cluster) : (m.setCluster c v).peersDown = m.peersDown := rfl
@[simp] theorem Mach.setCluster_bands (m : Mach) (c : Nat) (v : Cluster) : (m.setCluster c v).bands = m.bands := rfl
@[simp] theorem Mach.setCluster_image (m : Mach) (c : Nat) (v : Cluster) : (m.setCluster c v).image = m.image := rfl
@[simp] theorem Mach.setCluster_nextImage (m : Mach) (c : Nat) (v : Cluster) : (m.setCluster c v).nextImage = m.nextImage := rfl
@[simp] theorem Mach.setCluster_spdm (m : Mach) (c : Nat) (v : Cluster) : (m.setCluster c v).spdm = m.spdm := rfl
@[simp] theorem Mach.setCluster_vectorIssues (m : Mach) (c : Nat) (v : Cluster) : (m.setCluster c v).vectorIssues = m.vectorIssues := rfl
@[simp] theorem Mach.setCluster_matrixRan (m : Mach) (c : Nat) (v : Cluster) : (m.setCluster c v).matrixRan = m.matrixRan := rfl
@[simp] theorem Mach.setCluster_free (m : Mach) (c : Nat) (v : Cluster) : (m.setCluster c v).free = m.free := rfl

/-! ### `Mach.modSlice` -/

@[simp] theorem Mach.modSlice_cur (m : Mach) (c : Nat) (f : Slice → Slice) : (m.modSlice c f).cur = m.cur := rfl
@[simp] theorem Mach.modSlice_now (m : Mach) (c : Nat) (f : Slice → Slice) : (m.modSlice c f).now = m.now := rfl
@[simp] theorem Mach.modSlice_mem (m : Mach) (c : Nat) (f : Slice → Slice) : (m.modSlice c f).mem = m.mem := rfl
@[simp] theorem Mach.modSlice_empties (m : Mach) (c : Nat) (f : Slice → Slice) : (m.modSlice c f).empties = m.empties := rfl
@[simp] theorem Mach.modSlice_ownStores (m : Mach) (c : Nat) (f : Slice → Slice) : (m.modSlice c f).ownStores = m.ownStores := rfl
@[simp] theorem Mach.modSlice_cores (m : Mach) (c : Nat) (f : Slice → Slice) : (m.modSlice c f).cores = m.cores := rfl
@[simp] theorem Mach.modSlice_ctxs (m : Mach) (c : Nat) (f : Slice → Slice) : (m.modSlice c f).ctxs = m.ctxs := rfl
@[simp] theorem Mach.modSlice_clusters (m : Mach) (c : Nat) (f : Slice → Slice) : (m.modSlice c f).clusters = m.clusters := rfl
@[simp] theorem Mach.modSlice_dies (m : Mach) (c : Nat) (f : Slice → Slice) : (m.modSlice c f).dies = m.dies := rfl
@[simp] theorem Mach.modSlice_dieParts (m : Mach) (c : Nat) (f : Slice → Slice) : (m.modSlice c f).dieParts = m.dieParts := rfl
@[simp] theorem Mach.modSlice_parts (m : Mach) (c : Nat) (f : Slice → Slice) : (m.modSlice c f).parts = m.parts := rfl
@[simp] theorem Mach.modSlice_blocks (m : Mach) (c : Nat) (f : Slice → Slice) : (m.modSlice c f).blocks = m.blocks := rfl
@[simp] theorem Mach.modSlice_packets (m : Mach) (c : Nat) (f : Slice → Slice) : (m.modSlice c f).packets = m.packets := rfl
@[simp] theorem Mach.modSlice_closed (m : Mach) (c : Nat) (f : Slice → Slice) : (m.modSlice c f).closed = m.closed := rfl
@[simp] theorem Mach.modSlice_pends (m : Mach) (c : Nat) (f : Slice → Slice) : (m.modSlice c f).pends = m.pends := rfl
@[simp] theorem Mach.modSlice_folds (m : Mach) (c : Nat) (f : Slice → Slice) : (m.modSlice c f).folds = m.folds := rfl
@[simp] theorem Mach.modSlice_foldStores (m : Mach) (c : Nat) (f : Slice → Slice) : (m.modSlice c f).foldStores = m.foldStores := rfl
@[simp] theorem Mach.modSlice_saved (m : Mach) (c : Nat) (f : Slice → Slice) : (m.modSlice c f).saved = m.saved := rfl
@[simp] theorem Mach.modSlice_invals (m : Mach) (c : Nat) (f : Slice → Slice) : (m.modSlice c f).invals = m.invals := rfl
@[simp] theorem Mach.modSlice_nextId (m : Mach) (c : Nat) (f : Slice → Slice) : (m.modSlice c f).nextId = m.nextId := rfl
@[simp] theorem Mach.modSlice_poisoned (m : Mach) (c : Nat) (f : Slice → Slice) : (m.modSlice c f).poisoned = m.poisoned := rfl
@[simp] theorem Mach.modSlice_hbmBad (m : Mach) (c : Nat) (f : Slice → Slice) : (m.modSlice c f).hbmBad = m.hbmBad := rfl
@[simp] theorem Mach.modSlice_l2Bad (m : Mach) (c : Nat) (f : Slice → Slice) : (m.modSlice c f).l2Bad = m.l2Bad := rfl
@[simp] theorem Mach.modSlice_framePoisoned (m : Mach) (c : Nat) (f : Slice → Slice) : (m.modSlice c f).framePoisoned = m.framePoisoned := rfl
@[simp] theorem Mach.modSlice_frameBad (m : Mach) (c : Nat) (f : Slice → Slice) : (m.modSlice c f).frameBad = m.frameBad := rfl
@[simp] theorem Mach.modSlice_scratchBad (m : Mach) (c : Nat) (f : Slice → Slice) : (m.modSlice c f).scratchBad = m.scratchBad := rfl
@[simp] theorem Mach.modSlice_l1Bad (m : Mach) (c : Nat) (f : Slice → Slice) : (m.modSlice c f).l1Bad = m.l1Bad := rfl
@[simp] theorem Mach.modSlice_peers (m : Mach) (c : Nat) (f : Slice → Slice) : (m.modSlice c f).peers = m.peers := rfl
@[simp] theorem Mach.modSlice_peersDown (m : Mach) (c : Nat) (f : Slice → Slice) : (m.modSlice c f).peersDown = m.peersDown := rfl
@[simp] theorem Mach.modSlice_bands (m : Mach) (c : Nat) (f : Slice → Slice) : (m.modSlice c f).bands = m.bands := rfl
@[simp] theorem Mach.modSlice_image (m : Mach) (c : Nat) (f : Slice → Slice) : (m.modSlice c f).image = m.image := rfl
@[simp] theorem Mach.modSlice_nextImage (m : Mach) (c : Nat) (f : Slice → Slice) : (m.modSlice c f).nextImage = m.nextImage := rfl
@[simp] theorem Mach.modSlice_spdm (m : Mach) (c : Nat) (f : Slice → Slice) : (m.modSlice c f).spdm = m.spdm := rfl
@[simp] theorem Mach.modSlice_vectorIssues (m : Mach) (c : Nat) (f : Slice → Slice) : (m.modSlice c f).vectorIssues = m.vectorIssues := rfl
@[simp] theorem Mach.modSlice_matrixRan (m : Mach) (c : Nat) (f : Slice → Slice) : (m.modSlice c f).matrixRan = m.matrixRan := rfl
@[simp] theorem Mach.modSlice_free (m : Mach) (c : Nat) (f : Slice → Slice) : (m.modSlice c f).free = m.free := rfl

/-! ### `Mach.modDie` -/

@[simp] theorem Mach.modDie_cur (m : Mach) (d : Nat) (f : Die → Die) : (m.modDie d f).cur = m.cur := rfl
@[simp] theorem Mach.modDie_now (m : Mach) (d : Nat) (f : Die → Die) : (m.modDie d f).now = m.now := rfl
@[simp] theorem Mach.modDie_mem (m : Mach) (d : Nat) (f : Die → Die) : (m.modDie d f).mem = m.mem := rfl
@[simp] theorem Mach.modDie_empties (m : Mach) (d : Nat) (f : Die → Die) : (m.modDie d f).empties = m.empties := rfl
@[simp] theorem Mach.modDie_ownStores (m : Mach) (d : Nat) (f : Die → Die) : (m.modDie d f).ownStores = m.ownStores := rfl
@[simp] theorem Mach.modDie_cores (m : Mach) (d : Nat) (f : Die → Die) : (m.modDie d f).cores = m.cores := rfl
@[simp] theorem Mach.modDie_ctxs (m : Mach) (d : Nat) (f : Die → Die) : (m.modDie d f).ctxs = m.ctxs := rfl
@[simp] theorem Mach.modDie_clusters (m : Mach) (d : Nat) (f : Die → Die) : (m.modDie d f).clusters = m.clusters := rfl
@[simp] theorem Mach.modDie_slices (m : Mach) (d : Nat) (f : Die → Die) : (m.modDie d f).slices = m.slices := rfl
@[simp] theorem Mach.modDie_dieParts (m : Mach) (d : Nat) (f : Die → Die) : (m.modDie d f).dieParts = m.dieParts := rfl
@[simp] theorem Mach.modDie_parts (m : Mach) (d : Nat) (f : Die → Die) : (m.modDie d f).parts = m.parts := rfl
@[simp] theorem Mach.modDie_blocks (m : Mach) (d : Nat) (f : Die → Die) : (m.modDie d f).blocks = m.blocks := rfl
@[simp] theorem Mach.modDie_packets (m : Mach) (d : Nat) (f : Die → Die) : (m.modDie d f).packets = m.packets := rfl
@[simp] theorem Mach.modDie_closed (m : Mach) (d : Nat) (f : Die → Die) : (m.modDie d f).closed = m.closed := rfl
@[simp] theorem Mach.modDie_pends (m : Mach) (d : Nat) (f : Die → Die) : (m.modDie d f).pends = m.pends := rfl
@[simp] theorem Mach.modDie_folds (m : Mach) (d : Nat) (f : Die → Die) : (m.modDie d f).folds = m.folds := rfl
@[simp] theorem Mach.modDie_foldStores (m : Mach) (d : Nat) (f : Die → Die) : (m.modDie d f).foldStores = m.foldStores := rfl
@[simp] theorem Mach.modDie_saved (m : Mach) (d : Nat) (f : Die → Die) : (m.modDie d f).saved = m.saved := rfl
@[simp] theorem Mach.modDie_invals (m : Mach) (d : Nat) (f : Die → Die) : (m.modDie d f).invals = m.invals := rfl
@[simp] theorem Mach.modDie_nextId (m : Mach) (d : Nat) (f : Die → Die) : (m.modDie d f).nextId = m.nextId := rfl
@[simp] theorem Mach.modDie_poisoned (m : Mach) (d : Nat) (f : Die → Die) : (m.modDie d f).poisoned = m.poisoned := rfl
@[simp] theorem Mach.modDie_hbmBad (m : Mach) (d : Nat) (f : Die → Die) : (m.modDie d f).hbmBad = m.hbmBad := rfl
@[simp] theorem Mach.modDie_l2Bad (m : Mach) (d : Nat) (f : Die → Die) : (m.modDie d f).l2Bad = m.l2Bad := rfl
@[simp] theorem Mach.modDie_framePoisoned (m : Mach) (d : Nat) (f : Die → Die) : (m.modDie d f).framePoisoned = m.framePoisoned := rfl
@[simp] theorem Mach.modDie_frameBad (m : Mach) (d : Nat) (f : Die → Die) : (m.modDie d f).frameBad = m.frameBad := rfl
@[simp] theorem Mach.modDie_scratchBad (m : Mach) (d : Nat) (f : Die → Die) : (m.modDie d f).scratchBad = m.scratchBad := rfl
@[simp] theorem Mach.modDie_l1Bad (m : Mach) (d : Nat) (f : Die → Die) : (m.modDie d f).l1Bad = m.l1Bad := rfl
@[simp] theorem Mach.modDie_peers (m : Mach) (d : Nat) (f : Die → Die) : (m.modDie d f).peers = m.peers := rfl
@[simp] theorem Mach.modDie_peersDown (m : Mach) (d : Nat) (f : Die → Die) : (m.modDie d f).peersDown = m.peersDown := rfl
@[simp] theorem Mach.modDie_bands (m : Mach) (d : Nat) (f : Die → Die) : (m.modDie d f).bands = m.bands := rfl
@[simp] theorem Mach.modDie_image (m : Mach) (d : Nat) (f : Die → Die) : (m.modDie d f).image = m.image := rfl
@[simp] theorem Mach.modDie_nextImage (m : Mach) (d : Nat) (f : Die → Die) : (m.modDie d f).nextImage = m.nextImage := rfl
@[simp] theorem Mach.modDie_spdm (m : Mach) (d : Nat) (f : Die → Die) : (m.modDie d f).spdm = m.spdm := rfl
@[simp] theorem Mach.modDie_vectorIssues (m : Mach) (d : Nat) (f : Die → Die) : (m.modDie d f).vectorIssues = m.vectorIssues := rfl
@[simp] theorem Mach.modDie_matrixRan (m : Mach) (d : Nat) (f : Die → Die) : (m.modDie d f).matrixRan = m.matrixRan := rfl
@[simp] theorem Mach.modDie_free (m : Mach) (d : Nat) (f : Die → Die) : (m.modDie d f).free = m.free := rfl

/-! ### `Mach.modDiePart` -/

@[simp] theorem Mach.modDiePart_cur (m : Mach) (d p : Nat) (f : DiePart → DiePart) : (m.modDiePart d p f).cur = m.cur := rfl
@[simp] theorem Mach.modDiePart_now (m : Mach) (d p : Nat) (f : DiePart → DiePart) : (m.modDiePart d p f).now = m.now := rfl
@[simp] theorem Mach.modDiePart_mem (m : Mach) (d p : Nat) (f : DiePart → DiePart) : (m.modDiePart d p f).mem = m.mem := rfl
@[simp] theorem Mach.modDiePart_empties (m : Mach) (d p : Nat) (f : DiePart → DiePart) : (m.modDiePart d p f).empties = m.empties := rfl
@[simp] theorem Mach.modDiePart_ownStores (m : Mach) (d p : Nat) (f : DiePart → DiePart) : (m.modDiePart d p f).ownStores = m.ownStores := rfl
@[simp] theorem Mach.modDiePart_cores (m : Mach) (d p : Nat) (f : DiePart → DiePart) : (m.modDiePart d p f).cores = m.cores := rfl
@[simp] theorem Mach.modDiePart_ctxs (m : Mach) (d p : Nat) (f : DiePart → DiePart) : (m.modDiePart d p f).ctxs = m.ctxs := rfl
@[simp] theorem Mach.modDiePart_clusters (m : Mach) (d p : Nat) (f : DiePart → DiePart) : (m.modDiePart d p f).clusters = m.clusters := rfl
@[simp] theorem Mach.modDiePart_slices (m : Mach) (d p : Nat) (f : DiePart → DiePart) : (m.modDiePart d p f).slices = m.slices := rfl
@[simp] theorem Mach.modDiePart_dies (m : Mach) (d p : Nat) (f : DiePart → DiePart) : (m.modDiePart d p f).dies = m.dies := rfl
@[simp] theorem Mach.modDiePart_parts (m : Mach) (d p : Nat) (f : DiePart → DiePart) : (m.modDiePart d p f).parts = m.parts := rfl
@[simp] theorem Mach.modDiePart_blocks (m : Mach) (d p : Nat) (f : DiePart → DiePart) : (m.modDiePart d p f).blocks = m.blocks := rfl
@[simp] theorem Mach.modDiePart_packets (m : Mach) (d p : Nat) (f : DiePart → DiePart) : (m.modDiePart d p f).packets = m.packets := rfl
@[simp] theorem Mach.modDiePart_closed (m : Mach) (d p : Nat) (f : DiePart → DiePart) : (m.modDiePart d p f).closed = m.closed := rfl
@[simp] theorem Mach.modDiePart_pends (m : Mach) (d p : Nat) (f : DiePart → DiePart) : (m.modDiePart d p f).pends = m.pends := rfl
@[simp] theorem Mach.modDiePart_folds (m : Mach) (d p : Nat) (f : DiePart → DiePart) : (m.modDiePart d p f).folds = m.folds := rfl
@[simp] theorem Mach.modDiePart_foldStores (m : Mach) (d p : Nat) (f : DiePart → DiePart) : (m.modDiePart d p f).foldStores = m.foldStores := rfl
@[simp] theorem Mach.modDiePart_saved (m : Mach) (d p : Nat) (f : DiePart → DiePart) : (m.modDiePart d p f).saved = m.saved := rfl
@[simp] theorem Mach.modDiePart_invals (m : Mach) (d p : Nat) (f : DiePart → DiePart) : (m.modDiePart d p f).invals = m.invals := rfl
@[simp] theorem Mach.modDiePart_nextId (m : Mach) (d p : Nat) (f : DiePart → DiePart) : (m.modDiePart d p f).nextId = m.nextId := rfl
@[simp] theorem Mach.modDiePart_poisoned (m : Mach) (d p : Nat) (f : DiePart → DiePart) : (m.modDiePart d p f).poisoned = m.poisoned := rfl
@[simp] theorem Mach.modDiePart_hbmBad (m : Mach) (d p : Nat) (f : DiePart → DiePart) : (m.modDiePart d p f).hbmBad = m.hbmBad := rfl
@[simp] theorem Mach.modDiePart_l2Bad (m : Mach) (d p : Nat) (f : DiePart → DiePart) : (m.modDiePart d p f).l2Bad = m.l2Bad := rfl
@[simp] theorem Mach.modDiePart_framePoisoned (m : Mach) (d p : Nat) (f : DiePart → DiePart) : (m.modDiePart d p f).framePoisoned = m.framePoisoned := rfl
@[simp] theorem Mach.modDiePart_frameBad (m : Mach) (d p : Nat) (f : DiePart → DiePart) : (m.modDiePart d p f).frameBad = m.frameBad := rfl
@[simp] theorem Mach.modDiePart_scratchBad (m : Mach) (d p : Nat) (f : DiePart → DiePart) : (m.modDiePart d p f).scratchBad = m.scratchBad := rfl
@[simp] theorem Mach.modDiePart_l1Bad (m : Mach) (d p : Nat) (f : DiePart → DiePart) : (m.modDiePart d p f).l1Bad = m.l1Bad := rfl
@[simp] theorem Mach.modDiePart_peers (m : Mach) (d p : Nat) (f : DiePart → DiePart) : (m.modDiePart d p f).peers = m.peers := rfl
@[simp] theorem Mach.modDiePart_peersDown (m : Mach) (d p : Nat) (f : DiePart → DiePart) : (m.modDiePart d p f).peersDown = m.peersDown := rfl
@[simp] theorem Mach.modDiePart_bands (m : Mach) (d p : Nat) (f : DiePart → DiePart) : (m.modDiePart d p f).bands = m.bands := rfl
@[simp] theorem Mach.modDiePart_image (m : Mach) (d p : Nat) (f : DiePart → DiePart) : (m.modDiePart d p f).image = m.image := rfl
@[simp] theorem Mach.modDiePart_nextImage (m : Mach) (d p : Nat) (f : DiePart → DiePart) : (m.modDiePart d p f).nextImage = m.nextImage := rfl
@[simp] theorem Mach.modDiePart_spdm (m : Mach) (d p : Nat) (f : DiePart → DiePart) : (m.modDiePart d p f).spdm = m.spdm := rfl
@[simp] theorem Mach.modDiePart_vectorIssues (m : Mach) (d p : Nat) (f : DiePart → DiePart) : (m.modDiePart d p f).vectorIssues = m.vectorIssues := rfl
@[simp] theorem Mach.modDiePart_matrixRan (m : Mach) (d p : Nat) (f : DiePart → DiePart) : (m.modDiePart d p f).matrixRan = m.matrixRan := rfl
@[simp] theorem Mach.modDiePart_free (m : Mach) (d p : Nat) (f : DiePart → DiePart) : (m.modDiePart d p f).free = m.free := rfl

/-! ### `Mach.modPart` -/

@[simp] theorem Mach.modPart_cur (m : Mach) (p : Nat) (f : Part → Part) : (m.modPart p f).cur = m.cur := rfl
@[simp] theorem Mach.modPart_now (m : Mach) (p : Nat) (f : Part → Part) : (m.modPart p f).now = m.now := rfl
@[simp] theorem Mach.modPart_mem (m : Mach) (p : Nat) (f : Part → Part) : (m.modPart p f).mem = m.mem := rfl
@[simp] theorem Mach.modPart_empties (m : Mach) (p : Nat) (f : Part → Part) : (m.modPart p f).empties = m.empties := rfl
@[simp] theorem Mach.modPart_ownStores (m : Mach) (p : Nat) (f : Part → Part) : (m.modPart p f).ownStores = m.ownStores := rfl
@[simp] theorem Mach.modPart_cores (m : Mach) (p : Nat) (f : Part → Part) : (m.modPart p f).cores = m.cores := rfl
@[simp] theorem Mach.modPart_ctxs (m : Mach) (p : Nat) (f : Part → Part) : (m.modPart p f).ctxs = m.ctxs := rfl
@[simp] theorem Mach.modPart_clusters (m : Mach) (p : Nat) (f : Part → Part) : (m.modPart p f).clusters = m.clusters := rfl
@[simp] theorem Mach.modPart_slices (m : Mach) (p : Nat) (f : Part → Part) : (m.modPart p f).slices = m.slices := rfl
@[simp] theorem Mach.modPart_dies (m : Mach) (p : Nat) (f : Part → Part) : (m.modPart p f).dies = m.dies := rfl
@[simp] theorem Mach.modPart_dieParts (m : Mach) (p : Nat) (f : Part → Part) : (m.modPart p f).dieParts = m.dieParts := rfl
@[simp] theorem Mach.modPart_blocks (m : Mach) (p : Nat) (f : Part → Part) : (m.modPart p f).blocks = m.blocks := rfl
@[simp] theorem Mach.modPart_packets (m : Mach) (p : Nat) (f : Part → Part) : (m.modPart p f).packets = m.packets := rfl
@[simp] theorem Mach.modPart_closed (m : Mach) (p : Nat) (f : Part → Part) : (m.modPart p f).closed = m.closed := rfl
@[simp] theorem Mach.modPart_pends (m : Mach) (p : Nat) (f : Part → Part) : (m.modPart p f).pends = m.pends := rfl
@[simp] theorem Mach.modPart_folds (m : Mach) (p : Nat) (f : Part → Part) : (m.modPart p f).folds = m.folds := rfl
@[simp] theorem Mach.modPart_foldStores (m : Mach) (p : Nat) (f : Part → Part) : (m.modPart p f).foldStores = m.foldStores := rfl
@[simp] theorem Mach.modPart_saved (m : Mach) (p : Nat) (f : Part → Part) : (m.modPart p f).saved = m.saved := rfl
@[simp] theorem Mach.modPart_invals (m : Mach) (p : Nat) (f : Part → Part) : (m.modPart p f).invals = m.invals := rfl
@[simp] theorem Mach.modPart_nextId (m : Mach) (p : Nat) (f : Part → Part) : (m.modPart p f).nextId = m.nextId := rfl
@[simp] theorem Mach.modPart_poisoned (m : Mach) (p : Nat) (f : Part → Part) : (m.modPart p f).poisoned = m.poisoned := rfl
@[simp] theorem Mach.modPart_hbmBad (m : Mach) (p : Nat) (f : Part → Part) : (m.modPart p f).hbmBad = m.hbmBad := rfl
@[simp] theorem Mach.modPart_l2Bad (m : Mach) (p : Nat) (f : Part → Part) : (m.modPart p f).l2Bad = m.l2Bad := rfl
@[simp] theorem Mach.modPart_framePoisoned (m : Mach) (p : Nat) (f : Part → Part) : (m.modPart p f).framePoisoned = m.framePoisoned := rfl
@[simp] theorem Mach.modPart_frameBad (m : Mach) (p : Nat) (f : Part → Part) : (m.modPart p f).frameBad = m.frameBad := rfl
@[simp] theorem Mach.modPart_scratchBad (m : Mach) (p : Nat) (f : Part → Part) : (m.modPart p f).scratchBad = m.scratchBad := rfl
@[simp] theorem Mach.modPart_l1Bad (m : Mach) (p : Nat) (f : Part → Part) : (m.modPart p f).l1Bad = m.l1Bad := rfl
@[simp] theorem Mach.modPart_peers (m : Mach) (p : Nat) (f : Part → Part) : (m.modPart p f).peers = m.peers := rfl
@[simp] theorem Mach.modPart_peersDown (m : Mach) (p : Nat) (f : Part → Part) : (m.modPart p f).peersDown = m.peersDown := rfl
@[simp] theorem Mach.modPart_bands (m : Mach) (p : Nat) (f : Part → Part) : (m.modPart p f).bands = m.bands := rfl
@[simp] theorem Mach.modPart_image (m : Mach) (p : Nat) (f : Part → Part) : (m.modPart p f).image = m.image := rfl
@[simp] theorem Mach.modPart_nextImage (m : Mach) (p : Nat) (f : Part → Part) : (m.modPart p f).nextImage = m.nextImage := rfl
@[simp] theorem Mach.modPart_spdm (m : Mach) (p : Nat) (f : Part → Part) : (m.modPart p f).spdm = m.spdm := rfl
@[simp] theorem Mach.modPart_vectorIssues (m : Mach) (p : Nat) (f : Part → Part) : (m.modPart p f).vectorIssues = m.vectorIssues := rfl
@[simp] theorem Mach.modPart_matrixRan (m : Mach) (p : Nat) (f : Part → Part) : (m.modPart p f).matrixRan = m.matrixRan := rfl
@[simp] theorem Mach.modPart_free (m : Mach) (p : Nat) (f : Part → Part) : (m.modPart p f).free = m.free := rfl

/-! ### `Mach.fresh` -/

@[simp] theorem Mach.fresh_cur (m : Mach) : (m.fresh).cur = m.cur := rfl
@[simp] theorem Mach.fresh_now (m : Mach) : (m.fresh).now = m.now := rfl
@[simp] theorem Mach.fresh_mem (m : Mach) : (m.fresh).mem = m.mem := rfl
@[simp] theorem Mach.fresh_empties (m : Mach) : (m.fresh).empties = m.empties := rfl
@[simp] theorem Mach.fresh_ownStores (m : Mach) : (m.fresh).ownStores = m.ownStores := rfl
@[simp] theorem Mach.fresh_cores (m : Mach) : (m.fresh).cores = m.cores := rfl
@[simp] theorem Mach.fresh_ctxs (m : Mach) : (m.fresh).ctxs = m.ctxs := rfl
@[simp] theorem Mach.fresh_clusters (m : Mach) : (m.fresh).clusters = m.clusters := rfl
@[simp] theorem Mach.fresh_slices (m : Mach) : (m.fresh).slices = m.slices := rfl
@[simp] theorem Mach.fresh_dies (m : Mach) : (m.fresh).dies = m.dies := rfl
@[simp] theorem Mach.fresh_dieParts (m : Mach) : (m.fresh).dieParts = m.dieParts := rfl
@[simp] theorem Mach.fresh_parts (m : Mach) : (m.fresh).parts = m.parts := rfl
@[simp] theorem Mach.fresh_blocks (m : Mach) : (m.fresh).blocks = m.blocks := rfl
@[simp] theorem Mach.fresh_packets (m : Mach) : (m.fresh).packets = m.packets := rfl
@[simp] theorem Mach.fresh_closed (m : Mach) : (m.fresh).closed = m.closed := rfl
@[simp] theorem Mach.fresh_pends (m : Mach) : (m.fresh).pends = m.pends := rfl
@[simp] theorem Mach.fresh_folds (m : Mach) : (m.fresh).folds = m.folds := rfl
@[simp] theorem Mach.fresh_foldStores (m : Mach) : (m.fresh).foldStores = m.foldStores := rfl
@[simp] theorem Mach.fresh_saved (m : Mach) : (m.fresh).saved = m.saved := rfl
@[simp] theorem Mach.fresh_invals (m : Mach) : (m.fresh).invals = m.invals := rfl
@[simp] theorem Mach.fresh_poisoned (m : Mach) : (m.fresh).poisoned = m.poisoned := rfl
@[simp] theorem Mach.fresh_hbmBad (m : Mach) : (m.fresh).hbmBad = m.hbmBad := rfl
@[simp] theorem Mach.fresh_l2Bad (m : Mach) : (m.fresh).l2Bad = m.l2Bad := rfl
@[simp] theorem Mach.fresh_framePoisoned (m : Mach) : (m.fresh).framePoisoned = m.framePoisoned := rfl
@[simp] theorem Mach.fresh_frameBad (m : Mach) : (m.fresh).frameBad = m.frameBad := rfl
@[simp] theorem Mach.fresh_scratchBad (m : Mach) : (m.fresh).scratchBad = m.scratchBad := rfl
@[simp] theorem Mach.fresh_l1Bad (m : Mach) : (m.fresh).l1Bad = m.l1Bad := rfl
@[simp] theorem Mach.fresh_peers (m : Mach) : (m.fresh).peers = m.peers := rfl
@[simp] theorem Mach.fresh_peersDown (m : Mach) : (m.fresh).peersDown = m.peersDown := rfl
@[simp] theorem Mach.fresh_bands (m : Mach) : (m.fresh).bands = m.bands := rfl
@[simp] theorem Mach.fresh_image (m : Mach) : (m.fresh).image = m.image := rfl
@[simp] theorem Mach.fresh_nextImage (m : Mach) : (m.fresh).nextImage = m.nextImage := rfl
@[simp] theorem Mach.fresh_spdm (m : Mach) : (m.fresh).spdm = m.spdm := rfl
@[simp] theorem Mach.fresh_vectorIssues (m : Mach) : (m.fresh).vectorIssues = m.vectorIssues := rfl
@[simp] theorem Mach.fresh_matrixRan (m : Mach) : (m.fresh).matrixRan = m.matrixRan := rfl
@[simp] theorem Mach.fresh_free (m : Mach) : (m.fresh).free = m.free := rfl

/-! ### `Mach.putReg` -/

@[simp] theorem Mach.putReg_cur (m : Mach) (k n v : Nat) : (m.putReg k n v).cur = m.cur := rfl
@[simp] theorem Mach.putReg_now (m : Mach) (k n v : Nat) : (m.putReg k n v).now = m.now := rfl
@[simp] theorem Mach.putReg_ownStores (m : Mach) (k n v : Nat) : (m.putReg k n v).ownStores = m.ownStores := rfl
@[simp] theorem Mach.putReg_cores (m : Mach) (k n v : Nat) : (m.putReg k n v).cores = m.cores := rfl
@[simp] theorem Mach.putReg_ctxs (m : Mach) (k n v : Nat) : (m.putReg k n v).ctxs = m.ctxs := rfl
@[simp] theorem Mach.putReg_clusters (m : Mach) (k n v : Nat) : (m.putReg k n v).clusters = m.clusters := rfl
@[simp] theorem Mach.putReg_slices (m : Mach) (k n v : Nat) : (m.putReg k n v).slices = m.slices := rfl
@[simp] theorem Mach.putReg_dies (m : Mach) (k n v : Nat) : (m.putReg k n v).dies = m.dies := rfl
@[simp] theorem Mach.putReg_dieParts (m : Mach) (k n v : Nat) : (m.putReg k n v).dieParts = m.dieParts := rfl
@[simp] theorem Mach.putReg_parts (m : Mach) (k n v : Nat) : (m.putReg k n v).parts = m.parts := rfl
@[simp] theorem Mach.putReg_blocks (m : Mach) (k n v : Nat) : (m.putReg k n v).blocks = m.blocks := rfl
@[simp] theorem Mach.putReg_packets (m : Mach) (k n v : Nat) : (m.putReg k n v).packets = m.packets := rfl
@[simp] theorem Mach.putReg_closed (m : Mach) (k n v : Nat) : (m.putReg k n v).closed = m.closed := rfl
@[simp] theorem Mach.putReg_pends (m : Mach) (k n v : Nat) : (m.putReg k n v).pends = m.pends := rfl
@[simp] theorem Mach.putReg_folds (m : Mach) (k n v : Nat) : (m.putReg k n v).folds = m.folds := rfl
@[simp] theorem Mach.putReg_foldStores (m : Mach) (k n v : Nat) : (m.putReg k n v).foldStores = m.foldStores := rfl
@[simp] theorem Mach.putReg_saved (m : Mach) (k n v : Nat) : (m.putReg k n v).saved = m.saved := rfl
@[simp] theorem Mach.putReg_invals (m : Mach) (k n v : Nat) : (m.putReg k n v).invals = m.invals := rfl
@[simp] theorem Mach.putReg_nextId (m : Mach) (k n v : Nat) : (m.putReg k n v).nextId = m.nextId := rfl
@[simp] theorem Mach.putReg_poisoned (m : Mach) (k n v : Nat) : (m.putReg k n v).poisoned = m.poisoned := rfl
@[simp] theorem Mach.putReg_hbmBad (m : Mach) (k n v : Nat) : (m.putReg k n v).hbmBad = m.hbmBad := rfl
@[simp] theorem Mach.putReg_l2Bad (m : Mach) (k n v : Nat) : (m.putReg k n v).l2Bad = m.l2Bad := rfl
@[simp] theorem Mach.putReg_framePoisoned (m : Mach) (k n v : Nat) : (m.putReg k n v).framePoisoned = m.framePoisoned := rfl
@[simp] theorem Mach.putReg_frameBad (m : Mach) (k n v : Nat) : (m.putReg k n v).frameBad = m.frameBad := rfl
@[simp] theorem Mach.putReg_l1Bad (m : Mach) (k n v : Nat) : (m.putReg k n v).l1Bad = m.l1Bad := rfl
@[simp] theorem Mach.putReg_peers (m : Mach) (k n v : Nat) : (m.putReg k n v).peers = m.peers := rfl
@[simp] theorem Mach.putReg_peersDown (m : Mach) (k n v : Nat) : (m.putReg k n v).peersDown = m.peersDown := rfl
@[simp] theorem Mach.putReg_bands (m : Mach) (k n v : Nat) : (m.putReg k n v).bands = m.bands := rfl
@[simp] theorem Mach.putReg_image (m : Mach) (k n v : Nat) : (m.putReg k n v).image = m.image := rfl
@[simp] theorem Mach.putReg_nextImage (m : Mach) (k n v : Nat) : (m.putReg k n v).nextImage = m.nextImage := rfl
@[simp] theorem Mach.putReg_spdm (m : Mach) (k n v : Nat) : (m.putReg k n v).spdm = m.spdm := rfl
@[simp] theorem Mach.putReg_vectorIssues (m : Mach) (k n v : Nat) : (m.putReg k n v).vectorIssues = m.vectorIssues := rfl
@[simp] theorem Mach.putReg_matrixRan (m : Mach) (k n v : Nat) : (m.putReg k n v).matrixRan = m.matrixRan := rfl
@[simp] theorem Mach.putReg_free (m : Mach) (k n v : Nat) : (m.putReg k n v).free = m.free := rfl

/-! ### `Mach.modMe` -/

@[simp] theorem Mach.modMe_cur (m : Mach) (f : Ctx → Ctx) : (m.modMe f).cur = m.cur := rfl
@[simp] theorem Mach.modMe_now (m : Mach) (f : Ctx → Ctx) : (m.modMe f).now = m.now := rfl
@[simp] theorem Mach.modMe_mem (m : Mach) (f : Ctx → Ctx) : (m.modMe f).mem = m.mem := rfl
@[simp] theorem Mach.modMe_empties (m : Mach) (f : Ctx → Ctx) : (m.modMe f).empties = m.empties := rfl
@[simp] theorem Mach.modMe_ownStores (m : Mach) (f : Ctx → Ctx) : (m.modMe f).ownStores = m.ownStores := rfl
@[simp] theorem Mach.modMe_cores (m : Mach) (f : Ctx → Ctx) : (m.modMe f).cores = m.cores := rfl
@[simp] theorem Mach.modMe_clusters (m : Mach) (f : Ctx → Ctx) : (m.modMe f).clusters = m.clusters := rfl
@[simp] theorem Mach.modMe_slices (m : Mach) (f : Ctx → Ctx) : (m.modMe f).slices = m.slices := rfl
@[simp] theorem Mach.modMe_dies (m : Mach) (f : Ctx → Ctx) : (m.modMe f).dies = m.dies := rfl
@[simp] theorem Mach.modMe_dieParts (m : Mach) (f : Ctx → Ctx) : (m.modMe f).dieParts = m.dieParts := rfl
@[simp] theorem Mach.modMe_parts (m : Mach) (f : Ctx → Ctx) : (m.modMe f).parts = m.parts := rfl
@[simp] theorem Mach.modMe_blocks (m : Mach) (f : Ctx → Ctx) : (m.modMe f).blocks = m.blocks := rfl
@[simp] theorem Mach.modMe_packets (m : Mach) (f : Ctx → Ctx) : (m.modMe f).packets = m.packets := rfl
@[simp] theorem Mach.modMe_closed (m : Mach) (f : Ctx → Ctx) : (m.modMe f).closed = m.closed := rfl
@[simp] theorem Mach.modMe_pends (m : Mach) (f : Ctx → Ctx) : (m.modMe f).pends = m.pends := rfl
@[simp] theorem Mach.modMe_folds (m : Mach) (f : Ctx → Ctx) : (m.modMe f).folds = m.folds := rfl
@[simp] theorem Mach.modMe_foldStores (m : Mach) (f : Ctx → Ctx) : (m.modMe f).foldStores = m.foldStores := rfl
@[simp] theorem Mach.modMe_saved (m : Mach) (f : Ctx → Ctx) : (m.modMe f).saved = m.saved := rfl
@[simp] theorem Mach.modMe_invals (m : Mach) (f : Ctx → Ctx) : (m.modMe f).invals = m.invals := rfl
@[simp] theorem Mach.modMe_nextId (m : Mach) (f : Ctx → Ctx) : (m.modMe f).nextId = m.nextId := rfl
@[simp] theorem Mach.modMe_poisoned (m : Mach) (f : Ctx → Ctx) : (m.modMe f).poisoned = m.poisoned := rfl
@[simp] theorem Mach.modMe_hbmBad (m : Mach) (f : Ctx → Ctx) : (m.modMe f).hbmBad = m.hbmBad := rfl
@[simp] theorem Mach.modMe_l2Bad (m : Mach) (f : Ctx → Ctx) : (m.modMe f).l2Bad = m.l2Bad := rfl
@[simp] theorem Mach.modMe_framePoisoned (m : Mach) (f : Ctx → Ctx) : (m.modMe f).framePoisoned = m.framePoisoned := rfl
@[simp] theorem Mach.modMe_frameBad (m : Mach) (f : Ctx → Ctx) : (m.modMe f).frameBad = m.frameBad := rfl
@[simp] theorem Mach.modMe_scratchBad (m : Mach) (f : Ctx → Ctx) : (m.modMe f).scratchBad = m.scratchBad := rfl
@[simp] theorem Mach.modMe_l1Bad (m : Mach) (f : Ctx → Ctx) : (m.modMe f).l1Bad = m.l1Bad := rfl
@[simp] theorem Mach.modMe_peers (m : Mach) (f : Ctx → Ctx) : (m.modMe f).peers = m.peers := rfl
@[simp] theorem Mach.modMe_peersDown (m : Mach) (f : Ctx → Ctx) : (m.modMe f).peersDown = m.peersDown := rfl
@[simp] theorem Mach.modMe_bands (m : Mach) (f : Ctx → Ctx) : (m.modMe f).bands = m.bands := rfl
@[simp] theorem Mach.modMe_image (m : Mach) (f : Ctx → Ctx) : (m.modMe f).image = m.image := rfl
@[simp] theorem Mach.modMe_nextImage (m : Mach) (f : Ctx → Ctx) : (m.modMe f).nextImage = m.nextImage := rfl
@[simp] theorem Mach.modMe_spdm (m : Mach) (f : Ctx → Ctx) : (m.modMe f).spdm = m.spdm := rfl
@[simp] theorem Mach.modMe_vectorIssues (m : Mach) (f : Ctx → Ctx) : (m.modMe f).vectorIssues = m.vectorIssues := rfl
@[simp] theorem Mach.modMe_matrixRan (m : Mach) (f : Ctx → Ctx) : (m.modMe f).matrixRan = m.matrixRan := rfl
@[simp] theorem Mach.modMe_free (m : Mach) (f : Ctx → Ctx) : (m.modMe f).free = m.free := rfl

/-! ### `Mach.modCore` -/

@[simp] theorem Mach.modCore_cur (m : Mach) (c : Nat) (f : Core → Core) : (m.modCore c f).cur = m.cur := rfl
@[simp] theorem Mach.modCore_now (m : Mach) (c : Nat) (f : Core → Core) : (m.modCore c f).now = m.now := rfl
@[simp] theorem Mach.modCore_mem (m : Mach) (c : Nat) (f : Core → Core) : (m.modCore c f).mem = m.mem := rfl
@[simp] theorem Mach.modCore_empties (m : Mach) (c : Nat) (f : Core → Core) : (m.modCore c f).empties = m.empties := rfl
@[simp] theorem Mach.modCore_ownStores (m : Mach) (c : Nat) (f : Core → Core) : (m.modCore c f).ownStores = m.ownStores := rfl
@[simp] theorem Mach.modCore_ctxs (m : Mach) (c : Nat) (f : Core → Core) : (m.modCore c f).ctxs = m.ctxs := rfl
@[simp] theorem Mach.modCore_clusters (m : Mach) (c : Nat) (f : Core → Core) : (m.modCore c f).clusters = m.clusters := rfl
@[simp] theorem Mach.modCore_slices (m : Mach) (c : Nat) (f : Core → Core) : (m.modCore c f).slices = m.slices := rfl
@[simp] theorem Mach.modCore_dies (m : Mach) (c : Nat) (f : Core → Core) : (m.modCore c f).dies = m.dies := rfl
@[simp] theorem Mach.modCore_dieParts (m : Mach) (c : Nat) (f : Core → Core) : (m.modCore c f).dieParts = m.dieParts := rfl
@[simp] theorem Mach.modCore_parts (m : Mach) (c : Nat) (f : Core → Core) : (m.modCore c f).parts = m.parts := rfl
@[simp] theorem Mach.modCore_blocks (m : Mach) (c : Nat) (f : Core → Core) : (m.modCore c f).blocks = m.blocks := rfl
@[simp] theorem Mach.modCore_packets (m : Mach) (c : Nat) (f : Core → Core) : (m.modCore c f).packets = m.packets := rfl
@[simp] theorem Mach.modCore_closed (m : Mach) (c : Nat) (f : Core → Core) : (m.modCore c f).closed = m.closed := rfl
@[simp] theorem Mach.modCore_pends (m : Mach) (c : Nat) (f : Core → Core) : (m.modCore c f).pends = m.pends := rfl
@[simp] theorem Mach.modCore_folds (m : Mach) (c : Nat) (f : Core → Core) : (m.modCore c f).folds = m.folds := rfl
@[simp] theorem Mach.modCore_foldStores (m : Mach) (c : Nat) (f : Core → Core) : (m.modCore c f).foldStores = m.foldStores := rfl
@[simp] theorem Mach.modCore_saved (m : Mach) (c : Nat) (f : Core → Core) : (m.modCore c f).saved = m.saved := rfl
@[simp] theorem Mach.modCore_invals (m : Mach) (c : Nat) (f : Core → Core) : (m.modCore c f).invals = m.invals := rfl
@[simp] theorem Mach.modCore_nextId (m : Mach) (c : Nat) (f : Core → Core) : (m.modCore c f).nextId = m.nextId := rfl
@[simp] theorem Mach.modCore_poisoned (m : Mach) (c : Nat) (f : Core → Core) : (m.modCore c f).poisoned = m.poisoned := rfl
@[simp] theorem Mach.modCore_hbmBad (m : Mach) (c : Nat) (f : Core → Core) : (m.modCore c f).hbmBad = m.hbmBad := rfl
@[simp] theorem Mach.modCore_l2Bad (m : Mach) (c : Nat) (f : Core → Core) : (m.modCore c f).l2Bad = m.l2Bad := rfl
@[simp] theorem Mach.modCore_framePoisoned (m : Mach) (c : Nat) (f : Core → Core) : (m.modCore c f).framePoisoned = m.framePoisoned := rfl
@[simp] theorem Mach.modCore_frameBad (m : Mach) (c : Nat) (f : Core → Core) : (m.modCore c f).frameBad = m.frameBad := rfl
@[simp] theorem Mach.modCore_scratchBad (m : Mach) (c : Nat) (f : Core → Core) : (m.modCore c f).scratchBad = m.scratchBad := rfl
@[simp] theorem Mach.modCore_l1Bad (m : Mach) (c : Nat) (f : Core → Core) : (m.modCore c f).l1Bad = m.l1Bad := rfl
@[simp] theorem Mach.modCore_peers (m : Mach) (c : Nat) (f : Core → Core) : (m.modCore c f).peers = m.peers := rfl
@[simp] theorem Mach.modCore_peersDown (m : Mach) (c : Nat) (f : Core → Core) : (m.modCore c f).peersDown = m.peersDown := rfl
@[simp] theorem Mach.modCore_bands (m : Mach) (c : Nat) (f : Core → Core) : (m.modCore c f).bands = m.bands := rfl
@[simp] theorem Mach.modCore_image (m : Mach) (c : Nat) (f : Core → Core) : (m.modCore c f).image = m.image := rfl
@[simp] theorem Mach.modCore_nextImage (m : Mach) (c : Nat) (f : Core → Core) : (m.modCore c f).nextImage = m.nextImage := rfl
@[simp] theorem Mach.modCore_spdm (m : Mach) (c : Nat) (f : Core → Core) : (m.modCore c f).spdm = m.spdm := rfl
@[simp] theorem Mach.modCore_vectorIssues (m : Mach) (c : Nat) (f : Core → Core) : (m.modCore c f).vectorIssues = m.vectorIssues := rfl
@[simp] theorem Mach.modCore_matrixRan (m : Mach) (c : Nat) (f : Core → Core) : (m.modCore c f).matrixRan = m.matrixRan := rfl
@[simp] theorem Mach.modCore_free (m : Mach) (c : Nat) (f : Core → Core) : (m.modCore c f).free = m.free := rfl

/-! ### `Mach.dropPend` -/

@[simp] theorem Mach.dropPend_cur (m : Mach) (id : Nat) : (m.dropPend id).cur = m.cur := rfl
@[simp] theorem Mach.dropPend_now (m : Mach) (id : Nat) : (m.dropPend id).now = m.now := rfl
@[simp] theorem Mach.dropPend_mem (m : Mach) (id : Nat) : (m.dropPend id).mem = m.mem := rfl
@[simp] theorem Mach.dropPend_empties (m : Mach) (id : Nat) : (m.dropPend id).empties = m.empties := rfl
@[simp] theorem Mach.dropPend_ownStores (m : Mach) (id : Nat) : (m.dropPend id).ownStores = m.ownStores := rfl
@[simp] theorem Mach.dropPend_cores (m : Mach) (id : Nat) : (m.dropPend id).cores = m.cores := rfl
@[simp] theorem Mach.dropPend_ctxs (m : Mach) (id : Nat) : (m.dropPend id).ctxs = m.ctxs := rfl
@[simp] theorem Mach.dropPend_clusters (m : Mach) (id : Nat) : (m.dropPend id).clusters = m.clusters := rfl
@[simp] theorem Mach.dropPend_slices (m : Mach) (id : Nat) : (m.dropPend id).slices = m.slices := rfl
@[simp] theorem Mach.dropPend_dies (m : Mach) (id : Nat) : (m.dropPend id).dies = m.dies := rfl
@[simp] theorem Mach.dropPend_dieParts (m : Mach) (id : Nat) : (m.dropPend id).dieParts = m.dieParts := rfl
@[simp] theorem Mach.dropPend_parts (m : Mach) (id : Nat) : (m.dropPend id).parts = m.parts := rfl
@[simp] theorem Mach.dropPend_blocks (m : Mach) (id : Nat) : (m.dropPend id).blocks = m.blocks := rfl
@[simp] theorem Mach.dropPend_packets (m : Mach) (id : Nat) : (m.dropPend id).packets = m.packets := rfl
@[simp] theorem Mach.dropPend_closed (m : Mach) (id : Nat) : (m.dropPend id).closed = m.closed := rfl
@[simp] theorem Mach.dropPend_folds (m : Mach) (id : Nat) : (m.dropPend id).folds = m.folds := rfl
@[simp] theorem Mach.dropPend_foldStores (m : Mach) (id : Nat) : (m.dropPend id).foldStores = m.foldStores := rfl
@[simp] theorem Mach.dropPend_saved (m : Mach) (id : Nat) : (m.dropPend id).saved = m.saved := rfl
@[simp] theorem Mach.dropPend_invals (m : Mach) (id : Nat) : (m.dropPend id).invals = m.invals := rfl
@[simp] theorem Mach.dropPend_nextId (m : Mach) (id : Nat) : (m.dropPend id).nextId = m.nextId := rfl
@[simp] theorem Mach.dropPend_poisoned (m : Mach) (id : Nat) : (m.dropPend id).poisoned = m.poisoned := rfl
@[simp] theorem Mach.dropPend_hbmBad (m : Mach) (id : Nat) : (m.dropPend id).hbmBad = m.hbmBad := rfl
@[simp] theorem Mach.dropPend_l2Bad (m : Mach) (id : Nat) : (m.dropPend id).l2Bad = m.l2Bad := rfl
@[simp] theorem Mach.dropPend_framePoisoned (m : Mach) (id : Nat) : (m.dropPend id).framePoisoned = m.framePoisoned := rfl
@[simp] theorem Mach.dropPend_frameBad (m : Mach) (id : Nat) : (m.dropPend id).frameBad = m.frameBad := rfl
@[simp] theorem Mach.dropPend_scratchBad (m : Mach) (id : Nat) : (m.dropPend id).scratchBad = m.scratchBad := rfl
@[simp] theorem Mach.dropPend_l1Bad (m : Mach) (id : Nat) : (m.dropPend id).l1Bad = m.l1Bad := rfl
@[simp] theorem Mach.dropPend_peers (m : Mach) (id : Nat) : (m.dropPend id).peers = m.peers := rfl
@[simp] theorem Mach.dropPend_peersDown (m : Mach) (id : Nat) : (m.dropPend id).peersDown = m.peersDown := rfl
@[simp] theorem Mach.dropPend_bands (m : Mach) (id : Nat) : (m.dropPend id).bands = m.bands := rfl
@[simp] theorem Mach.dropPend_image (m : Mach) (id : Nat) : (m.dropPend id).image = m.image := rfl
@[simp] theorem Mach.dropPend_nextImage (m : Mach) (id : Nat) : (m.dropPend id).nextImage = m.nextImage := rfl
@[simp] theorem Mach.dropPend_spdm (m : Mach) (id : Nat) : (m.dropPend id).spdm = m.spdm := rfl
@[simp] theorem Mach.dropPend_vectorIssues (m : Mach) (id : Nat) : (m.dropPend id).vectorIssues = m.vectorIssues := rfl
@[simp] theorem Mach.dropPend_matrixRan (m : Mach) (id : Nat) : (m.dropPend id).matrixRan = m.matrixRan := rfl
@[simp] theorem Mach.dropPend_free (m : Mach) (id : Nat) : (m.dropPend id).free = m.free := rfl

/-! ### `Mach.done` -/

@[simp] theorem Mach.done_cur (m : Mach) : (m.done).cur = m.cur := rfl
@[simp] theorem Mach.done_now (m : Mach) : (m.done).now = m.now := rfl
@[simp] theorem Mach.done_mem (m : Mach) : (m.done).mem = m.mem := rfl
@[simp] theorem Mach.done_empties (m : Mach) : (m.done).empties = m.empties := rfl
@[simp] theorem Mach.done_ownStores (m : Mach) : (m.done).ownStores = m.ownStores := rfl
@[simp] theorem Mach.done_cores (m : Mach) : (m.done).cores = m.cores := rfl
@[simp] theorem Mach.done_clusters (m : Mach) : (m.done).clusters = m.clusters := rfl
@[simp] theorem Mach.done_slices (m : Mach) : (m.done).slices = m.slices := rfl
@[simp] theorem Mach.done_dies (m : Mach) : (m.done).dies = m.dies := rfl
@[simp] theorem Mach.done_dieParts (m : Mach) : (m.done).dieParts = m.dieParts := rfl
@[simp] theorem Mach.done_parts (m : Mach) : (m.done).parts = m.parts := rfl
@[simp] theorem Mach.done_blocks (m : Mach) : (m.done).blocks = m.blocks := rfl
@[simp] theorem Mach.done_packets (m : Mach) : (m.done).packets = m.packets := rfl
@[simp] theorem Mach.done_closed (m : Mach) : (m.done).closed = m.closed := rfl
@[simp] theorem Mach.done_pends (m : Mach) : (m.done).pends = m.pends := rfl
@[simp] theorem Mach.done_folds (m : Mach) : (m.done).folds = m.folds := rfl
@[simp] theorem Mach.done_foldStores (m : Mach) : (m.done).foldStores = m.foldStores := rfl
@[simp] theorem Mach.done_saved (m : Mach) : (m.done).saved = m.saved := rfl
@[simp] theorem Mach.done_invals (m : Mach) : (m.done).invals = m.invals := rfl
@[simp] theorem Mach.done_nextId (m : Mach) : (m.done).nextId = m.nextId := rfl
@[simp] theorem Mach.done_poisoned (m : Mach) : (m.done).poisoned = m.poisoned := rfl
@[simp] theorem Mach.done_hbmBad (m : Mach) : (m.done).hbmBad = m.hbmBad := rfl
@[simp] theorem Mach.done_l2Bad (m : Mach) : (m.done).l2Bad = m.l2Bad := rfl
@[simp] theorem Mach.done_framePoisoned (m : Mach) : (m.done).framePoisoned = m.framePoisoned := rfl
@[simp] theorem Mach.done_frameBad (m : Mach) : (m.done).frameBad = m.frameBad := rfl
@[simp] theorem Mach.done_scratchBad (m : Mach) : (m.done).scratchBad = m.scratchBad := rfl
@[simp] theorem Mach.done_l1Bad (m : Mach) : (m.done).l1Bad = m.l1Bad := rfl
@[simp] theorem Mach.done_peers (m : Mach) : (m.done).peers = m.peers := rfl
@[simp] theorem Mach.done_peersDown (m : Mach) : (m.done).peersDown = m.peersDown := rfl
@[simp] theorem Mach.done_bands (m : Mach) : (m.done).bands = m.bands := rfl
@[simp] theorem Mach.done_image (m : Mach) : (m.done).image = m.image := rfl
@[simp] theorem Mach.done_nextImage (m : Mach) : (m.done).nextImage = m.nextImage := rfl
@[simp] theorem Mach.done_spdm (m : Mach) : (m.done).spdm = m.spdm := rfl
@[simp] theorem Mach.done_vectorIssues (m : Mach) : (m.done).vectorIssues = m.vectorIssues := rfl
@[simp] theorem Mach.done_matrixRan (m : Mach) : (m.done).matrixRan = m.matrixRan := rfl
@[simp] theorem Mach.done_free (m : Mach) : (m.done).free = m.free := rfl

/-! ### `Mach.doneAt` -/

@[simp] theorem Mach.doneAt_cur (m : Mach) (pc : Word) : (m.doneAt pc).cur = m.cur := rfl
@[simp] theorem Mach.doneAt_now (m : Mach) (pc : Word) : (m.doneAt pc).now = m.now := rfl
@[simp] theorem Mach.doneAt_mem (m : Mach) (pc : Word) : (m.doneAt pc).mem = m.mem := rfl
@[simp] theorem Mach.doneAt_empties (m : Mach) (pc : Word) : (m.doneAt pc).empties = m.empties := rfl
@[simp] theorem Mach.doneAt_ownStores (m : Mach) (pc : Word) : (m.doneAt pc).ownStores = m.ownStores := rfl
@[simp] theorem Mach.doneAt_cores (m : Mach) (pc : Word) : (m.doneAt pc).cores = m.cores := rfl
@[simp] theorem Mach.doneAt_clusters (m : Mach) (pc : Word) : (m.doneAt pc).clusters = m.clusters := rfl
@[simp] theorem Mach.doneAt_slices (m : Mach) (pc : Word) : (m.doneAt pc).slices = m.slices := rfl
@[simp] theorem Mach.doneAt_dies (m : Mach) (pc : Word) : (m.doneAt pc).dies = m.dies := rfl
@[simp] theorem Mach.doneAt_dieParts (m : Mach) (pc : Word) : (m.doneAt pc).dieParts = m.dieParts := rfl
@[simp] theorem Mach.doneAt_parts (m : Mach) (pc : Word) : (m.doneAt pc).parts = m.parts := rfl
@[simp] theorem Mach.doneAt_blocks (m : Mach) (pc : Word) : (m.doneAt pc).blocks = m.blocks := rfl
@[simp] theorem Mach.doneAt_packets (m : Mach) (pc : Word) : (m.doneAt pc).packets = m.packets := rfl
@[simp] theorem Mach.doneAt_closed (m : Mach) (pc : Word) : (m.doneAt pc).closed = m.closed := rfl
@[simp] theorem Mach.doneAt_pends (m : Mach) (pc : Word) : (m.doneAt pc).pends = m.pends := rfl
@[simp] theorem Mach.doneAt_folds (m : Mach) (pc : Word) : (m.doneAt pc).folds = m.folds := rfl
@[simp] theorem Mach.doneAt_foldStores (m : Mach) (pc : Word) : (m.doneAt pc).foldStores = m.foldStores := rfl
@[simp] theorem Mach.doneAt_saved (m : Mach) (pc : Word) : (m.doneAt pc).saved = m.saved := rfl
@[simp] theorem Mach.doneAt_invals (m : Mach) (pc : Word) : (m.doneAt pc).invals = m.invals := rfl
@[simp] theorem Mach.doneAt_nextId (m : Mach) (pc : Word) : (m.doneAt pc).nextId = m.nextId := rfl
@[simp] theorem Mach.doneAt_poisoned (m : Mach) (pc : Word) : (m.doneAt pc).poisoned = m.poisoned := rfl
@[simp] theorem Mach.doneAt_hbmBad (m : Mach) (pc : Word) : (m.doneAt pc).hbmBad = m.hbmBad := rfl
@[simp] theorem Mach.doneAt_l2Bad (m : Mach) (pc : Word) : (m.doneAt pc).l2Bad = m.l2Bad := rfl
@[simp] theorem Mach.doneAt_framePoisoned (m : Mach) (pc : Word) : (m.doneAt pc).framePoisoned = m.framePoisoned := rfl
@[simp] theorem Mach.doneAt_frameBad (m : Mach) (pc : Word) : (m.doneAt pc).frameBad = m.frameBad := rfl
@[simp] theorem Mach.doneAt_scratchBad (m : Mach) (pc : Word) : (m.doneAt pc).scratchBad = m.scratchBad := rfl
@[simp] theorem Mach.doneAt_l1Bad (m : Mach) (pc : Word) : (m.doneAt pc).l1Bad = m.l1Bad := rfl
@[simp] theorem Mach.doneAt_peers (m : Mach) (pc : Word) : (m.doneAt pc).peers = m.peers := rfl
@[simp] theorem Mach.doneAt_peersDown (m : Mach) (pc : Word) : (m.doneAt pc).peersDown = m.peersDown := rfl
@[simp] theorem Mach.doneAt_bands (m : Mach) (pc : Word) : (m.doneAt pc).bands = m.bands := rfl
@[simp] theorem Mach.doneAt_image (m : Mach) (pc : Word) : (m.doneAt pc).image = m.image := rfl
@[simp] theorem Mach.doneAt_nextImage (m : Mach) (pc : Word) : (m.doneAt pc).nextImage = m.nextImage := rfl
@[simp] theorem Mach.doneAt_spdm (m : Mach) (pc : Word) : (m.doneAt pc).spdm = m.spdm := rfl
@[simp] theorem Mach.doneAt_vectorIssues (m : Mach) (pc : Word) : (m.doneAt pc).vectorIssues = m.vectorIssues := rfl
@[simp] theorem Mach.doneAt_matrixRan (m : Mach) (pc : Word) : (m.doneAt pc).matrixRan = m.matrixRan := rfl
@[simp] theorem Mach.doneAt_free (m : Mach) (pc : Word) : (m.doneAt pc).free = m.free := rfl

/-! ### Units after an update -/

@[simp] theorem Mach.ctx_setCtx_self (m : Mach) (c x : Nat) (v : Ctx) : (m.setCtx c x v).ctx c x = v := by
  simp [Mach.ctx, Mach.setCtx]

theorem Mach.ctx_setCtx_ne (m : Mach) {c x d y : Nat} (v : Ctx) (h : 16 * d + y ≠ 16 * c + x) :
    (m.setCtx c x v).ctx d y = m.ctx d y := by
  simp [Mach.ctx, Mach.setCtx, Table.get_set_ne _ _ _ h]

@[simp] theorem Mach.me_setMe (m : Mach) (v : Ctx) : (m.setMe v).me = v := by
  simp [Mach.me, Mach.setMe]

@[simp] theorem Mach.me_modMe (m : Mach) (f : Ctx → Ctx) : (m.modMe f).me = f m.me := by
  simp [Mach.me, Mach.modMe, Mach.setMe]

@[simp] theorem Mach.core_setCore_self (m : Mach) (c : Nat) (v : Core) : (m.setCore c v).core c = v := by
  simp [Mach.core, Mach.setCore]

theorem Mach.core_setCore_ne (m : Mach) {c d : Nat} (v : Core) (h : d ≠ c) : (m.setCore c v).core d = m.core d := by
  simp [Mach.core, Mach.setCore, Table.get_set_ne _ _ _ h]

@[simp] theorem Mach.core_modCore_self (m : Mach) (c : Nat) (f : Core → Core) : (m.modCore c f).core c = f (m.core c) := by
  simp [Mach.modCore]

theorem Mach.core_modCore_ne (m : Mach) {c d : Nat} (f : Core → Core) (h : d ≠ c) : (m.modCore c f).core d = m.core d :=
  Mach.core_setCore_ne m _ h

@[simp] theorem Mach.cluster_setCluster_self (m : Mach) (c : Nat) (v : Cluster) : (m.setCluster c v).cluster c = v := by
  simp [Mach.cluster, Mach.setCluster]

@[simp] theorem Mach.slice_modSlice_self (m : Mach) (c : Nat) (f : Slice → Slice) : (m.modSlice c f).slice c = f (m.slice c) := by
  simp [Mach.slice, Mach.modSlice]

@[simp] theorem Mach.diePart_modDiePart_self (m : Mach) (d p : Nat) (f : DiePart → DiePart) :
    (m.modDiePart d p f).diePart d p = f (m.diePart d p) := by
  simp [Mach.diePart, Mach.modDiePart]

@[simp] theorem Mach.part_modPart_self (m : Mach) (p : Nat) (f : Part → Part) : (m.modPart p f).part p = f (m.part p) := by
  simp [Mach.part, Mach.modPart]

/-! ### Words -/

@[simp] theorem Mach.me_write (m : Mach) (k n v : Nat) : (m.write k n v).me = m.me := rfl
@[simp] theorem Mach.me_fill (m : Mach) (k : Nat) : (m.fill k).me = m.me := rfl
@[simp] theorem Mach.me_empty (m : Mach) (k : Nat) : (m.empty k).me = m.me := rfl
@[simp] theorem Mach.me_putReg (m : Mach) (k n v : Nat) : (m.putReg k n v).me = m.me := rfl
@[simp] theorem Mach.me_fresh (m : Mach) : m.fresh.me = m.me := rfl
@[simp] theorem Mach.me_modCore (m : Mach) (c : Nat) (f : Core → Core) : (m.modCore c f).me = m.me := rfl

@[simp] theorem Mach.full_fill (m : Mach) (k a : Nat) : (m.fill k).full a = (a == k || m.full a) := by
  by_cases h : a = k <;> simp [Mach.full, Mach.fill, h]

@[simp] theorem Mach.full_empty (m : Mach) (k a : Nat) : (m.empty k).full a = (a != k && m.full a) := by
  by_cases h : a = k <;> simp [Mach.full, Mach.empty, h]

theorem Mach.mem_putReg_out (m : Mach) (k n v a : Nat) (h : a < k ∨ k + n ≤ a) :
    Mem.get (m.putReg k n v).mem a = Mem.get m.mem a := Mem.get_write_out m.mem k n v a h

@[simp] theorem Mach.read_putReg_self (m : Mach) (k n v : Nat) : (m.putReg k n v).read k n = v % 256 ^ n :=
  Mem.read_write_self m.mem k n v

theorem Mach.read_putReg_out (m : Mach) (k n v a j : Nat) (h : a + j ≤ k ∨ k + n ≤ a) :
    (m.putReg k n v).read a j = m.read a j := Mem.read_write_out m.mem k n v a j h

/-- A register that may be read is read as its word. -/
theorem Mach.readW_zero (m : Mach) : m.readW 0 = .ok 0 := by simp [Mach.readW]

end Sys2Proof.Machine
end

