-- ==== Sys2Proof/Laws/Registers.lean ====
section
/-!
SUPPORT. What the shared operand reads, register writes and completions do.
-/
namespace Sys2Proof.Machine

/-! ### Reads -/

theorem Mach.needWord_readable (m : Mach) {k : Nat} (h : m.readable k) : m.needWord k = .ok () := by
  rw [Mach.readable, Bool.and_eq_true, Bool.not_eq_true'] at h
  rw [Mach.needWord, h.1, h.2]
  rfl

theorem Mach.canReadW_iff (m : Mach) (n : BitVec 5) : m.canReadW n ↔ n = 0 ∨ m.readable (m.wKey n) := by
  rw [Mach.canReadW, Bool.or_eq_true, beq_iff_eq]

theorem Mach.canReadM_iff (m : Mach) (n : BitVec 3) : m.canReadM n ↔ n = 0 ∨ m.readable (wordOf (m.mKey n)) := by
  rw [Mach.canReadM, Bool.or_eq_true, beq_iff_eq]

@[simp] theorem Mach.readW_ok (m : Mach) {n : BitVec 5} (h : m.canReadW n) : m.readW n = .ok (m.w n) := by
  by_cases h0 : n = 0
  · rw [Mach.readW, Mach.w, if_pos h0, if_pos h0]
  · rw [Mach.readW, Mach.w, if_neg h0, if_neg h0, m.needWord_readable (((m.canReadW_iff n).1 h).resolve_left h0)]
    rfl

@[simp] theorem Mach.readM_ok (m : Mach) {n : BitVec 3} (h : m.canReadM n) : m.readM n = .ok (m.mask n) := by
  by_cases h0 : n = 0
  · rw [Mach.readM, Mach.mask, if_pos h0, if_pos h0]
  · rw [Mach.readM, if_neg h0, m.needWord_readable (((m.canReadM_iff n).1 h).resolve_left h0)]
    rfl

@[simp] theorem Mach.readK_ok (m : Mach) {n : BitVec 3} (h : m.canReadK n) : m.readK n = .ok (m.k n) := by
  rw [Mach.readK, m.needWord_readable h]
  rfl

/-- An operand word that is empty. -/
theorem Mach.readW_empty (m : Mach) {n : BitVec 5} (h0 : n ≠ 0) (h : m.full (m.wKey n) = false) :
    m.readW n = .error { cause := .hazardRead, bad := m.wordBad } := by
  rw [Mach.readW, if_neg h0, Mach.needWord, h]
  rfl

/-! ### Completions -/

@[simp] theorem Mach.settle_ok (m t : Mach) : m.settle (.ok t) = t := rfl
@[simp] theorem Mach.settle_error (m : Mach) (t : Trap) : m.settle (.error t) = m.trapMe t := rfl

theorem Mach.alu2_ok (m : Mach) {d a b : BitVec 5} (f : Word → Word → Word) (ha : m.canReadW a) (hb : m.canReadW b) :
    m.alu2 d a b f = (m.writeW d (f (m.w a) (m.w b))).done := by
  simp [Mach.alu2, ha, hb, bind, Except.bind]

theorem Mach.alu1_ok (m : Mach) {d a : BitVec 5} (f : Word → Word) (ha : m.canReadW a) :
    m.alu1 d a f = (m.writeW d (f (m.w a))).done := by
  simp [Mach.alu1, ha, bind, Except.bind]

theorem Mach.divide_ok (m : Mach) {d a b : BitVec 5} (f : Word → Word → Word) (ha : m.canReadW a) (hb : m.canReadW b)
    (h : m.w b ≠ 0) : m.divide d a b f = (m.late (m.lateW d) (.value (f (m.w a) (m.w b)).toNat 0)).done := by
  rw [Mach.divide, m.readW_ok ha, m.readW_ok hb]
  simp only [bind, Except.bind]
  rw [if_neg h]
  rfl

theorem Mach.divide_zero (m : Mach) {d a b : BitVec 5} (f : Word → Word → Word) (ha : m.canReadW a) (hb : m.canReadW b)
    (h : m.w b = 0) : m.divide d a b f = m.trapMe { cause := .divideByZero } := by
  rw [Mach.divide, m.readW_ok ha, m.readW_ok hb]
  simp only [bind, Except.bind]
  rw [if_pos h]
  rfl

/-- A cause that no hold record takes is taken as a trap, and the trapping instruction is the one issued last. -/
theorem Mach.trapMe_entry (m : Mach) {t : Trap} (h : recoverable t.cause = false)
    (hh : t.held = false := by rfl) : m.trapMe t = m.lastHere.enterTrap m.cur.core m.cur.ctx t m.me.pc := by
  simp [Mach.trapMe, Mach.raise, h, hh, Mach.lastHere]

theorem Mach.operandsFull_ok (m : Mach) {srcs : List (BitVec 4)} {mk : BitVec 3} {ws : List (BitVec 5)}
    (h : m.operandsFull srcs mk ws) : m.needOperands srcs mk ws = .ok () := by
  unfold Mach.operandsFull at h
  cases hx : m.needOperands srcs mk ws with
  | ok u => rfl
  | error e => simp [hx] at h

/-- Scalar sources that may be read. -/
theorem Mach.operandsFull_one (m : Mach) {a : BitVec 5} (h : m.canReadW a) : m.needOperands [] 0 [a] = .ok () := by
  simp [Mach.needOperands, Mach.needVs, Mach.needWs, Mach.readM, h]

/-- Operand words that are full and ports that are ready let the reads go on. -/
theorem Mach.popping_ok (m : Mach) {dest : Option (BitVec 4)} {srcs : List (BitVec 4)} (r : Res Mach)
    (h : m.portsReady dest srcs) : m.popping dest srcs (.ok ()) r = m.settle r := by
  unfold Mach.portsReady at h
  rw [Bool.and_eq_true, Bool.and_eq_true, Bool.not_eq_true'] at h
  obtain ⟨⟨h1, h2⟩, h3⟩ := h
  have hs : m.streamWait srcs = none := by simpa using h3
  cases dest with
  | none => simp [Mach.popping, h2, hs]
  | some d =>
    cases hx : m.destOk d srcs with
    | ok u => simp [Mach.popping, hx, h2, hs]
    | error e => simp [hx] at h1

/-- The reads of a vector instruction succeed: its effect is that of its body. -/
theorem Mach.vecOp_ok (m : Mach) {dest : Option (BitVec 4)} {srcs : List (BitVec 4)} {mk : BitVec 3} {ws : List (BitVec 5)}
    {m1 : Mach} {mask : BitVec 16} {val : BitVec 4 → V} (f : Mach → BitVec 16 → (BitVec 4 → V) → Res Mach)
    (h : m.vecReads dest srcs mk ws = some (m1, mask, val)) : m.vecOp dest srcs mk f ws = m.settle (f m1 mask val) := by
  unfold Mach.vecReads at h
  by_cases hc : m.operandsFull srcs mk ws && m.portsReady dest srcs
  · rw [if_pos hc] at h
    rw [Bool.and_eq_true] at hc
    cases hv : m.readVs srcs with
    | error e => simp [hv] at h
    | ok r =>
      cases hm : m.readM mk with
      | error e => simp [hv, hm] at h
      | ok k =>
        simp only [hv, hm, Option.some.injEq, Prod.mk.injEq] at h
        obtain ⟨rfl, rfl, rfl⟩ := h
        rw [Mach.vecOp, m.operandsFull_ok hc.1, m.popping_ok _ hc.2, hv, hm]
        rfl
  · rw [if_neg hc] at h
    exact absurd h (by simp)

end Sys2Proof.Machine
end

