-- ==== Sys2Proof/Laws/Branch.lean ====
section
/-!
SUPPORT. What the shared branch operations do.
-/
namespace Sys2Proof.Machine

/-- The target of a 15-bit displacement (R43). -/
theorem Mach.target_short (m : Mach) (f : BitVec 15) : m.target 15 f = m.me.pc + BitVec.ofInt 64 (4 * f.toInt) := by
  rw [Mach.target, BitVec.ofInt_mul]; rfl

/-- The target of a 20-bit displacement. -/
theorem Mach.target_long (m : Mach) (f : BitVec 20) : m.target 20 f = m.me.pc + BitVec.ofInt 64 (4 * f.toInt) := by
  rw [Mach.target, BitVec.ofInt_mul]; rfl

/-- A compare-and-branch whose operands read: the next pc, and nothing else. -/
theorem Mach.branch_ok (m : Mach) (a b : BitVec 5) (f : BitVec 15) (c : Word → Word → Bool) (ha : m.canReadW a) (hb : m.canReadW b) (P : Prop) [Decidable P] (h : c (m.w a) (m.w b) = true ↔ P) :
    m.branch a b f c = m.doneAt (if P then m.me.pc + BitVec.ofInt 64 (4 * f.toInt) else m.me.pc + 4) := by
  rw [Mach.branch, m.readW_ok ha, m.readW_ok hb]
  simp only [bind, Except.bind, Mach.settle_ok, Mach.target_short, Mach.done]
  by_cases hP : P
  · rw [if_pos (h.2 hP), if_pos hP]
  · rw [if_neg (fun x => hP (h.1 x)), if_neg hP]

/-- A branch on a mask. -/
theorem Mach.branchMask_ok (m : Mach) (k : BitVec 3) (f : BitVec 15) (c : BitVec 16 → Bool) (hk : m.canReadM k) (P : Prop) [Decidable P] (h : c (m.mask k) = true ↔ P) :
    m.branchMask k f c = m.doneAt (if P then m.me.pc + BitVec.ofInt 64 (4 * f.toInt) else m.me.pc + 4) := by
  rw [Mach.branchMask, m.readM_ok hk]
  simp only [bind, Except.bind, Mach.settle_ok, Mach.target_short, Mach.done]
  by_cases hP : P
  · rw [if_pos (h.2 hP), if_pos hP]
  · rw [if_neg (fun x => hP (h.1 x)), if_neg hP]

/-- The target of an indirect jump. -/
theorem jump_target (x : Word) (i : BitVec 15) : x + 4 * signExtend 15 i = x + BitVec.ofInt 64 (4 * i.toInt) := by
  rw [BitVec.ofInt_mul]; rfl

/-- When a call finds room on the link stack. -/
theorem Mach.linksFull_iff (m : Mach) : m.linksFull = false ↔ (m.me.links.length < 8 ∨ m.linkDepth < 8) := by
  simp [Mach.linksFull]; omega

end Sys2Proof.Machine
end

