-- ==== Sys2Proof/Laws/Decode.lean ====
section
/-!
SUPPORT. Reading the fields of a word built by `put`.
-/
namespace Sys2Proof

@[simp] theorem bits_put_hi {n : Nat} (x : BitVec n) (w : IWord) {lo len : Nat} (h : n ≤ lo) (hw : lo + len ≤ 32) :
    bits (put x w) lo len = bits w (lo - n) len := by
  apply BitVec.eq_of_getLsbD_eq
  intro i hi
  have h1 : lo + i < 32 := by omega
  have h2 : ¬ lo + i < n := by omega
  have h3 : lo + i - n = lo - n + i := by omega
  have h4 : x.getLsbD (lo + i) = false := BitVec.getLsbD_of_ge x _ (by omega)
  have h5 : lo - n + i < 32 := by omega
  simp [bits, put, hi, h1, h2, h3, h4, BitVec.getLsbD_eq_getElem h5]

@[simp] theorem bits_put_lo {n : Nat} (x : BitVec n) (w : IWord) {lo len : Nat} (h : lo + len ≤ n) (hw : n ≤ 32) :
    bits (put x w) lo len = x.extractLsb' lo len := by
  apply BitVec.eq_of_getLsbD_eq
  intro i hi
  have h1 : lo + i < 32 := by omega
  have h2 : lo + i < n := by omega
  simp [bits, put, hi, h1, h2]

end Sys2Proof
end

