-- ==== Sys2Proof/Laws/Frames.lean ====
section
/-!
SUPPORT. What the shared updates of contexts, cores and register words leave behind: the frames that every family cites.
-/
namespace Sys2Proof.Machine

/-- A meaning over the machine always answers a next state. -/
theorem State.onMach_next (s : State) (f : Mach → Mach) : s.onMach f = .next (s.on (f s.m)) := rfl

/-- The issuing context after its own change. -/
theorem Mach.modMe_me (m : Mach) (f : Ctx → Ctx) : (m.modMe f).me = f m.me := by
  simp only [Mach.modMe, Mach.setMe, Mach.me]
  show (m.setCtx m.cur.core m.cur.ctx _).ctx m.cur.core m.cur.ctx = _
  rw [Mach.ctx_setCtx_self]

/-- Completion moves no workspace. -/
theorem Mach.wKey_doneAt (m : Mach) (d : BitVec 5) (pc : Word) : (m.doneAt pc).wKey d = m.wKey d := by
  simp only [Mach.wKey, Mach.regKey, Mach.doneAt, Mach.modMe, Mach.setMe, Mach.me]
  show scratchKey m.cur.core (((m.setCtx m.cur.core m.cur.ctx _).ctx m.cur.core m.cur.ctx).wp + _) = _
  rw [Mach.ctx_setCtx_self]; rfl

/-- A write of w[d] in the pipeline: the register reads as written and its word is full. -/
theorem Mach.w_written (m : Mach) (d : BitVec 5) (v : Word) (h0 : d ≠ 0) : (m.writeW d v).done.w d = v ∧ ((m.writeW d v).done.full (wordOf ((m.writeW d v).done.wKey d)) = true) := by
  have e : m.writeW d v = m.putReg (m.wKey d) 8 v.toNat := by rw [Mach.writeW, if_neg h0]
  have hk : (m.writeW d v).done.wKey d = m.wKey d := by rw [Mach.done, Mach.wKey_doneAt, e]; rfl
  constructor
  · rw [Mach.w, if_neg h0, hk, e]
    show BitVec.ofNat 64 (Mem.read (Mem.write m.mem (m.wKey d) 8 v.toNat) (m.wKey d) 8) = v
    rw [Mem.read_write_self]
    apply BitVec.eq_of_toNat_eq
    have := v.isLt
    simp; omega
  · rw [hk, e]
    show (m.fill (wordOf (m.wKey d))).full (wordOf (m.wKey d)) = true
    rw [Mach.full_fill]; simp

/-- A completion changes the issuing context alone. -/
theorem Mach.differs_doneAt (m : Mach) (pc : Word) : m.Differs (m.doneAt pc) (fun _ => False) { m.me.issued with pc := pc } :=
  ⟨rfl, fun _ _ => rfl, fun _ _ _ => rfl, fun _ _ _ => rfl, fun _ _ h => Mach.ctx_setCtx_ne _ _ h, Mach.ctx_setCtx_self _ _ _ _⟩

/-- All that a completed pipeline write of w[d] changes. -/
theorem Mach.differs_writeW (m : Mach) (d : BitVec 5) (v : Word) :
    m.Differs (m.writeW d v).done (fun k => d ≠ 0 ∧ m.wKey d ≤ k ∧ k < m.wKey d + 8) m.inSequence := by
  by_cases h0 : d = 0
  · have e : m.writeW d v = m := by rw [Mach.writeW, if_pos h0]
    rw [e]
    exact ⟨rfl, fun _ _ => rfl, fun _ _ _ => rfl, fun _ _ _ => rfl, fun c x h => Mach.ctx_setCtx_ne _ _ h, Mach.ctx_setCtx_self _ _ _ _⟩
  · have e : m.writeW d v = m.putReg (m.wKey d) 8 v.toNat := by rw [Mach.writeW, if_neg h0]
    rw [e]
    refine ⟨rfl, ?_, ?_, ?_, fun c x h => Mach.ctx_setCtx_ne _ _ h, Mach.ctx_setCtx_self _ _ _ _⟩
    · intro a ha
      exact Mem.get_write_out _ _ _ _ _ (by simp only [not_and_or, not_not] at ha; rcases ha with h | h | h; exact absurd h h0; omega; omega)
    · intro k _ hk
      have : wordOf (m.wKey d) ≠ k := hk (m.wKey d) ⟨h0, by omega, by omega⟩
      show (m.fill (wordOf (m.wKey d))).full k = m.full k
      rw [Mach.full_fill]; simp [Ne.symm this]
    · intro k _ hk
      have : wordOf (m.wKey d) ≠ k := hk (m.wKey d) ⟨h0, by omega, by omega⟩
      show (eraseNat m.scratchBad (wordOf (m.wKey d))).contains k = m.scratchBad.contains k
      rw [Bool.eq_iff_iff]; simp [mem_eraseNat, Ne.symm this]

/-- All that a completed pipeline write of w[d] with float flags changes. -/
theorem Mach.differs_flagged (m : Mach) (d : BitVec 5) (v : Word) (fl : BitVec 5) (g : BitVec 32) :
    m.Differs ((m.writeW d v).flagged fl g).done (fun k => d ≠ 0 ∧ m.wKey d ≤ k ∧ k < m.wKey d + 8)
      { m.inSequence with fpflags := m.me.fpflags ||| fl, gen := g } := by
  obtain ⟨h1, h2, h3, h4, h5, h6⟩ := Mach.differs_writeW m d v
  have hcur : (m.writeW d v).cur = m.cur := by rw [Mach.writeW]; split <;> rfl
  have hctx : (m.writeW d v).ctxs = m.ctxs := by rw [Mach.writeW]; split <;> rfl
  refine ⟨?_, h2, h3, h4, ?_, ?_⟩
  · have : (m.writeW d v) = { m with mem := (m.writeW d v).mem, empties := (m.writeW d v).empties, scratchBad := (m.writeW d v).scratchBad } := by
      rw [Mach.writeW]; split <;> rfl
    rw [Mach.writeW]; split <;> rfl
  · intro c x h
    rw [Mach.done, Mach.doneAt, Mach.modMe, Mach.setMe, Mach.flagged, Mach.modMe, Mach.setMe]
    show ((((m.writeW d v).setCtx (m.writeW d v).cur.core (m.writeW d v).cur.ctx _)).setCtx (m.writeW d v).cur.core (m.writeW d v).cur.ctx _).ctx c x = _
    rw [hcur]
    rw [Mach.ctx_setCtx_ne _ _ h, Mach.ctx_setCtx_ne _ _ h, Mach.ctx, Mach.ctx, hctx]
  · rw [Mach.done, Mach.doneAt, Mach.modMe_me, Mach.flagged, Mach.modMe_me]
    have : (m.writeW d v).me = m.me := by rw [Mach.me, Mach.me, Mach.ctx, Mach.ctx, hcur, hctx]
    rw [this]; rfl

/-! ### The canonical form of memory is kept by every register write and by trap entry -/

theorem Mach.putReg_wf (m : Mach) (h : Memory.wf m.mem) (k n v : Nat) : Memory.wf (m.putReg k n v).mem := Memory.wf_write h k n v

theorem Mach.writeW_wf (m : Mach) (h : Memory.wf m.mem) (d : BitVec 5) (v : Word) : Memory.wf (m.writeW d v).mem := by
  rw [Mach.writeW]
  split
  · exact h
  · exact Memory.wf_write h _ _ _

theorem Mach.writeM_wf (m : Mach) (h : Memory.wf m.mem) (d : BitVec 3) (v : BitVec 16) : Memory.wf (m.writeM d v).mem := by
  rw [Mach.writeM]
  split
  · exact h
  · exact Memory.wf_write h _ _ _

theorem Mach.writeK_wf (m : Mach) (h : Memory.wf m.mem) (d : BitVec 3) (v : Handle) : Memory.wf (m.writeK d v).mem :=
  Memory.wf_write h _ _ _

theorem Mach.putImage_wf (m : Mach) (h : Memory.wf m.mem) (d : BitVec 4) (v : V) : Memory.wf (m.putImage d v).mem :=
  Memory.wf_write h _ _ _

theorem Mach.enterTrap_wf (m : Mach) (h : Memory.wf m.mem) (c x : Nat) (t : Trap) (pc : Word) :
    Memory.wf (m.enterTrap c x t pc).mem :=
  Memory.wf_write (Memory.wf_write (Memory.wf_write (Memory.wf_write (Memory.wf_write h _ _ _) _ _ _) _ _ _) _ _ _) _ _ _

/-! ### Late results: the words empty at issue (R19) -/

/-- Emptying words changes their full/empty bits and nothing else. -/
theorem Mach.emptyAll_eq (m : Mach) (ws : List Nat) :
    m.emptyAll ws = { m with empties := ws.foldl insertNat m.empties } := by
  induction ws generalizing m with
  | nil => rfl
  | cons w ws ih => exact (ih (m.empty w)).trans rfl

theorem mem_foldl_insertNat (ws l : List Nat) (k : Nat) : k ∈ ws.foldl insertNat l ↔ k ∈ ws ∨ k ∈ l := by
  induction ws generalizing l with
  | nil => simp
  | cons w ws ih => rw [List.foldl_cons, ih, mem_insertNat, List.mem_cons]; tauto

/-- What a late result does at issue: its words are empty, and it stands behind the results outstanding. -/
theorem Mach.late_full (m : Mach) (ws : List Nat) (l : Late) (access : Bool) (k : Nat) :
    (m.late ws l access).full k = (m.full k && !ws.contains k) := by
  have e : (m.late ws l access).full k = (m.emptyAll ws).full k := rfl
  rw [e, m.emptyAll_eq]
  show (!(ws.foldl insertNat m.empties).contains k) = (!m.empties.contains k && !ws.contains k)
  rw [Bool.eq_iff_iff]
  simp [mem_foldl_insertNat, and_comm]

theorem Mach.late_mem (m : Mach) (ws : List Nat) (l : Late) (access : Bool := false) : (m.late ws l access).mem = m.mem := by
  show (m.emptyAll ws).mem = m.mem
  rw [m.emptyAll_eq]

theorem Mach.late_scratchBad (m : Mach) (ws : List Nat) (l : Late) (access : Bool) :
    (m.late ws l access).scratchBad = m.scratchBad := by
  show (m.emptyAll ws).scratchBad = m.scratchBad
  rw [m.emptyAll_eq]

theorem Mach.late_cores (m : Mach) (ws : List Nat) (l : Late) (access : Bool) : (m.late ws l access).cores = m.cores := by
  show (m.emptyAll ws).cores = m.cores
  rw [m.emptyAll_eq]

theorem Mach.late_cur (m : Mach) (ws : List Nat) (l : Late) (access : Bool) : (m.late ws l access).cur = m.cur := by
  show (m.emptyAll ws).cur = m.cur
  rw [m.emptyAll_eq]

end Sys2Proof.Machine
end

