-- ==== Sys2Proof/Laws/Scratch.lean ====
section
/-!
SUPPORT. What the checks of an access to the issuing core's own window answer, and what performing its stores can change.
-/
namespace Sys2Proof.Machine

/-- An aligned access inside the own window passes every check and is local (R129); any but a store comes after the core's
earlier stores there (R153). -/
theorem Mach.memCheck_own (m : Mach) {a : Word} {n : Nat} (k : Kind) (h : m.ownWindow a n = true) :
    m.memCheck a n k = .ok (m.ownPlace m.cur.core a k) := by
  simp only [Mach.ownWindow, Bool.and_eq_true, beq_iff_eq, decide_eq_true_eq] at h
  obtain ⟨⟨⟨h1, h2⟩, h3⟩, h4⟩ := h
  simp [Mach.memCheck, h1, h2, h3, Nat.not_le.2 h4]

/-- The same of the synchronising forms. -/
theorem Mach.syncCheck_own (m : Mach) {a : Word} (k : Kind) (h : m.ownWindow a 8 = true) :
    m.syncCheck a k = .ok (m.ownPlace m.cur.core a k) := by
  rw [Mach.syncCheck, if_neg, Mach.memCheck_own m k h]
  simp only [Mach.ownWindow, Bool.and_eq_true, beq_iff_eq, isLw] at h
  simp [isGv, h.1.1.1]

/-- Words that are not bad. -/
theorem any_bad (m : Mach) (l : List Nat) (h : ∀ w ∈ l, w ∉ m.scratchBad) : (l.any fun w => m.scratchBad.contains w) = false := by
  simpa using h

/-- The access sizes. -/
theorem size_cases (z : BitVec 2) : z = 0 ∨ z = 1 ∨ z = 2 ∨ z = 3 := by revert z; decide

/-- An aligned word covers itself. -/
theorem wordsOf_aligned (k : Nat) (h : k % 8 = 0) : wordsOf k 8 = [k] := by
  have e1 : (k + 8 - 1) / 8 - k / 8 + 1 = 1 := by omega
  rw [wordsOf, if_neg (by decide), e1]
  simp [wordOf, h]

/-! ### The stores of a core to its own window -/

/-- Performing stores of a core changes memory, the check symbols of the words written and the list of those stores, and nothing
else. -/
theorem Mach.performOwn_frame (m : Mach) (c n : Nat) :
    m.performOwn c n = { m with mem := (m.performOwn c n).mem, scratchBad := (m.performOwn c n).scratchBad,
                                ownStores := (m.performOwn c n).ownStores } := by
  induction n generalizing m with
  | zero => rfl
  | succ n ih =>
    rw [Mach.performOwn]
    split
    · rfl
    · rw [ih]; rfl

theorem Mach.settleOwn_frame (m : Mach) (c : Nat) :
    m.settleOwn c = { m with mem := (m.settleOwn c).mem, scratchBad := (m.settleOwn c).scratchBad,
                             ownStores := (m.settleOwn c).ownStores } := m.performOwn_frame c _

@[simp] theorem Mach.settleOwn_full (m : Mach) (c k : Nat) : (m.settleOwn c).full k = m.full k := by rw [m.settleOwn_frame c]; rfl
@[simp] theorem Mach.settleOwn_cur (m : Mach) (c : Nat) : (m.settleOwn c).cur = m.cur := by rw [m.settleOwn_frame c]
@[simp] theorem Mach.settleOwn_ctxs (m : Mach) (c : Nat) : (m.settleOwn c).ctxs = m.ctxs := by rw [m.settleOwn_frame c]
@[simp] theorem Mach.settleOwn_cores (m : Mach) (c : Nat) : (m.settleOwn c).cores = m.cores := by rw [m.settleOwn_frame c]

/-- Performing stores keeps the canonical form of memory. -/
theorem Mach.performOwn_wf (m : Mach) (h : Memory.wf m.mem) (c n : Nat) : Memory.wf (m.performOwn c n).mem := by
  induction n generalizing m with
  | zero => exact h
  | succ n ih =>
    rw [Mach.performOwn]
    split
    · exact h
    · exact ih _ (Memory.wf_writeAll h _)

theorem Mach.settleOwn_wf (m : Mach) (h : Memory.wf m.mem) (c : Nat) : Memory.wf (m.settleOwn c).mem := m.performOwn_wf h c _

/-- A store to the own window keeps it, whether it is performed at once or not. -/
theorem Mach.storeOwn_wf (m : Mach) (h : Memory.wf m.mem) (c : Nat) (bytes : List (Nat × Byte)) :
    Memory.wf (m.storeOwn c bytes).mem := by
  rw [Mach.storeOwn]
  split
  · exact Memory.wf_writeAll (m.settleOwn_wf h c) _
  · exact h

end Sys2Proof.Machine
end

