-- ==== Sys2Proof/Laws/Vector.lean ====
section
/-!
SUPPORT. What the element-wise operations leave in each element.
-/
namespace Sys2Proof.Machine

/-- An element is below two to its width. -/
theorem elem_lt (v : V) (w j : Nat) : elem v w j < 2 ^ w := (v.extractLsb' (w*j) w).isLt

/-- An element of a vector given by its number. -/
theorem elem_ofNat (x w j : Nat) (hj : w * j + w ≤ 512) : elem (BitVec.ofNat 512 x) w j = x / 2 ^ (w * j) % 2 ^ w := by
  simp only [elem, BitVec.extractLsb'_toNat, BitVec.toNat_ofNat, Nat.shiftRight_eq_div_pow]
  have : (2:Nat)^512 = 2 ^ (w*j) * 2 ^ (512 - w*j) := by rw [← Nat.pow_add]; congr 1; omega
  rw [this, Nat.mod_mul_right_div_self, Nat.mod_mod_of_dvd]
  exact Nat.pow_dvd_pow 2 (by omega)

/-- One 32-bit digit of a vector put together from its lanes. -/
theorem lanesOf_fold (f : Nat → BitVec 32) (n i : Nat) (k : Nat) (h : i < n) :
    ((List.range' k n).foldr (fun i n => (f i).toNat + 2 ^ 32 * n) 0) / 2 ^ (32 * i) % 2 ^ 32 = (f (k + i)).toNat := by
  induction n generalizing k i with
  | zero => omega
  | succ n ih =>
    have hf := (f k).isLt
    rw [List.range'_succ, List.foldr_cons]
    have ih' := fun i hi => ih i (k + 1) hi
    generalize ((List.range' (k + 1) n).foldr (fun i n => (f i).toNat + 2 ^ 32 * n) 0) = z at *
    cases i with
    | zero => rw [Nat.mul_zero, Nat.pow_zero, Nat.div_one, Nat.add_mul_mod_self_left, Nat.mod_eq_of_lt hf, Nat.add_zero]
    | succ i =>
      have e : 2 ^ (32 * (i + 1)) = 2 ^ 32 * 2 ^ (32 * i) := by rw [Nat.mul_succ, Nat.add_comm, Nat.pow_add]
      rw [e, ← Nat.div_div_eq_div_mul, Nat.add_mul_div_left _ _ (by decide), Nat.div_eq_of_lt hf, Nat.zero_add, ih' i (by omega)]
      have e2 : k + 1 + i = k + (i + 1) := by omega
      rw [e2]

/-- A lane of a vector put together from its lanes. -/
theorem lane_lanesOf (f : Nat → BitVec 32) (i : Nat) (h : i < 16) : lane (lanesOf f) i = f i := by
  apply BitVec.eq_of_toNat_eq
  have e := elem_ofNat ((List.range 16).foldr (fun i n => (f i).toNat + 2 ^ 32 * n) 0) 32 i (by omega)
  rw [lane, lanesOf]
  refine Eq.trans e ?_
  rw [List.range_eq_range', lanesOf_fold f 16 i 0 h, Nat.zero_add]

/-- A lane of a merged vector (R424). -/
theorem lane_blend (mask : BitVec 16) (x y : V) (i : Nat) (h : i < 16) :
    lane (blend mask x y) i = if mask.getLsbD i then lane x i else lane y i := by
  rw [blend, lane_lanesOf _ i h]

/-- The element widths of the integer forms. -/
theorem vintWidth_cases (t : BitVec 3) : vintWidth t = 32 ∨ vintWidth t = 16 ∨ vintWidth t = 8 := by
  unfold vintWidth; split; simp; split <;> simp

/-- The fold that an element-wise operation without flags runs: what it leaves below each bound. -/
theorem elementwise_fold (w : Nat) (mask : BitVec 16) (g : BitVec 32) (h : Nat → Nat) (hw : 0 < w)
    (n : Nat) : ((List.range n).foldl (fun (acc : Nat × BitVec 5 × BitVec 32) j =>
    if mask.getLsbD (j * w / 32) then (acc.1 + h j % 2 ^ w * 2 ^ (w * j), acc.2.1 ||| 0, acc.2.2)
    else acc) (0, 0, g)).2 = (0, g) ∧
    ((List.range n).foldl (fun (acc : Nat × BitVec 5 × BitVec 32) j =>
    if mask.getLsbD (j * w / 32) then (acc.1 + h j % 2 ^ w * 2 ^ (w * j), acc.2.1 ||| 0, acc.2.2)
    else acc) (0, 0, g)).1 < 2 ^ (w * n) ∧
    ∀ j, j < n → ((List.range n).foldl (fun (acc : Nat × BitVec 5 × BitVec 32) j =>
    if mask.getLsbD (j * w / 32) then (acc.1 + h j % 2 ^ w * 2 ^ (w * j), acc.2.1 ||| 0, acc.2.2)
    else acc) (0, 0, g)).1 / 2 ^ (w * j) % 2 ^ w = if mask.getLsbD (j * w / 32) then h j % 2 ^ w else 0 := by
  induction n with
  | zero => simp
  | succ n ih =>
    obtain ⟨i1, i2, i3⟩ := ih
    rw [List.range_succ, List.foldl_append, List.foldl_cons, List.foldl_nil]
    generalize hF : (List.range n).foldl _ _ = acc at *
    obtain ⟨A, fl, gg⟩ := acc
    simp only [Prod.mk.injEq] at i1
    obtain ⟨rfl, rfl⟩ := i1
    have hp : 0 < 2 ^ w := Nat.two_pow_pos _
    have hq : 2 ^ (w * (n+1)) = 2 ^ (w * n) * 2 ^ w := by rw [Nat.mul_succ, Nat.pow_add]
    have hm : h n % 2 ^ w < 2 ^ w := Nat.mod_lt _ hp
    by_cases hb : mask.getLsbD (n * w / 32)
    · simp only [hb, if_true]
      refine ⟨by simp, ?_, ?_⟩
      · rw [hq]
        have : h n % 2 ^ w * 2 ^ (w * n) + 2 ^ (w * n) ≤ 2 ^ w * 2 ^ (w * n) := by
          rw [← Nat.succ_mul]; exact Nat.mul_le_mul_right _ hm
        rw [Nat.mul_comm (2 ^ (w*n))]; omega
      · intro j hj
        by_cases e : j = n
        · subst e
          rw [if_pos hb, Nat.add_mul_div_right _ _ (Nat.two_pow_pos _), Nat.div_eq_of_lt i2, Nat.zero_add, Nat.mod_mod]
        · have hjn : j < n := by omega
          rw [← i3 j hjn]
          have : w * n = w * j + w + w * (n - j - 1) := by
            obtain ⟨q, rfl⟩ : ∃ q, n = j + 1 + q := ⟨n - j - 1, by omega⟩
            have h1 : j + 1 + q - j - 1 = q := by omega
            rw [h1]; ring
          rw [this, Nat.pow_add, Nat.pow_add]
          have e2 : h n % 2 ^ w * (2 ^ (w * j) * 2 ^ w * 2 ^ (w * (n - j - 1))) = 2 ^ (w*j) * (2 ^ w * (h n % 2 ^ w * 2 ^ (w * (n - j - 1)))) := by ring
          rw [e2, Nat.add_mul_div_left _ _ (Nat.two_pow_pos _), Nat.add_mul_mod_self_left]
    · simp only [hb]
      refine ⟨rfl, ?_, ?_⟩
      · rw [hq]; exact lt_of_lt_of_le i2 (Nat.le_mul_of_pos_right _ hp)
      · intro j hj
        by_cases e : j = n
        · subst e; simp only [hb]; simp [Nat.div_eq_of_lt i2]
        · exact i3 j (by omega)

/-- An integer vector operation whose reads succeed: the register merged under the mask, each active element as the operation
gives it. -/
theorem Mach.vecInt_ok (m : Mach) (d a b : BitVec 4) (k t : BitVec 3) (m1 : Mach) (mask : BitVec 16) (val : BitVec 4 → V)
   (h : m.vecReads (some d) [a, b] k = some (m1, mask, val)) (f : Nat → Bool → Nat → Nat → Nat) (F : Nat → Nat → Nat)
   (hf : ∀ x y, x < 2 ^ vintWidth t → y < 2 ^ vintWidth t → F x y = f (vintWidth t) (vintSigned t) x y ∧ F x y < 2 ^ vintWidth t) :
   ∃ v : V, m.vecInt d a b k t f = ((m1.writeV d (blend mask v (m1.vimage d))).flagged 0 m1.me.gen).done ∧
     ∀ j, j < 512 / vintWidth t → mask.getLsbD (j * vintWidth t / 32) → elem v (vintWidth t) j = F (elem (val a) (vintWidth t) j) (elem (val b) (vintWidth t) j) := by
  have hw : 0 < vintWidth t := by rcases vintWidth_cases t with h | h | h <;> omega
  have hd : vintWidth t * (512 / vintWidth t) = 512 := by rcases vintWidth_cases t with h | h | h <;> rw [h]
  obtain ⟨c1, c2, c3⟩ := elementwise_fold (vintWidth t) mask m1.me.gen (fun j => f (vintWidth t) (vintSigned t) (elem (val a) (vintWidth t) j) (elem (val b) (vintWidth t) j)) hw (512 / vintWidth t)
  refine ⟨(elementwise (vintWidth t) mask m1.me.gen (fun j g => (f (vintWidth t) (vintSigned t) (elem (val a) (vintWidth t) j) (elem (val b) (vintWidth t) j), 0, g))).1, ?_, ?_⟩
  · rw [Mach.vecInt, Mach.vecElems, m.vecOp_ok _ h, Mach.settle_ok]
    have e : (elementwise (vintWidth t) mask m1.me.gen (fun j g => (f (vintWidth t) (vintSigned t) (elem (val a) (vintWidth t) j) (elem (val b) (vintWidth t) j), 0, g))).2 = (0, m1.me.gen) := c1
    exact congrArg Mach.done (congr (congrArg (Mach.flagged _) (congrArg Prod.fst e)) (congrArg Prod.snd e))
  · intro j hj hb
    rw [elementwise]
    show elem (BitVec.ofNat 512 _) _ _ = _
    rw [elem_ofNat _ _ _ (by have := Nat.mul_le_mul_left (vintWidth t) (Nat.succ_le_of_lt hj); rw [hd, Nat.mul_succ] at this; exact this)]
    have := c3 j hj
    rw [if_pos hb] at this
    rw [this]
    obtain ⟨q1, q2⟩ := hf _ _ (elem_lt (val a) (vintWidth t) j) (elem_lt (val b) (vintWidth t) j)
    rw [← q1, Nat.mod_eq_of_lt q2]

end Sys2Proof.Machine
end

