-- ==== Sys2Proof/Tests/Slice0.lean ====
section
/-!
SUPPORT. Tests: ill-formed instructions and refused words, words of the encodings decoded, single steps with values worked
out by hand, and states that meet the hypotheses of the statements.
-/
open Sys2Proof Sys2Proof.Machine

section
set_option Elab.async false

/-! ### Ill-formed instructions are refused (R305 stage 5) -/

theorem test_wf_bit_field : (Instr.ext 4 5 32 32).wf = false ∧ (Instr.extI64 4 5 63 1).wf = false ∧ (Instr.ins 4 5 1 63).wf = false := by decide
theorem test_wf_atomic_size : [Instr.amoAdd 1 2 1 0 0, .amoAnd 1 2 0 0 0, .amoOr 1 2 1 0 0, .amoXor 1 2 1 0 0, .amoMin 1 2 1 1 0,
    .amoMax 1 2 0 1 0, .amoSwap 1 2 1 0 0, .cas 1 2 1 0 3].all (fun i => !i.wf) = true := by decide
theorem test_wf_fence : (Instr.fence 0 0).wf = false ∧ (Instr.fence 1 5).wf = false := by decide
theorem test_wf_pref : (Instr.pref 3 1 0).wf = false := by decide
theorem test_wf_float_type : [Instr.fadd 1 2 3 3, .fsub 1 2 3 7, .fmul 1 2 3 3, .fdiv 1 2 3 4, .fsqrt 1 2 3, .fmin 1 2 3 5, .fmax 1 2 3 3,
    .fcmp 1 2 3 3 0, .fcmp 1 2 3 0 4, .ffma 1 2 3 4 3, .vaddFloat 1 2 3 0 3, .vsubFloat 1 2 3 0 3, .vmulFloat 1 2 3 0 3,
    .vminFloat 1 2 3 0 3, .vmaxFloat 1 2 3 0 3, .vcmpFloat 1 2 3 5 0 0, .vfma 1 2 3 4 0 3].all (fun i => !i.wf) = true := by decide
theorem test_wf_convert : (Instr.fcvt 1 2 7 0).wf = false ∧ (Instr.fcvt 1 2 3 4).wf = false ∧ (Instr.vcvt 1 2 14 0 0).wf = false := by decide
theorem test_wf_integer_type : [Instr.vaddInt 1 2 3 0 3, .vsubInt 1 2 3 0 7, .vmulInt 1 2 3 0 3, .vminInt 1 2 3 0 7, .vmaxInt 1 2 3 0 3,
    .vshl 1 2 3 0 3, .vshr 1 2 3 0 7, .vcmpInt 1 2 3 4 0 0].all (fun i => !i.wf) = true := by decide
theorem test_wf_reduce : (Instr.vred 1 2 3 0 0).wf = false ∧ (Instr.vred 1 2 0 0 3).wf = false ∧ (Instr.vscan 1 2 7 0 0).wf = false ∧
    (Instr.vdot 1 2 3 4 0 5).wf = false ∧ (Instr.vsf 1 2 0 8).wf = false := by decide
theorem test_wf_send : (Instr.send 3 1 2 3).wf = false ∧ (Instr.sendBuf 3 1 2 3).wf = false ∧ (Instr.reply 3 1 2 3).wf = false ∧
    (Instr.replyBuf 3 1 2 3).wf = false := by decide
theorem test_wf_carve_request : (Instr.bara 4 1).wf = false ∧ (Instr.bara 4 7).wf = false ∧ (Instr.bara 4 6).wf = true := by decide
theorem test_wf_join_register : (Instr.efork 0 1 2).wf = false := by decide
theorem test_wf_register_index : (Instr.csrd 1 0x006).wf = false ∧ (Instr.cswr 1 0x803).wf = false ∧ (Instr.csrd 1 0x13F).wf = true := by decide

/-! ### Words that are refused (the worked example of R331 and the fates of R330) -/

theorem test_refused_words : decode 0x00000000 = .error .illegal ∧ decode 0x16000000 = .error .illegal ∧ decode 0x0200000F = .error .illegal ∧
    decode 0x02000020 = .error (.reserved .task) ∧ decode 0x14010000 = .error (.reserved .task) ∧ decode 0x2A180000 = .error .illegal ∧
    decode 0x2AB80000 = .error (.reserved .task) ∧ decode 0x65CA0001 = .error (.reserved .runtime) ∧ decode 0x66000000 = .error .illegal ∧
    decode 0x7E000000 = .error .illegal := by decide
theorem test_refused_cause : refusedCause 0 false = .illegalEncoding ∧ refusedCause 0x02000020 false = .reservedField ∧
    refusedCause 0x65CA0001 false = .privileged ∧ refusedCause 0x65CA0001 true = .reservedField := by decide
theorem test_marker_decodes : decode 0x84000000 = .ok (.addi 0 0 0) := by decide

/-! ### Words of the encodings (R304 to R329) -/

theorem test_decode_integer_0 :
    decode 0x02418C00 = .ok (.add 4 3 3) ∧
    decode 0x02D04C01 = .ok (.sub 13 0 19) ∧
    decode 0x02531C02 = .ok (.and 5 6 7) ∧
    decode 0x02210C03 = .ok (.or 2 2 3) ∧
    decode 0x02429804 = .ok (.xor 4 5 6) ∧
    decode 0x02429805 = .ok (.shl 4 5 6) ∧
    decode 0x02429806 = .ok (.shr 4 5 6) ∧
    decode 0x02429807 = .ok (.sha 4 5 6) ∧
    decode 0x02429808 = .ok (.slt 4 5 6) ∧
    decode 0x02429809 = .ok (.sltN64 4 5 6) ∧
    decode 0x0242980A = .ok (.min 4 5 6) ∧
    decode 0x0242980B = .ok (.minN64 4 5 6) ∧
    decode 0x0242980C = .ok (.max 4 5 6) ∧
    decode 0x0242980D = .ok (.maxN64 4 5 6) ∧
    decode 0x0253A0CE = .ok (.sel 5 7 8 6) ∧
    decode 0x04A57FFF = .ok (.addi 10 10 0x7FFF) := by
  decide

theorem test_decode_integer_1 :
    decode 0x06420007 = .ok (.andi 4 4 7) ∧
    decode 0x08E70800 = .ok (.ori 14 14 0x800) ∧
    decode 0x0A4280FF = .ok (.xori 4 5 0xFF) ∧
    decode 0x0C42800A = .ok (.slti 4 5 10) ∧
    decode 0x0F180010 = .ok (.shlImm 17 16 16) ∧
    decode 0x0E84200C = .ok (.shrImm 8 8 12) ∧
    decode 0x0E42C003 = .ok (.shaImm 4 5 3) ∧
    decode 0x10429800 = .ok (.mul 4 5 6) ∧
    decode 0x10429801 = .ok (.mulh 4 5 6) ∧
    decode 0x10429802 = .ok (.mulhN64 4 5 6) ∧
    decode 0x10429803 = .ok (.div 4 5 6) ∧
    decode 0x10429804 = .ok (.divN64 4 5 6) ∧
    decode 0x10429805 = .ok (.rem 4 5 6) ∧
    decode 0x10429806 = .ok (.remN64 4 5 6) ∧
    decode 0x12428000 = .ok (.clz 4 5) ∧
    decode 0x1242A000 = .ok (.popc 4 5) := by
  decide

theorem test_decode_integer_2 :
    decode 0x1242C20B = .ok (.ext 4 5 8 11) ∧
    decode 0x1242D20B = .ok (.extI64 4 5 8 11) ∧
    decode 0x1242E407 = .ok (.ins 4 5 16 7) ∧
    decode 0x15420006 = .ok (.lic 20 1 6) ∧
    decode 0x154EFC00 = .ok (.licZ 20 3 0xFC00) := by
  decide

theorem test_decode_memory_and_branches_0 :
    decode 0x20416000 = .ok (.ldN 4 2 3 0) ∧
    decode 0x2051C802 = .ok (.ldI 5 3 2 2) ∧
    decode 0x204107FF = .ok (.ldN 4 2 0 0x7FF) ∧
    decode 0x224107FF = .ok (.st 4 2 0 0x7FF) ∧
    decode 0x22412003 = .ok (.st 4 2 1 3) ∧
    decode 0x244BE000 = .ok (.lds 4 23 0) ∧
    decode 0x2471E800 = .ok (.ldsC 7 3 0) ∧
    decode 0x2461F000 = .ok (.stf 6 3 0) ∧
    decode 0x24017800 = .ok (.sete 2 0) ∧
    decode 0x2724E000 = .ok (.amoAdd 18 9 3 0 0) ∧
    decode 0x26515501 = .ok (.amoMax 5 2 2 1 1) ∧
    decode 0x26416728 = .ok (.cas 4 2 3 0 5) ∧
    decode 0x28228000 = .ok (.ldg 2 5 0 0) ∧
    decode 0x28228400 = .ok (.ldg 2 5 0 1) ∧
    decode 0x2851C800 = .ok (.ldg 5 3 9 0) ∧
    decode 0x29228000 = .ok (.stg 2 5) := by
  decide

theorem test_decode_memory_and_branches_1 :
    decode 0x2A980000 = .ok (.fence 2 3) ∧
    decode 0x2AE00000 = .ok (.fence 3 4) ∧
    decode 0x2B810000 = .ok (.pref 2 2 0) ∧
    decode 0x2C221001 = .ok (.vld 1 2 1 1) ∧
    decode 0x2C498000 = .ok (.vst 2 9 0 0) ∧
    decode 0x2E223080 = .ok (.vgath 1 2 3 0 2) ∧
    decode 0x2E223980 = .ok (.vscat 1 2 3 1 2) ∧
    decode 0x30700009 = .ok (.beq 7 0 9) ∧
    decode 0x32207FFE = .ok (.bne 2 0 0x7FFE) ∧
    decode 0x34320002 = .ok (.blt 3 4 2) ∧
    decode 0x36320002 = .ok (.bge 3 4 2) ∧
    decode 0x38320002 = .ok (.blo 3 4 2) ∧
    decode 0x3A8CFFF9 = .ok (.bhs 8 25 0x7FF9) ∧
    decode 0x3C200002 = .ok (.bma 1 2) ∧
    decode 0x3D200002 = .ok (.bmn 1 2) ∧
    decode 0x3FF00008 = .ok (.jal 31 8) := by
  decide

theorem test_decode_memory_and_branches_2 :
    decode 0x3E5FFFFC = .ok (.jal 5 0xFFFFC) ∧
    decode 0x400F8000 = .ok (.jalr 0 31 0) ∧
    decode 0x41F30000 = .ok (.jalr 31 6 0) := by
  decide

theorem test_decode_floats_and_vectors_0 :
    decode 0x42429800 = .ok (.fadd 4 5 6 0) ∧
    decode 0x42429850 = .ok (.fsub 4 5 6 2) ∧
    decode 0x42429888 = .ok (.fmul 4 5 6 1) ∧
    decode 0x424298C0 = .ok (.fdiv 4 5 6 0) ∧
    decode 0x42428100 = .ok (.fsqrt 4 5 0) ∧
    decode 0x42429940 = .ok (.fmin 4 5 6 0) ∧
    decode 0x42429980 = .ok (.fmax 4 5 6 0) ∧
    decode 0x424299C1 = .ok (.fcmp 4 5 6 0 1) ∧
    decode 0x42428210 = .ok (.fcvt 4 5 2 0) ∧
    decode 0x42428206 = .ok (.fcvt 4 5 0 6) ∧
    decode 0x444298E8 = .ok (.ffma 4 5 6 7 2) ∧
    decode 0x46246000 = .ok (.vaddInt 1 2 3 0 0) ∧
    decode 0x46246009 = .ok (.vsubInt 1 2 3 0 1) ∧
    decode 0x46246010 = .ok (.vmulInt 1 2 3 0 0) ∧
    decode 0x4624601A = .ok (.vminInt 1 2 3 0 2) ∧
    decode 0x46246024 = .ok (.vmaxInt 1 2 3 0 4) := by
  decide

theorem test_decode_floats_and_vectors_1 :
    decode 0x46246028 = .ok (.vshl 1 2 3 0 0) ∧
    decode 0x46246035 = .ok (.vshr 1 2 3 0 5) ∧
    decode 0x46446438 = .ok (.vcmpInt 2 2 3 2 0 0) ∧
    decode 0x48246000 = .ok (.vaddFloat 1 2 3 0 0) ∧
    decode 0x48246008 = .ok (.vsubFloat 1 2 3 0 0) ∧
    decode 0x48246052 = .ok (.vmulFloat 1 2 3 1 2) ∧
    decode 0x48246019 = .ok (.vminFloat 1 2 3 0 1) ∧
    decode 0x48246020 = .ok (.vmaxFloat 1 2 3 0 0) ∧
    decode 0x48446828 = .ok (.vcmpFloat 2 2 3 4 0 0) ∧
    decode 0x4A246802 = .ok (.vfma 1 2 3 4 0 2) ∧
    decode 0x4C246000 = .ok (.vand 1 2 3 0) ∧
    decode 0x4C246001 = .ok (.vor 1 2 3 0) ∧
    decode 0x4C246002 = .ok (.vxor 1 2 3 0) ∧
    decode 0x4C246043 = .ok (.vsel 1 2 3 1) ∧
    decode 0x4C246004 = .ok (.vperm 1 2 3 0) ∧
    decode 0x4C240005 = .ok (.vbcast 1 4 0) := by
  decide

theorem test_decode_floats_and_vectors_2 :
    decode 0x4C423006 = .ok (.vextN32 4 2 3) ∧
    decode 0x4C423007 = .ok (.vextI32 4 2 3) ∧
    decode 0x4C423008 = .ok (.vins 4 2 3) ∧
    decode 0x4C240409 = .ok (.vcvt 1 2 0 2 0) ∧
    decode 0x4E240000 = .ok (.vred 1 2 0 0 0) ∧
    decode 0x4E241002 = .ok (.vred 1 2 8 0 2) ∧
    decode 0x4E240010 = .ok (.vscan 1 2 0 0 0) ∧
    decode 0x4E246824 = .ok (.vdot 1 2 3 4 0 4) ∧
    decode 0x4E240031 = .ok (.vsf 1 2 0 1) := by
  decide

theorem test_decode_the_rest_0 :
    decode 0x500A6000 = .ok (.mand 1 2 3) ∧
    decode 0x504A6000 = .ok (.mor 1 2 3) ∧
    decode 0x508A6000 = .ok (.mxor 1 2 3) ∧
    decode 0x50CA0000 = .ok (.mnot 1 2) ∧
    decode 0x51084000 = .ok (.mcnt 4 1) ∧
    decode 0x51490000 = .ok (.mmovw 1 4) ∧
    decode 0x51884000 = .ok (.mmovwW 4 1) ∧
    decode 0x52500000 = .ok (.sbind 1 1) ∧
    decode 0x53C00000 = .ok (.srel 3) ∧
    decode 0x54092180 = .ok (.send 0 9 4 3) ∧
    decode 0x54892180 = .ok (.send 2 9 4 3) ∧
    decode 0x54292180 = .ok (.sendBuf 0 9 4 6) ∧
    decode 0x55892180 = .ok (.reply 2 9 4 3) ∧
    decode 0x55292180 = .ok (.replyBuf 0 9 4 6) ∧
    decode 0x560A2180 = .ok (.post 10 4 6) ∧
    decode 0x56A26000 = .ok (.chbind 2 1 0 3) := by
  decide

theorem test_decode_the_rest_1 :
    decode 0x56A30000 = .ok (.chbind 2 1 1 0) ∧
    decode 0x571D0000 = .ok (.qcnt 7 2) ∧
    decode 0x5C090000 = .ok (.apply 1 4) ∧
    decode 0x5C092000 = .ok (.applyTail 1 4) ∧
    decode 0x5C508000 = .ok (.applyv 4 1) ∧
    decode 0x5C910000 = .ok (.spawn 2 4) ∧
    decode 0x5CC80000 = .ok (.dupk 1) ∧
    decode 0x5D080000 = .ok (.dropk 1) ∧
    decode 0x5D488000 = .ok (.movk 2 4) ∧
    decode 0x5D688000 = .ok (.movkW 2 4) ∧
    decode 0x5D890000 = .ok (.kinfo 1 4) ∧
    decode 0x5E110000 = .ok (.await 1 2) ∧
    decode 0x5EA09480 = .ok (.awaitv 4 2 5 1) ∧
    decode 0x5F144000 = .ok (.bprobe 5 2) ∧
    decode 0x60000000 = .ok .endTask ∧
    decode 0x60490000 = .ok (.start 1 4) := by
  decide

theorem test_decode_the_rest_2 :
    decode 0x60AE0000 = .ok (.arrive 23) ∧
    decode 0x60C8C000 = .ok (.bara 4 3) ∧
    decode 0x61140000 = .ok (.barw 10) ∧
    decode 0x61420000 = .ok (.maskw 2) ∧
    decode 0x617F0000 = .ok (.maskw 63) ∧
    decode 0x62124280 = .ok (.efork 9 4 5) ∧
    decode 0x62522000 = .ok (.cpy 9 0 1) ∧
    decode 0x62940000 = .ok (.mlease 10) ∧
    decode 0x62C00000 = .ok .mrel ∧
    decode 0x630A0000 = .ok (.ecan 5) ∧
    decode 0x634A0000 = .ok (.eres 5) ∧
    decode 0x640E0220 = .ok (.csrd 7 0x011) ∧
    decode 0x645C0260 = .ok (.cswr 14 0x013) ∧
    decode 0x64800005 = .ok (.trap 5) ∧
    decode 0x64A00000 = .ok (.trapBrk 0) ∧
    decode 0x65124000 = .ok (.migr 9 4) := by
  decide

theorem test_decode_the_rest_3 :
    decode 0x654C0000 = .ok (.fqpop 3) ∧
    decode 0x65980000 = .ok (.resume 12) ∧
    decode 0x65CA0000 = .ok (.tlbinv 5) ∧
    decode 0x65C08000 = .ok (.tlbinvAll 0) ∧
    decode 0x58908030 = .ok (.capt 2 8 2 0 0x30) ∧
    decode 0x5890A030 = .ok (.capt 2 8 2 1 0x30) ∧
    decode 0x5A908030 = .ok (.captr 2 8 2 0 0x30) ∧
    decode 0x64C00000 = .ok .rte ∧
    decode 0x26416100 = .ok (.amoAnd 4 2 3 0 0) ∧
    decode 0x26416200 = .ok (.amoOr 4 2 3 0 0) ∧
    decode 0x26416300 = .ok (.amoXor 4 2 3 0 0) ∧
    decode 0x26416400 = .ok (.amoMin 4 2 3 0 0) ∧
    decode 0x26416600 = .ok (.amoSwap 4 2 3 0 0) := by
  decide



/-! ### States for the tests -/

/-- Partition 0 runs core row 0 to 15; helper 1 of core 0 runs task 1 on pool frame 1. -/
def tm : Mach :=
  let m := State.reset.m.modPart 0 (fun p => { p with state := .running, rows := 0xFFFF })
  let m := m.modCtx 0 1 (fun v => { v with live := true, task := 1, wp := 2048, pc := 0x1000 })
  { m with cur := { core := 0, ctx := 1, word := 0x0241_8C00 } }

/-- With the word register `n` holding `v`. -/
def wr (n : BitVec 5) (v : Nat) (m : Mach) : Mach := m.write (m.wKey n) 8 v

/-- With the vector register `n` holding `v` in every lane. -/
def vr (n : BitVec 4) (v : Nat) (m : Mach) : Mach :=
  (List.range 16).foldl (fun m i => m.write (m.vKey n + 4 * i) 4 v) m

/-- At runtime privilege. -/
def rt (m : Mach) : Mach := m.modMe (fun v => { v with rt := true })

/-- The state with a device. -/
def at_ (m : Mach) : State := State.reset.on m

/-- The value that `exec` leaves in a word register; none where it answers no next state. -/
def outW (i : Instr) (n : BitVec 5) (m : Mach) : Option Word :=
  match exec i (at_ m) with
  | .next t => some (t.m.w n)
  | _ => none

/-- The value of the last late result after `exec`. -/
def outLate (i : Instr) (m : Mach) : Option Nat :=
  match exec i (at_ m) with
  | .next t => (match t.m.pends.getLast? with
    | some p => (match p.late with | .value v _ => some v | _ => none)
    | none => none)
  | _ => none

/-- The cause of the trap that `exec` takes, and the address at which the context goes on. -/
def outPc (i : Instr) (m : Mach) : Option (Word × Word) :=
  match exec i (at_ m) with
  | .next t => some (t.m.me.cause, t.m.me.pc)
  | _ => none

/-- What holds of the device that `exec` leaves. -/
def outIs (i : Instr) (m : Mach) (f : Mach → Bool) : Bool :=
  match exec i (at_ m) with
  | .next t => f t.m
  | _ => false

/-- Whether a result is an answer. -/
def fine {α ε : Type} : Except ε α → Bool
  | .ok _ => true
  | .error _ => false

/-- Whether a result is a trap of a cause. -/
def traps {α : Type} (r : Res α) (c : Cause) : Bool :=
  match r with
  | .ok _ => false
  | .error t => t.cause == c

/-- Whether an answer has a property. -/
def fineAnd {α ε : Type} (r : Except ε α) (f : α → Bool) : Bool :=
  match r with
  | .ok x => f x
  | .error _ => false

/-- A page of a TLB: 4,096 bytes, or 16 times as many on a parkable page, mapped at its own address. -/
def page (va : Nat) (pk : Bool) : Leaf :=
  { va := va, size := if pk then 0x10000 else 0x1000, pte := BitVec.ofNat 64 (va + (if pk then 0x10000000000003D else 0x1D)) }

/-- With a plain page at 0x40000 and a parkable one at 0x80000. -/
def pages (m : Mach) : Mach := m.modCore 0 (fun r => { r with tlb := [page 0x40000 false, page 0x80000 true] })

/-- What a load of `n` bytes gets: 1 a value, 2 a packet, 0 a trap. -/
def loadGets (m : Mach) (a : Word) (n : Nat) : Nat :=
  match m.memCheck a n .load with
  | .error _ => 0
  | .ok (p, m) =>
    match m.fetchData a n p true with
    | .ok (.value _, _) => 1
    | .ok (.packet _ _, _) => 2
    | .error _ => 0

/-- With the word at an address of the own window uncorrectable. -/
def bad (a : Word) (m : Mach) : Mach := { m with scratchBad := [scratchKey 0 (offOf a)] }

/-- The own window of core 0 begins at LW 0. -/
def lw (off : Nat) : Nat := 0xFC00000000000000 + off

/-- With a closure of core 0 in its frame 0, whose handle is in k1; k2 holds a handle of core 1. -/
def closed_ (m : Mach) : Mach :=
  let x := m.newClosure 0 0 0x40000 false false false 0 0 [7]
  (x.2.writeK 1 x.1).writeK 2 (mkHandle 1 0 1)

/-- A free send queue entry fewer than none. -/
def sendFull (m : Mach) : Mach := m.modCore 0 (fun r => { r with sendq := 16 })

/-- With a deque that is full and no frame free. -/
def fullDeque (m : Mach) : Mach :=
  m.modCore 0 (fun r => { r with deque := List.replicate 64 { h := 0, args := ⟨0, 0, 0⟩ }, used := List.range 32 })

/-- With row 0 only. -/
def oneRow (m : Mach) : Mach := m.modPart 0 (fun p => { p with rows := 1 })

/-- With channel 3 of core 0 matched and channel 2 a free handler channel. -/
def chans (m : Mach) : Mach :=
  (m.modChan 0 3 (fun k => { k with cfg := 2 })).modChan 0 2 (fun k => { k with cfg := 1 })

/-- With group 1 of cores 0 and 1, team 5 on it, and core 0 in it. -/
def teams (m : Mach) : Mach :=
  (m.modPart 0 (fun p => { p with groups := [(1, { root := 0, tree := [(0, [1]), (1, [])] })], teams := [(5, { group := 1, phase := 3 })] })).modCore 0
    (fun r => { r with teamid := BitVec.ofNat 64 (5 + 65536) })

/-- A message of 8 bytes from core 1 with tag 9 to channel 3. -/
def msg1 : Msg := { src := 1, tag := 9, chan := 3, len := 8, payload := List.replicate 8 1 }

/-- Issuing from the control context, or from level 1. -/
def ctl0 (m : Mach) : Mach := { m with cur := { m.cur with ctx := 0 } }
def level1 (m : Mach) : Mach := { m with cur := { m.cur with ctx := 11 } }

/-- A request of core 1 (task 3) that has arrived at core 0 or at a slice, and a reply to it. -/
def req (dst : Nat) (b : Body) : Packet := { id := 5, src := 1, dst := dst, phase := .arrived, body := b, core := 1, task := 3, sends := 1 }
def rep (b : Body) : Packet := { id := 6, src := 0, dst := 1, reply := true, answers := 5, phase := .arrived, body := b, core := 1, task := 3 }

/-- With packets in flight. -/
def net (l : List Packet) (m : Mach) : Mach := { m with packets := l, nextId := 7 }

/-- With a 32-byte engine record at LW 0x100, at which a sequence of core 0 stands. -/
def engine (mtx : Bool) (r : Nat) (m : Mach) : Mach :=
  let q : Seq := { id := 40, slot := 0, core := 0, task := 1, pc := 0, list := some 0x100, recs := [], join := 0, rt := false,
                   tag := none, rm := 0, sat := false, gen := 1 }
  (m.write (scratchKey 0 0x100) 32 r).setSeqs mtx 0 [q]

/-- With every stack in self-refresh. -/
def hot (m : Mach) : Mach := { m with bands := List.replicate 16 3 }

/-- With two shape records of 16 words of the own window, at LW 0x200 from 0x40 on and at LW 0x240 from 0x80 on. -/
def shapes (m : Mach) : Mach :=
  (m.write (scratchKey 0 0x200) 48 (recOf [0xFC00000000000040, 0x1000200, 16, 0x400000000, 0, 0])).write (scratchKey 0 0x240) 48
    (recOf [0xFC00000000000080, 0x1000200, 16, 0x400000000, 0, 0])

/-- With `n` source words at LW 0x40 of core 1, and as many destination words. -/
def far (n : Nat) (m : Mach) : Mach :=
  (((shapes m).write (scratchKey 0 0x200) 8 0xF000000001000040).write (scratchKey 0 0x210) 8 n).write (scratchKey 0 0x250) 8 n

/-- The state after the first request of a WLOAD that halts for an answer. -/
def asked (m : Mach) : Mach :=
  match m.headSeq true 0 with
  | some q => (match m.wload 0 q 0x20000000013 with | .error (.ask a) => m.sendAsk true 0 q a | _ => m)
  | none => m

/-- Core 0 with no helper, in its control context. -/
def idle0 : Mach := (ctl0 tm).modCtx 0 1 (fun _ => freshCtx 1)

/-- A matrix command after its start. -/
def startMma (m : Mach) (q : Seq) (r : Nat) : Eng Mach := (m.matrixStart 0 q r).2.mma 0 (m.matrixStart 0 q r).1 r
def startMstore (m : Mach) (q : Seq) (r : Nat) : Eng Mach := (m.matrixStart 0 q r).2.mstore 0 (m.matrixStart 0 q r).1 r

/-- With `n` entries in the hardware link stack and `d` spilled. -/
def linked (n d : Nat) (m : Mach) : Mach :=
  (m.modMe (fun v => { v with links := (List.range n).map (fun i => BitVec.ofNat 64 (i + 1)) })).setLinkDepth d

/-- Why a WLOAD halts: 1 it waits, 2 it asks, 3 it stops; 0 it does not. -/
def wloadHalts (m : Mach) (q : Seq) : Nat :=
  match m.wload 0 q 0x20000000013 with
  | .ok _ => 0
  | .error .wait => 1
  | .error (.ask _) => 2
  | .error _ => 3

/-- The record that the first sequence of a sequencer reaches. -/
def atCmd (mtx : Bool) (m : Mach) : Option Nat :=
  match m.headSeq mtx 0 with
  | some q => if q.cmd.isNone && m.seqQuiet q.id then (match m.cmdOf mtx q with | .ok r => some r | .error _ => none) else none
  | none => none

/-- How a copy halts in its first two elements: 1 it waits, 2 it asks for a read, 3 for a write, 0 otherwise. -/
def copyHalts (m : Mach) (w : Agent) (q : Seq) (r : Nat) : Nat :=
  match m.copyStart q r with
  | .ok (some p) =>
    (match (m.copyRuns w p 0 false 2 0 0 []).halt with
     | some .wait => 1
     | some (.ask a) => if a.write then 3 else 2
     | _ => 0)
  | _ => 0

/-- Whether the first sequence has a property. -/
def headAnd (mtx : Bool) (m : Mach) (f : Seq → Bool) : Bool :=
  match m.headSeq mtx 0 with
  | some q => f q
  | none => false

/-- With a partition control block at 0x1000, a table that maps the first gigabyte and queue descriptors at 0x3000. -/
def mapped (m : Mach) : Mach :=
  let m := m.modPart 0 (fun p => { p with pcb := 1 })
  let m := (((m.write 0x1000 8 0x100000).write 0x1008 8 0x3000).write 0x1030 8 0x80000000)
  ((m.write 0x100000 8 0x101003).write 0x101000 8 0x102003).write 0x102000 8 0x1D

/-- Such a device with a bad line in the first table that a walk reads. -/
def badTable (m : Mach) : Mach := { mapped m with hbmBad := [0x100000 / 128] }

/-- A block of partition 0 at slice 2 with two waiters. -/
def blk (st : BlockState) : Block :=
  { slice := 2, base := 0x80000, size := 0x4000, part := 0, state := st,
    queue := [{ h := 0, core := 0, va := 0x80000, since := 0 }, { h := 0, core := 1, va := 0x80000, since := 0, order := 1 }] }

/-- Where the boot ROM runs the image of this power-on, the device is not in recovery (R280). -/
theorem not_recovery (m : Mach) (h : imageRuns m.image = true) : m.recovery = false := by
  show (!imageRuns m.image) = false
  rw [h]
  rfl

/-! ### One instruction at a time; the expected values are worked out by hand from the rules cited -/

/-- R334: the sum wraps. -/
theorem test_add_wraps : outW (.add 4 5 6) 4 (wr 6 2 (wr 5 0xFFFFFFFFFFFFFFFF tm)) = some 1 := by decide +kernel
/-- R16: w0 discards. -/
theorem test_add_w0 : outW (.add 0 5 6) 0 (wr 6 2 (wr 5 3 tm)) = some 0 := by decide +kernel
/-- R420: the difference wraps; the source is also the destination. -/
theorem test_sub_wraps : outW (.sub 5 5 6) 5 (wr 6 2 (wr 5 1 tm)) = some 0xFFFFFFFFFFFFFFFF := by decide +kernel
/-- R413: shift counts are taken modulo 64. -/
theorem test_shift_count : outW (.shl 4 5 6) 4 (wr 6 65 (wr 5 3 tm)) = some 6 ∧ outW (.sha 4 5 6) 4 (wr 6 63 (wr 5 (2 ^ 63) tm)) = some (-1) ∧
    outW (.shr 4 5 6) 4 (wr 6 63 (wr 5 (2 ^ 63) tm)) = some 1 := by decide +kernel
/-- R412: signed and unsigned order differ on −1. -/
theorem test_slt : outW (.slt 4 5 6) 4 (wr 6 1 (wr 5 (2 ^ 64 - 1) tm)) = some 1 ∧
    outW (.sltN64 4 5 6) 4 (wr 6 1 (wr 5 (2 ^ 64 - 1) tm)) = some 0 := by decide +kernel
/-- R389. -/
theorem test_max : outW (.max 4 5 6) 4 (wr 6 1 (wr 5 (2 ^ 64 - 1) tm)) = some 1 ∧
    outW (.maxN64 4 5 6) 4 (wr 6 1 (wr 5 (2 ^ 64 - 1) tm)) = some (-1) := by decide +kernel
/-- R396: (−1) × 2 = −2, and (2^64 − 1) × 2 = 2^65 − 2. -/
theorem test_mulh : outW (.mulh 4 5 6) 4 (wr 6 2 (wr 5 (2 ^ 64 - 1) tm)) = some (-1) ∧
    outW (.mulhN64 4 5 6) 4 (wr 6 2 (wr 5 (2 ^ 64 - 1) tm)) = some 1 := by decide +kernel
/-- R335, R338: ADDI sign-extends, ANDI zero-extends. -/
theorem test_immediates : outW (.addi 4 5 0x7FFF) 4 (wr 5 0 tm) = some (-1) ∧ outW (.andi 4 5 0x7FFF) 4 (wr 5 (2 ^ 64 - 1) tm) = some 0x7FFF := by
  decide +kernel
/-- R410: the first of a and b where w[c] is not 0. -/
theorem test_sel : outW (.sel 4 5 6 7) 4 (wr 7 8 (wr 6 2 (wr 5 1 tm))) = some 1 ∧ outW (.sel 4 5 6 7) 4 (wr 6 2 (wr 5 1 tm)) = some 2 := by decide +kernel
/-- R359. -/
theorem test_clz : outW (.clz 4 5) 4 tm = some 64 ∧ outW (.clz 4 5) 4 (wr 5 1 tm) = some 63 := by decide +kernel
/-- R372: bits [19:8] of 0xFEDCBA are 0xEDC, negative as 12 bits. -/
theorem test_ext : outW (.ext 4 5 8 11) 4 (wr 5 0xFEDCBA tm) = some 0xEDC ∧
    outW (.extI64 4 5 8 11) 4 (wr 5 0xFEDCBA tm) = some 0xFFFFFFFFFFFFFEDC := by decide +kernel
/-- R379: the other bits of w[d] stay. -/
theorem test_ins : outW (.ins 4 5 8 7) 4 (wr 4 0x111111 (wr 5 0x2FF tm)) = some 0x11FF11 := by decide +kernel
/-- R386. -/
theorem test_lic : outW (.lic 4 1 0xBEEF) 4 (wr 4 0x1111111111111111 tm) = some 0x11111111BEEF1111 ∧
    outW (.licZ 4 3 0xFC00) 4 (wr 4 1 tm) = some 0xFC00000000000000 := by decide +kernel
/-- R364: −7 by 2 is −3, and the most negative number by −1 is itself. -/
theorem test_div : outLate (.div 4 5 6) (wr 6 2 (wr 5 (2 ^ 64 - 7) tm)) = some (2 ^ 64 - 3) ∧
    outLate (.div 4 5 6) (wr 6 (2 ^ 64 - 1) (wr 5 (2 ^ 63) tm)) = some (2 ^ 63) := by decide +kernel
/-- R404: the remainder has the sign of the dividend. -/
theorem test_rem : outLate (.rem 4 5 6) (wr 6 2 (wr 5 (2 ^ 64 - 7) tm)) = some (2 ^ 64 - 1) ∧
    outLate (.remN64 4 5 6) (wr 6 4 (wr 5 7 tm)) = some 3 := by decide +kernel
/-- R364, R248: the trap's cause and address are written, at runtime privilege. -/
theorem test_div_zero : outIs (.div 4 5 6) tm (fun m => m.me.rt && m.me.trappc == 0x1000 &&
    m.me.cause == BitVec.ofNat 64 Cause.divideByZero.code) = true := by decide +kernel
/-- R22, R305: an empty operand traps with the word of the instruction. -/
theorem test_hazard_read : outIs (.add 4 5 6) (tm.empty (tm.wKey 5)) (fun m => m.me.cause == BitVec.ofNat 64 Cause.hazardRead.code &&
    m.me.badaddr == 0x02418C00) = true := by decide +kernel
/-- R346: −1 instructions. -/
theorem test_beq_back : outPc (.beq 5 6 0x7FFF) tm = some (0, 0xFFC) ∧ outPc (.bne 5 6 0x7FFF) tm = some (0, 0x1004) := by decide +kernel
/-- R352, R353. -/
theorem test_mask_branches : outPc (.bma 0 2) tm = some (0, 0x1008) ∧ outPc (.bmn 0 2) tm = some (0, 0x1004) ∧
    outPc (.bmn 1 2) tm = some (0, 0x1008) := by decide +kernel
/-- R380: `jal lk, .+32` writes the link. -/
theorem test_jal : outPc (.jal 31 8) tm = some (0, 0x1020) ∧ outW (.jal 31 8) 31 tm = some 0x1004 := by decide +kernel
/-- R381: a return pops the link stack into w31. -/
theorem test_return : outPc (.jalr 0 31 0) (wr 31 0x2000 (tm.pushLink 0x3000)) = some (0, 0x2000) ∧
    outW (.jalr 0 31 0) 31 (wr 31 0x2000 (tm.pushLink 0x3000)) = some 0x3000 := by decide +kernel
/-- R374, R375: 1.5 + 2.5 = 4 in binary32, and 1/3 is not exact: NX. -/
theorem test_fadd : outW (.fadd 4 5 6 0) 4 (wr 6 0x40200000 (wr 5 0x3FC00000 tm)) = some 0x40800000 ∧
    outLate (.fdiv 4 5 6 0) (wr 6 0x40400000 (wr 5 0x3F800000 tm)) = some 0x3EAAAAAB := by decide +kernel
/-- R375, R212: the square root of 4, and the fused sum 2 × 3 + 1. -/
theorem test_fsqrt_ffma : outLate (.fsqrt 4 5 0) (wr 5 0x40800000 tm) = some 0x40000000 ∧
    outW (.ffma 4 5 6 7 0) 4 (wr 7 0x3F800000 (wr 6 0x40400000 (wr 5 0x40000000 tm))) = some 0x40E00000 := by decide +kernel
/-- R214's example: 1 + 2^−9 to BF16 under RNE is 1.0 (0x3F80). -/
theorem test_fcvt_bf16 : outW (.fcvt 4 5 2 0) 4 (wr 5 0x3F804000 tm) = some 0x3F80 := by decide +kernel
/-- R14's example: v2 lane 3 lies 396 bytes into the frame, and k1 1,300. -/
theorem test_register_places : tm.vKey 2 + 4 * 3 = scratchKey 0 (0x800 + 396) ∧ tm.kKey 1 = scratchKey 0 (0x800 + 1300) ∧
    scratchKey 197 0x828 = 0xF0000000C5000828 := by decide +kernel
/-- R424: a lane that the mask leaves out keeps its value. -/
theorem test_vadd_mask : outIs (.vaddInt 1 2 3 1 0) ((vr 1 9 (vr 2 3 (vr 3 4 tm))).writeM 1 2)
    (fun m => lane (m.vimage 1) 1 == 7 && lane (m.vimage 1) 0 == 9) = true := by decide +kernel
/-- R435's example: the architected order of a sum. -/
theorem test_vred_order : outIs (.vred 1 2 0 0 0) ((((tm.write (tm.vKey 2) 4 0x4B800000).write (tm.vKey 2 + 4) 4 0x3F800000).write
    (tm.vKey 2 + 8) 4 0x3F800000).write (tm.vKey 2 + 12) 4 0xCB800000) (fun m => lane (m.vimage 1) 0 == 0 && m.me.fpflags == 1) = true := by
  decide +kernel
/-- R426: each lane takes the lane that b names. -/
theorem test_vperm : outIs (.vperm 1 2 3 0) (vr 3 1 ((vr 2 5 tm).write (tm.vKey 2 + 4) 4 8)) (fun m => lane (m.vimage 1) 0 == 8) = true := by
  decide +kernel
/-- R428: one bit a lane. -/
theorem test_vcmp : outIs (.vcmpInt 1 2 3 2 0 0) (vr 3 1 ((vr 2 5 tm).write (tm.vKey 2 + 4) 4 0)) (fun m => m.mask 1 == 2) = true := by decide +kernel
/-- R387: m0 reads all ones. -/
theorem test_masks : outIs (.mnot 1 0) tm (fun m => m.mask 1 == 0) = true ∧ outW (.mcnt 4 0) 4 tm = some 16 := by decide +kernel
/-- R383, R132: little-endian, sign-extended. -/
theorem test_ld : outLate (.ldN 4 3 1 1) ((wr 3 (lw 6) tm).write (scratchKey 0 8) 2 0x80FF) = some 0x80FF ∧
    outLate (.ldI 4 3 1 1) ((wr 3 (lw 6) tm).write (scratchKey 0 8) 2 0x80FF) = some (2 ^ 64 - 0x7F01) := by decide +kernel
/-- R14's fragment: a store to the address of w6 is seen as w6. -/
theorem test_st_w6 : outIs (.st 4 2 3 6) (wr 4 9 (wr 2 (0xFC00 * 2 ^ 48 + 0x800) tm)) (fun m => m.w 6 == 9) = true := by decide +kernel
/-- R418, R411, R18: the full/empty bit. -/
theorem test_stf_sete : outIs (.sete 3 0) (wr 3 (lw 8) tm) (fun m => !m.full (scratchKey 0 8)) = true ∧
    outIs (.stf 4 3 0) (wr 4 5 (wr 3 (lw 8) (tm.empty (scratchKey 0 8)))) (fun m => m.full (scratchKey 0 8) && m.word (scratchKey 0 8) == 5) = true := by
  decide +kernel
/-- R341: the last arrival fills the join word. -/
theorem test_arrive : outIs (.arrive 3) (((wr 3 (lw 8) tm).write (scratchKey 0 8) 8 1).empty (scratchKey 0 8))
    (fun m => m.full (scratchKey 0 8) && m.word (scratchKey 0 8) == 0) = true := by decide +kernel
/-- R385: an LDS of an empty word waits at its home. -/
theorem test_lds_waits : outIs (.lds 4 3 0) ((wr 3 (lw 8) tm).empty (scratchKey 0 8)) (fun m => (m.core 0).waiters.length == 1 && !m.full (m.wKey 4)) = true := by
  decide +kernel
/-- R336: a signed minimum over 4 bytes. -/
theorem test_amo_min : outLate (.amoMin 4 3 2 1 0) ((wr 4 5 (wr 3 (lw 8) tm)).write (scratchKey 0 8) 4 0xFFFFFFFF) = some (2 ^ 64 - 1) ∧
    outIs (.amoMin 4 3 2 1 0) ((wr 4 5 (wr 3 (lw 8) tm)).write (scratchKey 0 8) 4 0xFFFFFFFF) (fun m => m.read (scratchKey 0 8) 4 == 0xFFFFFFFF) = true := by
  decide +kernel
/-- R357: memory changes only where it holds the low bytes of w[d]. -/
theorem test_cas : outIs (.cas 4 3 3 0 5) (wr 5 7 (wr 3 (lw 8) tm)) (fun m => m.read (scratchKey 0 8) 8 == 7) = true ∧
    outIs (.cas 4 3 3 0 5) (wr 5 7 (wr 4 1 (wr 3 (lw 8) tm))) (fun m => m.read (scratchKey 0 8) 8 == 0) = true := by decide +kernel
/-- R107's life of a closure, at core 0: the first handle has generation 1 where the frame held 0 (R95). -/
theorem test_capt : outIs (.capt 1 8 1 0 0) tm (fun m => m.k 1 == 1 && ctlRefs (m.ctl (m.envKey 0 0)) == 1 && ctlNm1 (m.ctl (m.envKey 0 0)) == 1) = true := by
  decide +kernel
/-- R99, R382: two references after a DUPK; KINFO's LIVE, REFS, GEN. -/
theorem test_dupk_kinfo : outIs (.dupk 1) (closed_ tm) (fun m => ctlRefs (m.ctl (m.envKey 0 0)) == 2 && m.handleInfo 0 (m.k 1) == 0x8000000200000100) = true := by
  decide +kernel
/-- R107's steps 3 and 9: an application takes a flight; a stale handle traps precisely. -/
theorem test_apply : outIs (.apply 1 4) (closed_ tm) (fun m => ctlFlight (m.ctl (m.envKey 0 0)) == 1 && (m.core 0).deque.length == 1) = true ∧
    outIs (.apply 1 4) ((closed_ tm).writeK 1 2) (fun m => m.me.cause == BitVec.ofNat 64 Cause.staleHandle.code && m.me.badaddr == 2) = true := by
  decide +kernel
/-- R369: the context is free. -/
theorem test_end : outIs .endTask tm (fun m => !m.me.live) = true := by decide +kernel
/-- R388: the window holds the n instructions that follow. -/
theorem test_maskw : outIs (.maskw 2) tm (fun m => m.me.window == 3) = true := by decide +kernel
/-- R361, R24: COREID. -/
theorem test_csrd : outW (.csrd 2 0x022) 2 { tm with cur := { core := 197, ctx := 1, word := 0 } } = some 197 := by decide +kernel
/-- R361, R405: WSPOOL is for the runtime; RM = 5 is reserved. -/
theorem test_cswr_traps : outIs (.wspoolWrite 3) tm (fun m => m.me.cause == BitVec.ofNat 64 Cause.privileged.code) = true ∧
    outIs (.fpmodeWrite 3) (wr 3 5 tm) (fun m => m.me.cause == BitVec.ofNat 64 Cause.reservedField.code) = true := by decide +kernel
/-- R248, R249: RTE after a trap returns to the trapping instruction at task privilege. -/
theorem test_rte : outIs .rte (tm.trapMe { cause := .breakpoint, bad := some 0 }) (fun m => m.me.pc == 0x1000 && !m.me.rt && !m.me.trapped) = true := by
  decide +kernel
/-- R422. -/
theorem test_trap : outIs (.trap 7) tm (fun m => m.me.badaddr == 7 && m.me.cause == BitVec.ofNat 64 Cause.trapInstruction.code) = true := by decide +kernel
/-- R391, R394: the lease is queued and given up. -/
theorem test_lease : outIs (.mlease 4) tm (fun m => (m.cluster 0).fifo.length == 1 && !m.full (m.wKey 4)) = true ∧
    outIs .mrel (tm.modCluster 0 (fun x => { x with holder := some 0 })) (fun m => (m.cluster 0).holder.isNone) = true := by decide +kernel
/-- R183: a token empty until the status comes. -/
theorem test_send : outIs (.send 0 4 3 1) (wr 3 (0x800000000 + 9 * 65536 + 1) tm) (fun m => !m.full (m.wKey 4) && (m.core 0).sendq == 1 &&
    (m.packets.map (fun p => p.dst) == [1])) = true := by decide +kernel
/-- R401. -/
theorem test_post : outIs (.post 5 3 4) (chans (wr 4 (lw 64) (wr 3 0x800096C01 tm))) (fun m => (m.chan 0 3).posts.length == 1 &&
    !m.full (scratchKey 0 64) && m.full (scratchKey 0 72)) = true := by decide +kernel
/-- R195: a fold asks each member; R199: a store to each, the core's own at once. -/
theorem test_folds : outIs (.ldg 1 3 0 0) (wr 3 0xF800000001000040 (teams tm)) (fun m => m.folds.map (fun f => f.unread) == [[0, 1]]) = true ∧
    outIs (.stg 1 3) (vr 1 7 (wr 3 0xF800000001000040 (teams tm))) (fun m => m.packets.map (fun p => p.dst) == [1] &&
      m.read (scratchKey 0 64) 4 == 7) = true := by decide +kernel
/-- R114, R124: a staged block's waiters wake. -/
theorem test_stage_complete : outIs (.stageComplete 2 0x80000) { tm with blocks := [blk .staging] } (fun m => (m.slice 2).wakes.length == 2 &&
    m.blocks.map (fun b => b.pins) == [2]) = true := by decide +kernel
/-- R110: age units. -/
theorem test_age : outIs (.ageUnit 2 7) tm (fun m => (m.slice 2).cycles == 7) = true := by decide +kernel
/-- R275: rows that another partition holds are refused with STATUS 2. -/
theorem test_part_config (h : imageRuns none = true) :
    outIs (.partConfig 1 0x1000 1 false) tm (fun m => (m.part 1).statuses == [2]) = true ∧
    outIs (.partConfig 8 0x1000 1 false) tm (fun m => (m.part 8).statuses == [3]) = true := by
  have r : (at_ tm).m.recovery = false := not_recovery _ h
  simp only [outIs, exec, execPartConfig, State.commandWith, r]
  decide +kernel
/-- R262: limits below 400 watts are refused with STATUS 3. -/
theorem test_power_limit (h : imageRuns none = true) :
    outIs (.powerLimit 0 399) tm (fun m => (m.part 0).statuses == [3]) = true ∧
    outIs (.powerLimit 0 400) tm (fun m => (m.part 0).statuses == [1]) = true := by
  have r : (at_ tm).m.recovery = false := not_recovery _ h
  simp only [outIs, exec, execPowerLimit, r]
  decide +kernel
/-- R280: in recovery a command but FW_LOAD and RESYNC is refused with STATUS 2. -/
theorem test_recovery (h : imageRuns none = false) :
    outIs (.powerLimit 0 400) tm (fun m => (m.part 0).statuses == [2]) = true := by
  have r : (at_ tm).m.recovery = true := by show (!imageRuns none) = true; rw [h]; rfl
  simp only [outIs, exec, execPowerLimit, r]
  decide +kernel
/-- R68: a step of a core fetches, decodes and executes. -/
theorem test_step : (match step (State.reset.withFetchWord 32 0x04018005) with | .next t => (t.m.ctx 0 0).pc == 0x10004 | _ => false) = true := by
  decide +kernel
/-- R416, R150: a store outside the frames is performed at an instant of its own. -/
theorem test_store_instant : outIs (.st 4 3 3 0) (wr 4 5 (wr 3 (lw 0x20000) tm)) (fun m =>
    m.read (scratchKey 0 0x20000) 8 == 0 && (m.settleOwn 0).read (scratchKey 0 0x20000) 8 == 5) = true := by decide +kernel
/-- R144, R134, R261: a walk that meets an uncorrectable line is an entry and a zero, and no trap; the line is then poisoned. -/
theorem test_walk_bad : outIs (.ldN 5 3 3 0) (wr 3 0x90000 (badTable tm)) (fun m => m.me.pc == 0x1004 && !m.pends.isEmpty &&
    m.poisoned == [0x2000] && m.hbmBad == [] && (m.diePart 0 0).fq.length == 1) = true := by decide +kernel
/-- R19, R84: a load into w9 after `efork w9` comes behind the join word, which returns with its last sequence. -/
theorem test_join_order :
    let m := (tm.joinWord 0 1 9 2).2.late [tm.wKey 9] (.value 5 0)
    let load := tm.nextId + 1
    (m.findPend load).any m.behind = true ∧ m.outstanding 0 1 = true ∧
    (let m := m.joinReturned tm.nextId false
     (m.findPend load).any m.behind = true ∧ ((m.joinReturned tm.nextId false).findPend load).any (m.joinReturned tm.nextId false).behind = false) := by
  decide
/-- R137: a word written whole is good again. -/
theorem test_whole_word_good :
    (let m := { tm with scratchBad := [tm.wKey 4] }
     (m.writeW 4 7).scratchBad = [] ∧ (m.storeScratch (bytesAt (tm.wKey 4) 8 7)).scratchBad = []) := by decide
/-- R342: an AWAIT of an empty address register traps at once, a late result outstanding or not. -/
theorem test_await_hazard : (outPc (.await 1 4) (tm.late (tm.lateW 4) (.value 5 0))).map (·.1) = some 0x03 := by decide +kernel

/-! ### Witnesses: what the hypotheses of the statements ask is met -/

theorem met_AddAndOrSub : tm.canReadW 31 = true ∧ tm.canReadW 0 = true := by decide
theorem met_PipelineResults :
    (tm.canReadW 31 = true ∧ tm.canReadW 0 = true ∧ tm.canReadW 6 = true) ∧
    (let m := tm.empty (tm.wKey 6)
     (6 : BitVec 5) ≠ 0 ∧ m.full (m.wKey 6) = false ∧ m.canReadW 7 = true) := by decide
theorem met_BitFieldResults :
    tm.canReadW 31 = true ∧ tm.canReadW 5 = true ∧ fieldFits 0 63 = true ∧ fieldFits 63 0 = true ∧ fieldFits 32 31 = true := by
  decide
theorem met_Division :
    (let m := wr 6 1 tm
     m.canReadW 5 = true ∧ m.canReadW 6 = true ∧ m.w 6 ≠ 0) ∧ tm.canReadW 0 = true ∧ tm.w 0 = 0 ∧ tm.w 6 = 0 := by decide
theorem met_EmptyOperandTraps :
    let m := tm.empty (tm.wKey 1)
    (1 : BitVec 5) ≠ 0 ∧ m.full (m.wKey 1) = false ∧ m.canReadW 2 = true ∧ m.canReadW 3 = true ∧
    (31 : BitVec 6).toNat + (32 : BitVec 6).toNat + 1 ≤ 64 := by decide
theorem met_PipelineWriteFrame :
    tm.canReadW 1 = true ∧ tm.canReadW 31 = true ∧ (0 : BitVec 6).toNat + (63 : BitVec 6).toNat + 1 ≤ 64 ∧
    (let m := tm.empty (tm.wKey 6)
     m.canReadW 6 = false ∧ m.canReadW 1 = true) := by decide
theorem met_ConditionalBranches : tm.canReadW 31 = true ∧ tm.canReadM 0 = true ∧ tm.canReadM 7 = true := by decide
theorem met_JumpsAndLinks :
    (tm.canReadW 31 = true ∧ tm.me.links.length < 8 ∧ tm.popLink.isNone = true) ∧
    ((tm.pushLink 5).popLink.isSome = true ∧ (tm.pushLink 5).canReadW 31 = true) ∧
    (let m := (tm.modMe (fun v => { v with links := List.replicate 8 0 })).write (tm.regKey 1648) 8 8
     m.canReadW 31 = true ∧ ¬ (m.me.links.length < 8 ∨ m.linkDepth < 8)) ∧
    (tm.pushReads = [] ∧ tm.popReads = [tm.regKey 1648] ∧ tm.scratchBad = []) ∧
    (let m := { tm.modMe (fun v => { v with links := List.replicate 8 0 }) with scratchBad := [tm.regKey 1648] }
     m.pushReads = [tm.regKey 1648] ∧ tm.regKey 1648 ∈ m.scratchBad ∧ m.canReadW 31 = true) ∧
    (let m := { tm.write (tm.regKey 1648) 8 1 with scratchBad := [tm.regKey 1520] }
     m.popReads = [tm.regKey 1648, tm.regKey 1520] ∧ tm.regKey 1648 ∉ m.scratchBad ∧ tm.regKey 1520 ∈ m.scratchBad ∧
     m.canReadW 31 = true) := by decide
theorem met_LinkStackOrder :
    (let ok (m : Mach) (l n : Nat) : Bool := m.me.links.length == l && (m.word (m.regKey 1648)).toNat % 16 == n
     ok tm 0 0 = true ∧ ok (linked 7 0 tm) 7 0 = true ∧ ok (linked 8 0 tm) 8 0 = true ∧ ok (linked 8 7 tm) 8 7 = true ∧
     ok (linked 0 1 tm) 0 1 = true ∧ ok (linked 0 8 tm) 0 8 = true) ∧
    (linked 8 7 tm).me.links.getLast? = some 8 := by decide
theorem met_BranchFrame : tm.canReadW 1 = true ∧ tm.canReadW 31 = true ∧ tm.canReadM 7 = true ∧ (1 : BitVec 5) ≠ 31 := by decide
theorem met_ScalarFloat : tm.canReadW 1 = true ∧ tm.canReadW 31 = true ∧ tm.canReadW 0 = true := by decide
theorem met_ScalarFloatFrame : tm.canReadW 1 = true ∧ tm.canReadW 31 = true := by decide
theorem met_VectorIntegerResults : (tm.vecReads (some 1) [2, 15] 3).isSome = true := by decide +kernel
theorem met_VectorFloatResults :
    (tm.vecReads (some 1) [2, 15] 3).isSome = true ∧ (tm.vecReads (some 1) [2, 3, 1] 0).isSome = true ∧
    (tm.vecReads (some 1) [2] 7).isSome = true := by decide +kernel
theorem met_VectorLaneResults :
    (tm.vecReads (some 1) [2, 2] 3).isSome = true ∧ (tm.vecReads (some 1) [] 0).isSome = true ∧ tm.canReadW 31 = true ∧
    (tm.vecReads none [2] 0).isSome = true ∧ tm.port 15 = .unbound := by decide +kernel
theorem met_VectorCompareReduceSpecial :
    (tm.vecReads none [2, 3] 1).isSome = true ∧ (tm.vecReads (some 1) [2] 1).isSome = true ∧
    (let m := tm.empty (tm.vKey 2)
     fine (m.needOperands [2, 3] 0 []) = false ∧ fine (m.needOperands [2, 3, 3] 0 []) = false ∧ fine (m.needOperands [2] 0 []) = false) ∧
    fine ((tm.empty (tm.wKey 4)).needOperands [] 0 [4]) = false := by decide +kernel
theorem met_MaskInstructions :
    (tm.canReadM 0 = true ∧ tm.canReadM 7 = true ∧ tm.canReadW 31 = true) ∧
    (let m := tm.empty (wordOf (tm.mKey 1))
     (1 : BitVec 3) ≠ 0 ∧ m.full (wordOf (m.mKey 1)) = false ∧ m.canReadM 4 = true) ∧
    (let m := tm.empty (tm.wKey 4)
     (4 : BitVec 5) ≠ 0 ∧ m.full (m.wKey 4) = false) := by decide
theorem met_VectorWriteFrame : tm.port 1 = .unbound ∧ (tm.vecReads (some 1) [2, 3, 4] 1).map (fun x => x.1) = some tm ∧
    (tm.vecReads (some 1) [2, 3] 1).map (fun x => x.1) = some tm := by decide +kernel
theorem met_Loads :
    (let m := wr 3 (lw 8) tm
     m.canReadW 3 = true ∧ m.ownWindow (m.w 3) 8 = true ∧ m.ownWindow (m.w 3 + 7) 1 = true ∧ (m.settleOwn m.cur.core).scratchBad = [] ∧
     loadGets m (m.w 3) 8 = 1) ∧
    (let m := wr 3 (lw 0x19FFF8) tm
     m.ownWindow (m.w 3) 8 = true ∧ m.ownWindow (m.w 3 + 8) 8 = false) ∧
    (let m := pages tm
     loadGets m 0x40FF8 8 = 2 ∧ loadGets m 0x80000 8 = 2 ∧ loadGets m 0xF000000001000000 8 = 2 ∧
     fine (m.memCheck 0x40FF9 8 .load) = false ∧
     loadGets (bad 0xFC00000000000008 m) 0xFC00000000000008 8 = 0 ∧ fine ((bad 0xFC00000000000008 m).memCheck 0xFC00000000000008 8 .load) = true) := by
  decide +kernel
theorem met_Stores :
    let m := pages (wr 3 (lw 8) tm)
    m.canReadW 3 = true ∧ m.canReadW 4 = true ∧
    fineAnd (m.memCheck (m.w 3) 8 .store) (fun x => x.1 == .local (scratchKey 0 8)) = true ∧
    fineAnd (m.memCheck (m.w 3 + 0x20000) 8 .store) (fun x => x.1 == .local (scratchKey 0 0x20008)) = true ∧
    m.inFrame 0 (scratchKey 0 0x20008) = false ∧ m.inFrame 0 (scratchKey 0 8) = true ∧ m.ownStores = [] ∧
    (let q := (m.storeOwn 0 [(scratchKey 0 0x20008, 1)]).storeOwn 1 [(scratchKey 1 0x20008, 2)]
     q.ownStores = [(0, [(scratchKey 0 0x20008, 1)]), (1, [(scratchKey 1 0x20008, 2)])]) ∧
    fineAnd (m.memCheck 0x40FF8 8 .store) (fun x => !x.1.parkable) = true ∧
    fineAnd (m.memCheck 0x80000 1 .store) (fun x => x.1.parkable) = true ∧ fine (m.memCheck 0x40FF9 8 .store) = false := by
  decide +kernel
theorem met_LocalSynchronisation :
    (let m := wr 3 (lw 8) tm
     let k := scratchKey 0 8
     let late (m : Mach) : Mach := m.late (m.lateW 4) (.token true)
     m.canReadW 3 = true ∧ m.canReadW 4 = true ∧ m.ownWindow (m.w 3) 8 = true ∧ k ∉ (m.settleOwn 0).scratchBad ∧ m.full k = true ∧
     field ((m.settleOwn 0).word k) 0 63 = 0 ∧ field (((m.write k 8 1).settleOwn 0).word k) 0 63 ≠ 0 ∧
     k ∈ ((bad (m.w 3) m).settleOwn 0).scratchBad ∧
     (late m).full k = true ∧ k ∈ (late (bad (m.w 3) m)).scratchBad ∧ (late (bad (m.w 3) m)).full k = true ∧
     (late (m.empty k)).full k = false ∧ m.myCore.waiters.length < 64 ∧
     64 ≤ (m.modCore 0 (fun r => { r with waiters := List.replicate 64 (1, 0, true) })).myCore.waiters.length) ∧
    (let m := pages (wr 3 (lw 8) tm)
     fine (m.syncCheck 0x40FF8 .store) = false ∧ fine (m.syncCheck 0x40FF8 .load) = false ∧
     fineAnd (m.syncCheck 0xF000000001000008 .store) (fun x => x.1 == .remote 1 (scratchKey 1 8)) = true ∧
     fineAnd (m.syncCheck 0xF000000001000008 .load) (fun x => x.1 == .remote 1 (scratchKey 1 8)) = true) := by decide +kernel
theorem met_Atomics :
    let m := pages (wr 3 (lw 8) tm)
    m.canReadW 3 = true ∧ m.canReadW 4 = true ∧ m.ownWindow (m.w 3) 8 = true ∧ (m.settleOwn 0).scratchBad = [] ∧
    fineAnd (m.memCheck 0xF000000001000008 4 .atomic) (fun x => x.1 == .remote 1 (scratchKey 1 8)) = true ∧
    fineAnd (m.memCheck 0x40FF8 8 .atomic) (fun x => !x.1.parkable) = true ∧
    fineAnd ((badTable tm).memCheck 0x90000 8 .atomic) (fun x => x.1 == .failed) = true ∧
    fineAnd (m.memCheck 0x80000 8 .atomic) (fun x => x.1.parkable) = true ∧ fine (m.memCheck 0x40FF9 8 .atomic) = false := by
  decide +kernel
theorem met_VectorLoadsStores :
    let m := pages (wr 3 (lw 64) tm)
    m.canReadW 3 = true ∧ (m.vecReads (some 1) [] 0 [3]).map (fun x => x.2.1) = some 0xFFFF ∧
    (m.vecReads (some 1) [] 1 [3]).map (fun x => x.2.1) = some 0 ∧ fine (m.memCheck (m.w 3) 64 .load) = true ∧
    fine (m.memCheck (m.w 3 + 4) 64 .load) = false ∧ loadGets m (m.w 3) 64 = 1 ∧ loadGets (bad (m.w 3) m) (m.w 3) 64 = 0 ∧
    loadGets m 0x40000 64 = 2 ∧ (m.vecReads none [1] 0 [3]).map (fun x => (x.1.canReadW 3, x.2.1)) = some (true, 0xFFFF) ∧
    (m.vecReads none [1] 1 [3]).map (fun x => x.2.1) = some 0 ∧ fine (m.memCheck (m.w 3) 64 .store) = true ∧
    fine (m.memCheck (m.w 3 + 4) 64 .store) = false := by
  decide +kernel
theorem met_GatherScatter :
    (let m := pages (wr 3 (lw 64) tm)
     m.canReadW 3 = true ∧ (m.vecReads (some 1) [2] 0 [3]).map (fun x => (x.1.canReadW 3, x.2.1)) = some (true, 0xFFFF) ∧
     (m.vecReads (some 1) [2] 1 [3]).map (fun x => x.2.1) = some 0 ∧
     (m.vecReads none [1, 2] 0 [3]).map (fun x => (x.1.canReadW 3, x.2.1)) = some (true, 0xFFFF) ∧
     fineAnd (m.checkLanes (m.w 3) (m.vimage 2) 2 .load (activeLanes 0x8001))
       (fun x => fine (x.2.gatherLanes x.1) && !x.1.any (fun p => p.2.2.parkable)) = true ∧
     fineAnd ((bad (m.w 3) m).checkLanes (m.w 3) (m.vimage 2) 2 .load (activeLanes 0x8001))
       (fun x => !fine (x.2.gatherLanes x.1)) = true ∧
     fine (m.checkLanes 0x40001 (m.vimage 2) 2 .load (activeLanes 0x8001)) = false ∧
     fine (m.checkLanes 0x40001 (m.vimage 2) 2 .store (activeLanes 0x8001)) = false ∧
     fineAnd (m.checkLanes 0x80000 (m.vimage 2) 0 .load (activeLanes 0x8001))
       (fun x => fine (x.2.gatherLanes x.1) && x.1.any (fun p => p.2.2.parkable)) = true ∧
     fineAnd (m.checkLanes 0x40000 (m.vimage 2) 0 .store (activeLanes 0x8001)) (fun x => !x.1.any (fun p => p.2.2.parkable)) = true ∧
     fineAnd (m.checkLanes 0x80000 (m.vimage 2) 0 .store (activeLanes 0x8001)) (fun x => x.1.any (fun p => p.2.2.parkable)) = true) := by
  decide +kernel
theorem met_FenceAndPrefetch :
    tm.canReadW 3 = true ∧ tm.acquiredAll 0 1 1 = true ∧ tm.releasedAll 0 1 1 = true ∧ tm.peerHeld 0 1 1 = false ∧
    (tm.late (tm.lateW 4) (.value 5 0) true).acquiredAll 0 1 1 = false ∧
    (tm.request 1 (.mem .arrive (scratchKey 1 8) 0 false)).releasedAll 0 1 1 = false ∧
    (tm.modSlice 2 (fun x => { x with peerStores := [{ bytes := [], who := { core := 0, tasks := [1] } }] })).peerHeld 0 1 1 = true := by
  decide
theorem met_StreamPorts :
    (let r (w : Word) (n : Word) : Nat := recOf [0xFC00000000000040, w, n, 0x400000000, 0, 0]
     let m := tm.setPort 13 .unbound
     fine (tm.readSh 1) = true ∧ m.bindCause (r 0x1000200 16) = none ∧ recCount (r 0x1000200 16) = 16 ∧
     m.bindCause (r 0x1000200 0) = none ∧ recCount (r 0x1000200 0) = 0 ∧ m.bindCause (r 0x200 0) = some .shapeExtent) ∧
    tm.port 13 = .unbound ∧ (tm.setPort 13 (.payload [])).port 13 ≠ .unbound := by decide +kernel
theorem met_CaptureResults :
    32 < (31 : BitVec 5).toNat + (1 : BitVec 3).toNat + 1 ∧ (level1 tm).cur.ctx = 11 ∧ fine ((level1 tm).readRange 31 1) = true ∧
    fine (tm.readRange 31 1) = true ∧ fine (tm.readRange 24 8) = true ∧ tm.freeEnv 0 = some 0 ∧ tm.cur.ctx ≠ 11 ∧
    tm.myCore.frameNo tm.me.wp = some 1 ∧ Table.get tm.myCore.pins 1 0 ≠ 65535 ∧
    Table.get (tm.modCore 0 (fun r => { r with pins := [(1, 65535)] })).myCore.pins 1 0 = 65535 ∧
    tm.myCore.frameNo 0x100000 = none ∧ (tm.modCore 0 (fun r => { r with envcfg := 0 })).freeEnv 0 = none ∧
    (tm.modCore 0 (fun r => { r with envcfg := 0 })).badEnv 0 = none ∧ tm.badEnv 0 = none ∧
    (let k := tm.envKey 0 0 + 8
     ({ tm with scratchBad := [k] } : Mach).badEnv 0 = some k) := by decide +kernel
theorem met_ApplySpawnResults :
    (let m := closed_ tm
     let e : Entry := { h := m.k 1, args := ⟨0, 0, 0⟩ }
     m.canReadK 1 = true ∧ fine (m.readArgs 29) = true ∧ fine (m.readArgs 0) = true ∧ fine (m.readArgs 30) = true ∧
     fine (m.applyArgs 29) = true ∧ fine (m.applyArgs 0) = true ∧ fine (m.applyArgs 30) = true ∧
     m.inPart 0 (hHome (m.k 1)) = true ∧ hHome (m.k 1) = 0 ∧ fine (m.takeApp 0 (m.k 1) false) = true ∧ fine (m.takeApp 0 2 false) = false ∧
     fineAnd (m.live 0 (m.k 1)) (fun x => !ctlRt (m.ctl x.2) && ctlRefs (m.ctl x.2) != 0 && ctlFlight (m.ctl x.2) != 65535) = true ∧
     (m.core 0).spill = [] ∧ (m.core 0).deque.length < 64 ∧ (m.pushOldest 0 e).isSome = true ∧ (m.pushNewest 0 e).isSome = true ∧
     ((fullDeque m).pushOldest 0 e).isNone = true ∧ m.inPart 0 (hHome (m.k 2)) = true ∧ hHome (m.k 2) ≠ 0 ∧
     m.myCore.sendq < 16 ∧ 16 ≤ (sendFull m).myCore.sendq ∧ m.spawnFull 0 = false ∧ (fullDeque m).spawnFull 0 = true) ∧
    (oneRow tm).inPart 0 (hHome (mkHandle 64 0 1)) = false ∧
    (let m := vr 1 (mkHandle 1 0 1).toNat tm
     let v := m.vimage 1
     let todo := (activeLanes 0xFFFF).map (fun i => (lane v i, laneArgs 0 i))
     (m.vecReads none [1] 0).map (fun x => x.2.1) = some 0xFFFF ∧ (m.vecReads none [1] 1).map (fun x => activeLanes x.2.1) = some [] ∧
     (activeLanes 0xFFFF).all (fun i => m.inPart 0 (hHome (lane v i)) && hHome (lane v i) != 0) = true ∧
     (m.core 0).sendq + (activeLanes 0xFFFF).length ≤ 16 ∧ fine (m.takeLocal v (activeLanes 0xFFFF)) = true ∧
     (m.pushLanes 0 1 0 todo).2 = [] ∧ ((sendFull m).pushLanes 0 1 0 todo).2 ≠ []) ∧
    (let m := vr 1 ((closed_ tm).k 1).toNat (closed_ tm)
     let todo := (activeLanes 1).map (fun i => (lane (m.vimage 1) i, laneArgs 0 i))
     fine (m.takeLocal (m.vimage 1) (activeLanes 1)) = true ∧ fine (m.takeLocal 2 (activeLanes 1)) = false ∧
     (m.pushLanes 0 1 0 todo).2 = [] ∧ ((fullDeque m).pushLanes 0 1 0 (todo.filter (fun l => hHome l.1 == 0))).2 ≠ []) ∧
    (let v := (vr 1 (mkHandle 64 0 1).toNat (oneRow tm)).vimage 1
     (activeLanes 0xFFFF).find? (fun i => !(oneRow tm).inPart 0 (hHome (lane v i))) = some 0) := by
  decide +kernel
theorem met_HandleInstructions :
    let m := closed_ tm
    m.canReadK 1 = true ∧ m.canReadW 31 = true ∧ m.inPart 0 (hHome (m.k 1)) = true ∧ hHome (m.k 1) = 0 ∧
    fine (m.dupRef 0 (m.k 1)) = true ∧ fine (m.dropRef 0 (m.k 1)) = true ∧ hHome (m.k 2) ≠ 0 ∧ hGen (m.k 2) ≠ 0 ∧ hGen (m.k 3) = 0 := by
  decide +kernel
theorem met_DupAddsOneReference : fine ((closed_ tm).dupRef 0 ((closed_ tm).k 1)) = true := by decide +kernel
theorem met_StartDispatches :
    let m := closed_ (ctl0 tm)
    m.canReadK 1 = true ∧ fine (m.readArgs 29) = true ∧ m.cur.ctx = 0 ∧ m.inPart 0 (hHome (m.k 1)) = true ∧
    m.freeHelper 0 = some 2 ∧ (m.freeFrame 0).isSome = true ∧ hHome (m.k 1) = 0 ∧ fine (m.takeApp 0 (m.k 1) m.me.rt) = true ∧
    hHome (m.k 2) ≠ 0 ∧ (m.modCore 0 (fun r => { r with used := List.range 32 })).freeFrame 0 = none := by decide +kernel
theorem met_SendAndReply :
    let m := wr 4 (lw 64) (wr 3 (0x4000000000 + 9 * 65536 + 1) tm)
    m.canReadW 3 = true ∧ m.canReadW 4 = true ∧ descLen (m.w 3) = 64 ∧ descLen 0x100000001 = 1 ∧ m.inPart 0 (descDest (m.w 3)) = true ∧
    m.portsReady none [1] = true ∧ fine (m.readV 1) = true ∧ fine (m.checkBuffer (m.w 4) 64) = true ∧ m.scratchBad = [] ∧
    m.myCore.sendq < 16 ∧ ¬ (sendFull m).myCore.sendq < 16 := by decide +kernel
theorem met_ReceiveInstructions :
    (let d : Word := 0x800096C01
     let m := chans (wr 4 (lw 64) (wr 3 d.toNat tm))
     m.canReadW 3 = true ∧ m.canReadW 4 = true ∧ m.w 3 = d ∧ descLen d = 8 ∧ fine (m.checkBuffer (m.w 4) 8) = true ∧ Post.chan d = 3 ∧
     (m.chan 0 3).mode = 2 ∧ (m.chan 0 3).posts.length < 32 ∧ Post.rsv d = false ∧ Post.rsv (d + 0x1000) = true ∧
     takeOverflow d (m.chan 0 3).overflow = none ∧ (takeOverflow d [msg1]).isSome = true) ∧
    (let m := chans (closed_ tm)
     m.canReadK 1 = true ∧ m.me.rt = false ∧ (rt m).me.rt = true ∧ m.canBind 0 3 = false ∧ m.canBind 0 2 = true ∧
     m.inPart 0 (hHome (m.k 1)) = true ∧ hHome (m.k 1) = 0 ∧ fine (m.bindRef 0 (m.k 1) m.me.rt) = true ∧ hHome (m.k 2) ≠ 0) := by
  decide +kernel
theorem met_AwaitingBlocks :
    let m := pages (closed_ tm)
    m.canReadW 3 = true ∧ m.canReadK 1 = true ∧ fine (m.parkXlate 0xFC00000000000000) = false ∧
    fineAnd (m.parkXlate 0x40FF8) (fun x => x.1.any (fun y => !ptePk y.2)) = true ∧
    fineAnd (m.parkXlate 0x80000) (fun x => x.1.any (fun y => ptePk y.2) && x.2.inPart 0 0 && fine (x.2.takeApp 0 (m.k 1) false) &&
      !fine (x.2.takeApp 0 2 false)) = true ∧
    fineAnd ((badTable tm).parkXlate 0x90000) (fun x => x.1.isNone) = true ∧
    fineAnd ((pages (oneRow tm)).parkXlate 0x80000) (fun x => x.1.any (fun y => ptePk y.2) && !x.2.inPart 0 (hHome (mkHandle 64 0 1))) = true ∧
    hHome (m.k 1) = 0 ∧ hHome (m.k 2) ≠ 0 ∧
    (m.vecReads none [1, 2] 0 [3]).map (fun x => (x.1.canReadW 3, x.2.1)) = some (true, 0xFFFF) ∧
    (m.vecReads none [1, 2] 1 [3]).map (fun x => x.2.1) = some 0 ∧ fine (m.xlateLanes 0 0 0 []) = true ∧
    fine (m.xlateLanes 0xFC00000000000000 (m.vimage 1) (m.vimage 2) (activeLanes 0x8001)) = false ∧
    fineAnd (m.xlateLanes 0x40000 (m.vimage 1) (m.vimage 2) (activeLanes 0x8001)) (fun x => (x.1.find? (fun x => !ptePk x.2)).isSome) = true ∧
    fineAnd (m.xlateLanes 0x80000 ((vr 1 (mkHandle 1 0 1).toNat m).vimage 1) (m.vimage 2) (activeLanes 0x8001))
      (fun x => (x.1.find? (fun x => !ptePk x.2)).isNone && fine (x.2.takeLanes 0 false true (x.1.map (·.1)))) = true ∧
    fineAnd (m.xlateLanes 0x80000 ((vr 1 2 m).vimage 1) (m.vimage 2) (activeLanes 0x8001))
      (fun x => (x.1.find? (fun x => !ptePk x.2)).isNone && !fine (x.2.takeLanes 0 false true (x.1.map (·.1)))) = true ∧
    (m.modMe (fun v => { v with wait := .reply 0 (.park false [] false) })).me.parking = true ∧
    m.outstanding 0 1 = false ∧ (m.late (m.lateW 4) (.value 5 0)).outstanding 0 1 = true := by
  decide +kernel
theorem met_TaskEnd :
    (ctl0 tm).cur.ctx = 0 ∧ tm.cur.ctx ≠ 0 ∧ tm.cur.ctx ≠ 11 ∧ (level1 tm).cur.ctx = 11 ∧ tm.myCore.frameNo tm.me.wp = some 1 ∧
    Table.get tm.myCore.pins 1 0 = 0 ∧ Table.get (tm.modCore 0 (fun r => { r with pins := [(1, 2)] })).myCore.pins 1 0 ≠ 0 := by decide
theorem met_BarriersAndWindows :
    (level1 tm).cur.ctx = 11 ∧ (level1 tm).canReadW 3 = true ∧ tm.cur.ctx ≠ 11 ∧ tm.canReadW 3 = true ∧ tm.me.window = 0 ∧
    (tm.modMe (fun v => { v with window := 64 })).me.window ≠ 0 ∧
    field tm.myCore.teamid 0 16 = 0 ∧ fine tm.teamCheck = false ∧ fine (teams tm).teamCheck = true ∧
    (let m := (tm.emptyAll (tm.lateW 4))
     ((m.drainAll 0).settleOwn 0).releasedAll 0 1 1 = true ∧
     (((m.request 1 (.mem .arrive (scratchKey 1 8) 0 false)).drainAll 0).settleOwn 0).releasedAll 0 1 1 = false) ∧
    tm.acquiredAll 0 1 1 = true ∧ (tm.late (tm.lateW 4) (.value 5 0) true).acquiredAll 0 1 1 = false ∧
    (let m := wr 3 3 (teams tm)
     m.canReadW 3 = true ∧ (3 % 2 ^ 32 + 2 ^ 32 - field (m.w 3) 0 32) % 2 ^ 32 = 0 ∧
     (3 % 2 ^ 32 + 2 ^ 32 - 2) % 2 ^ 32 = 1 ∧ 2 ^ 31 ≤ (3 % 2 ^ 32 + 2 ^ 32 - 4) % 2 ^ 32 ∧
     (Table.find (m.part 0).teams 5).isSome = true ∧ (m.groupOf 0 1).isSome = true) ∧
    (let arrived : List (Nat × Nat) := [(0, 0), (1, 0)]
     arrived.any (fun x => x.1 == 0) = true ∧ arrived.any (fun x => x.1 == 2) = false ∧
     [0, 1].all (fun c => (teams tm).isFenced c || arrived.any (fun x => x.1 == c)) = true ∧
     [0, 1].all (fun c => (teams tm).isFenced c || (arrived.take 1).any (fun x => x.1 == c)) = false) := by decide +kernel
theorem met_EngineCommands :
    (tm.modCluster 0 (fun x => { x with holder := some 0 })).cluster 0 = { holder := some 0 } ∧ (tm.cluster 0).holder ≠ some 0 ∧
    (tm.cluster 0).fifo.any (fun e => e.1 == 0) = false ∧
    ((tm.modCluster 0 (fun x => { x with fifo := [(0, [9])] })).cluster 0).fifo.any (fun e => e.1 == 0) = true ∧
    (let m := wr 3 1 (rt tm)
     m.me.rt = true ∧ m.canReadW 3 = true ∧ field (m.w 3) 13 51 = 0 ∧ m.inPart 0 1 = true ∧ m.inPart 0 0 = true) ∧
    fine (tm.readSh 0) = true ∧ fine (tm.readSh 3) = true ∧ tm.myCore.seqs.length < 4 ∧
    4 ≤ ((List.replicate 4 0).foldl (fun m _ => m.queueSeq 0 1 false 0 none [] 0 0) tm).myCore.seqs.length ∧
    (let m := wr 4 (lw 0x100) (engine true 0 tm)
     fineAnd (tm.checkList 0 false 0) (fun hs => hs.isEmpty && fineAnd (m.forkFrom 0 false false (m.w 4) hs) (fun f => f == .ready)) = true ∧
     m.w 4 ≠ 0 ∧ tm.forkRoom 0 0 (lw 0x100) = true ∧
     ((List.replicate 4 0).foldl (fun m _ => m.queueSeq 0 1 true 0 none [] 0 0) tm).forkRoom 0 0 (lw 0x100) = false) ∧
    (let h := mkHandle 1 0 1
     let m := engine false (0x220 + h.toNat * 2 ^ 32) tm
     fineAnd (m.checkList 0 false (lw 0x100)) (fun hs => fineAnd (m.forkFrom 0 false false 0 hs) (fun f => f == .ask false [h])) = true) := by
  decide +kernel
theorem met_SystemRegisters :
    (csrRuntime 0x001 && !tm.me.rt) = false ∧ (csrRuntime 0x005 && !tm.me.rt) = true ∧
    Table.find State.reset.power.dutyWas 0 = none ∧ tm.canReadW 3 = true ∧ fine (tm.writeCsr 0x010 0) = true ∧
    fine (tm.writeCsr 0x010 5) = false ∧ tm.outstanding 0 1 = false ∧ (tm.late (tm.lateW 4) (.value 5 0)).outstanding 0 1 = true ∧
    (field (5 : Word) 0 3 = 5 ∧ field (4 : Word) 0 3 = 4 ∧ field (7 : Word) 0 3 = 7 ∧ field (0x300 : Word) 8 2 = 3 ∧
      field (0x200 : Word) 8 2 = 2 ∧ field (0x304 : Word) 0 3 ≤ 4) ∧
    fine (tm.writeCsr 0x024 4) = true ∧ traps (tm.writeCsr 0x024 5) .stealDomainInvalid = true ∧
    traps (tm.writeCsr 0x024 7) .stealDomainInvalid = true := by
  decide +kernel
theorem met_PlacementWrites :
    (traps (tm.writeCsr 0 1) .workspaceBounds = true ∧ traps (tm.writeCsr 0 65536) .workspaceBounds = true ∧
     fine (tm.writeCsr 0 63488) = true ∧ traps (ctl0 tm |>.writeCsr 0 63488) .workspaceBounds = true ∧
     traps (ctl0 tm |>.writeCsr 0 2048) .workspaceBounds = true ∧ fine (ctl0 tm |>.writeCsr 0 4096) = true) ∧
    (traps (tm.writeCsr 0x030 1) .reservedField = true ∧ fine (tm.writeCsr 0x030 2) = true ∧ fine (tm.writeCsr 0x030 6) = true ∧
     traps (tm.writeCsr 0x030 7) .reservedField = true ∧ traps ((teams tm).writeCsr 0x030 2) .barrierTeamInvalid = true ∧
     traps ((tm.modCore 0 (fun r => { r with envcfg := 0x8000180000 })).writeCsr 0x030 6) .workspaceBounds = true) ∧
    (let v (n b : Nat) : Word := BitVec.ofNat 64 (n * 2 ^ 32 + b)
     traps (idle0.writeCsr 0x031 (v 0 0x10000)) .reservedField = true ∧ fine (idle0.writeCsr 0x031 (v 1 0x10000)) = true ∧
     fine (idle0.writeCsr 0x031 (v 16384 0x10000)) = true ∧
     traps (idle0.writeCsr 0x031 (v 16385 0x10000)) .reservedField = true ∧ traps (idle0.writeCsr 0x031 (v 1 0x10800)) .reservedField = true ∧
     traps (tm.writeCsr 0x031 (v 1 0x10000)) .helperExhausted = true ∧ traps (idle0.writeCsr 0x031 (v 1 0xF000)) .workspaceBounds = true ∧
     traps (idle0.writeCsr 0x032 (v 2 0)) .reservedField = true ∧ fine (idle0.writeCsr 0x032 (v 3 0)) = true ∧
     traps (idle0.writeCsr 0x032 (v 3 0x800)) .workspaceBounds = true ∧ traps (tm.writeCsr 0x032 (v 3 0)) .helperExhausted = true ∧
     traps (idle0.writeCsr 0x032 (v 1024 0)) .workspaceBounds = true ∧ traps (idle0.writeCsr 0x032 (v 1025 0)) .reservedField = true ∧
     traps (idle0.writeCsr 0x032 (v 3 0x400)) .reservedField = true) ∧
    (traps (tm.writeCsr 0x043 3) .reservedField = true ∧ fine (tm.writeCsr 0x047 0) = true ∧ fine (tm.writeCsr 0x040 1) = true ∧
     traps ((chans tm).writeCsr 0x043 1) .channelBindConflict = true ∧ fine ((chans tm).writeCsr 0x043 2) = true) ∧
    (fine (tm.writeCsr 0x100 0) = true ∧ traps (tm.writeCsr 0x100 0x10) .bankFormatMismatch = true ∧
     fine (tm.writeCsr 0x110 0x10) = true ∧ traps (tm.writeCsr 0x110 0x11) .reservedField = true ∧
     traps (tm.writeCsr 0x13F 1) .bankFormatMismatch = true) ∧
    (let other := tm.modPart 1 (fun p => { p with state := .running })
     fine (tm.writeCsr 0x800 320) = true ∧ traps (tm.writeCsr 0x800 321) .reservedField = true ∧
     fine (other.writeCsr 0x800 192) = true ∧ traps (other.writeCsr 0x800 193) .reservedField = true) ∧
    (let expert := tm.modPart 0 (fun p => { p with expert := true })
     (tm.part 0).expert = false ∧ fine (expert.writeCsr 0x802 0x70000000000) = true ∧
     traps (expert.writeCsr 0x802 0x80000000000) .reservedField = true) := by
  decide +kernel
theorem met_TrapEntry : ({ cause := .breakpoint, bad := some 3 } : Trap).bad = some 3 := rfl
theorem met_TrapInstructions :
    recoverable .fetchPerm = false ∧ recoverable .fetchXlate = true ∧ (ctl0 tm).cur.ctx = 0 ∧ 10 < (level1 tm).cur.ctx ∧
    fine (decode 0) = false ∧
    (let m := tm.modCtx 0 1 (fun v => { v with count := 0x01000000 })
     m.overrunDue 0 1 = true ∧ (m.ctx 0 1).wait = .none ∧ ((m.ctx 0 1).rt && (m.ctx 0 1).trapped) = false) ∧
    (let m := (tm.modCtx 0 1 (fun v => { v with count := 0x01000000, wait := .sync 1 })).late [] (.token true)
     m.overrunDue 0 1 = true ∧ (m.withdraw 1).1 = true) ∧
    (let m := tm.modCtx 0 1 (fun v => { v with count := 0x01000000, wait := .reply 0 .counted, deferred := true })
     m.overrunDue 0 1 = true ∧ (m.ctx 0 1).deferred = true) := by decide +kernel
theorem met_TrapReturn :
    tm.me.rt = false ∧ (rt tm).me.rt = true ∧
    (let k := scratchKey 0 (2048 + 1808)
     k ∉ (rt tm).scratchBad ∧ k ∈ ({ rt tm with scratchBad := [k] } : Mach).scratchBad ∧ field ((rt tm).word k) 1 7 ≤ 64 ∧ field ((rt tm).word k) 9 55 = 0 ∧ field (((rt tm).write k 8 128).word k) 1 7 = 64 ∧
     64 < field (((rt tm).write k 8 130).word k) 1 7 ∧ field (((rt tm).write k 8 512).word k) 9 55 ≠ 0) := by decide
theorem met_RuntimeInstructions :
    tm.me.rt = false ∧ (rt tm).me.rt = true ∧ tm.portsReady (some 1) [] = true ∧ (tm.diePart 0 0).fq = [] ∧
    ((tm.post 0 0 { cause := 1 }).diePart 0 0).fq.length = 1 ∧ tm.canReadW 3 = true ∧
    field (0x20000 : Word) 17 47 ≠ 0 ∧ field (0x1FFFF : Word) 17 47 = 0 ∧ tm.holder 0 0 0 = none ∧
    (tm.hold 0 1 { cause := .loadXlate, bad := some 0 } 0).holder 0 0 0 = some 0 ∧ isGv 0x40000 = true ∧ isGv 0xFC00000000000000 = false ∧
    fine ((rt tm).readTcb 0) = false ∧
    (let m := (rt tm).write (scratchKey 0 0x100) 8 0x100000401 |>.write (scratchKey 0 0x110) 8 0x1000000000000000
     fineAnd (m.readTcb (BitVec.ofNat 64 (lw 0x100))) (fun ws => (m.migrCause 0 ws).isSome) = true) ∧
    (let m := (rt tm).write (scratchKey 0 0x100) 8 0x100000401 |>.write (scratchKey 0 0x110) 8 (0x180000 + 0x800 * 0x200000 - 0x80000)
     fineAnd (m.readTcb (BitVec.ofNat 64 (lw 0x100))) (fun ws => (m.migrCause 0 ws).isNone) = true) := by decide +kernel
theorem met_Folds :
    (let m := teams tm
     let fa : Word := 0xF800000001000040
     m.canReadW 3 = true ∧ m.portsReady (some 1) [] = true ∧ fine (m.foldCheck fa (decide (10 ≤ (9 : BitVec 4).toNat))) = true ∧
     fine (m.foldCheck fa (decide (10 ≤ (10 : BitVec 4).toNat))) = false ∧
     (m.vecReads none [1] 0 [3]).map (fun x => x.1.canReadW 3) = some true ∧ fine (m.foldCheck fa false) = true ∧
     fine (m.foldCheck (fa + 8) false) = false) ∧
    (let f : Fold := { id := 1, pend := 2, core := 0, task := 1, part := 0, group := 1, op := 0, fa := 0xF800000001000040, since := 0,
                       unread := [], got := [(0, none), (1, none)], packet := 5 }
     let m := { net [{ req 0 (.fold 1) with phase := .done }] (teams tm) with folds := [f], now := 100000 }
     let m2 := { net [{ req 0 (.fold 1) with phase := .done }, rep (.folded 7 0)] (teams tm) with folds := [f] }
     m.folds.find? (fun f => f.id == 1) = some f ∧ m.foldFree f = true ∧ (m.groupOf 0 1).isSome = true ∧ f.unread = [] ∧
     (m.packet 5).any (fun p => p.phase == .done && p.id == 5) = true ∧ m.packets.any (fun r => r.answers == 5) = false ∧
     f.since + 100000 ≤ m.now ∧ m2.folds.find? (fun f => f.id == 1) = some f ∧ m2.foldReply f = some (7, 0) ∧ m2.foldFree f = true) := by
  decide +kernel
theorem met_CopyAndSignal :
    (let r := 1 + 0x200 * 2 ^ 32 + 0x240 * 2 ^ 64
     let m := shapes (engine false r tm)
     let g := 2 + 0x200 * 2 ^ 32 + 0x240 * 2 ^ 64 + 0x300 * 2 ^ 96 + 2 ^ 128
     atCmd false m = some r ∧ atCmd false (shapes (engine false g tm)) = some g ∧
     headAnd false m (fun q => match m.copyStart q r with
       | .ok (some p) => !q.started && p.count == 16 && !p.blocks &&
         (let run := m.copyRuns q.agent p 0 false 1 0 0 []
          run.halt.isNone && run.done == 1) &&
         (let run := (bad 0x40 m).copyRuns q.agent p 0 false 1 0 0 []
          match run.halt with | some (.stop _ _ _) => run.m.seqQuiet q.id | _ => false)
       | _ => false) = true ∧
     headAnd false m (fun q => match (m.write (scratchKey 0 0x210) 8 0).copyStart q r with | .ok none => true | _ => false) = true ∧
     headAnd false m (fun q => match (m.write (scratchKey 0 0x208) 8 1).copyStart q r with | .error (.stop _ _ _) => true | _ => false) = true ∧
     m.seqQuiet 40 = true ∧ (net [{ req 0 .ack with seq := 40 }] m).seqQuiet 40 = false ∧
     (let f := far 2 (engine false r tm)
      headAnd false f (fun q => copyHalts f q.agent q r == 2) = true ∧
      (let f := f.modHead false 0 (fun q => { q with reads := [{ addr := 0xF000000001000040, n := 4, write := false, id := 1 }] })
       headAnd false f (fun q => copyHalts f q.agent q r == 1 && copyHalts f q.assumed.agent q r == 2) = true ∧
       (let f := (f.write (scratchKey 0 0x210) 8 1).write (scratchKey 0 0x250) 8 1
        headAnd false f (fun q => copyHalts f q.agent q r == 1 && copyHalts f q.assumed.agent q r != 2) = true)))) ∧
    atCmd true (engine true 0 tm) = some 0 ∧ atCmd false (engine false 0 tm) = some 0 ∧
    (let r := 0x320 + lw 0x80 * 2 ^ 64
     let m := engine true r tm
     atCmd true m = some r ∧ r.testBit 8 = true ∧ r.testBit 9 = true ∧
     headAnd true m (fun q => q.done == 0 && fine (m.signalJoin q.agent (BitVec.ofNat 64 (r / 2 ^ 64))) &&
       !fine (m.signalJoin q.agent 1) && (m.signalApply q 0 0).isSome) = true) ∧
    (let m := closed_ (engine true 0x220 tm)
     atCmd true m = some 0x220 ∧ headAnd true m (fun q => ((fullDeque m).signalApply q (m.k 1) 0).isNone) = true) ∧
    (let m := (bad 0x80 (engine true 0 tm)).modHead true 0 (fun q => { q with join := scratchKey 0 0x80 })
     atCmd true m = some 0 ∧ headAnd true m (fun q => m.scratchBad.contains q.join) = true) ∧
    tm.headSeq true 0 = none ∧ (engine true 0 tm).seqQuiet 40 = true ∧ (net [{ req 0 .ack with seq := 40 }] (engine true 0 tm)).seqQuiet 40 = false := by
  decide +kernel
theorem met_MatrixArray :
    [0x20000000011, 0x20000000012, 0x20000000013, 0xF10].all (fun r => atCmd true (engine true r tm) == some r) = true ∧
    (let m := engine true 0x20000000011 tm
     headAnd true m (fun q => q.cmd.isNone && !q.started && fine (startMma m q 0x20000000011)) = true) ∧
    (let m := shapes (engine true 0x20000000012 tm)
     headAnd true m (fun q => !fine (startMstore m q 0x20000000012)) = true) ∧
    cmdByte 0x1010 1 = 16 ∧ cmdByte 0xF10 1 = 15 ∧ cmdByte 0xF0F11 2 / 16 = 0 ∧
    (let m := engine true 0xF10 (tm.modCluster 0 (fun x => { x with holder := some 0, commands := 64, fifo := [(3, [])], passed := [0] }))
     m.leaseOver 0 0 = true ∧ 0 ∈ (m.cluster 0).passed ∧
     headAnd true (m.modHead true 0 (fun q => { q with cmd := some 0xF10 })) (fun q => q.cmd == some 0xF10 && !q.started) = true) ∧
    (let m := far 2 (engine true 0x20000000013 tm)
     headAnd true m (fun q => wloadHalts m q == 2) = true ∧
     headAnd true (asked m) (fun q => wloadHalts (asked m) q == 1 && wloadHalts (asked m) q.assumed == 2) = true ∧
     (let m := asked (far 1 (engine true 0x20000000013 tm))
      headAnd true m (fun q => wloadHalts m q == 1 && wloadHalts m q.assumed == 0) = true)) ∧
    (engine true 0xF10 tm).leaseOver 0 0 = false ∧ 0 ∉ (tm.cluster 0).passed ∧
    (let m := tm.modCluster 0 (fun x => { x with predicted := [(3, 2304)], cycles := 4096 })
     m.gateDelay 0 = 4096 ∧ m.gateDelay 0 ≤ m.arrayCycles 0 - 0 ∧ 2304 ≤ Table.get (m.cluster 0).predicted 3 0) ∧
    (let k := (tm.modCluster 0 (fun x => { x with fifo := [(3, [])] })).cluster 0
     k.fifo = [(3, [])] ∧ k.holder = none ∧ k.leaving = none) ∧
    (let k := (engine true 0 (tm.modCluster 0 (fun x => { x with leaving := some 0 }))).cluster 0
     k.leaving = some 0 ∧ k.seqs.any (fun q => q.core == 0) = true ∧ k.seqs.any (fun q => q.core == 1) = false) ∧
    (let m := tm.modCluster 0 (fun x => { x with holder := some 0, commands := 64 })
     (m.cluster 0).holder = some 0 ∧ 64 ≤ (m.cluster 0).commands ∧ (m.cluster 0).fifo = [] ∧ (m.core 0).cycles - 0 < 200000) := by
  decide +kernel
theorem met_LaunchAndWatchdog :
    (State.reset.m.part 0).state = .absent ∧
    (let m := (mapped tm).write 0x3009 1 1
     let a := m.descAddr 0 0
     (m.part 0).state ≠ .absent ∧ (m.part 0).state ≠ .resetting ∧ m.launchHeld 0 a = false ∧ (hot m).launchHeld 0 a = true ∧ 0 < 64 ∧
     fineAnd ((m.launcherMap 0 0 a).launchRead 0 a 64).1
       (fun d => doorbellOk 1 d 0 && d.testBit 72 && !doorbellOk 2 d 0) = true ∧
     fine ((m.launcherMap 0 0 a).launchRead 0 0x40000000 64).1 = false) ∧
    (let m := (mapped tm).modQueue 0 1 (fun x => { x with state := .running, tail := 1, base := 0x4000 })
     let m1 := m.modDie 1 (fun d => { d with served := 1 })
     m.queueReady 0 1 = true ∧ m.nextQueue 1 = some 1 ∧ (m1.takeRecord 0 1).isSome = true ∧ ((hot m1).takeRecord 0 1).isNone = true) ∧
    tm.queueReady 0 1 = false ∧
    (let m := tm.modQueue 0 1 (fun x => { x with state := .running, todo := [3] })
     (m.part 0).state = .running ∧ (m.queue 0 1).todo ≠ []) ∧ (tm.queue 0 1).todo = [] ∧
    (let m := { (tm.modQueue 0 1 (fun x => { x with state := .running, t1 := 1, t2 := 1 })).modCtx 0 1 (fun v => { v with tag := some 1 }) with now := 10000 }
     m.rungDue 0 1 0 1 = true ∧ m.rungDue 0 1 1 1 = true ∧ m.rungDue 0 1 0 0 = false) ∧
    (let x := (tm.modQueue 0 1 (fun x => { x with state := .killed, t3 := 1, killSince := some 0, killed := [(0, 1)] })).queue 0 1
     x.killSince = some 0 ∧ x.t3 ≠ 0 ∧ 2 ∉ x.rungs ∧ x.state = .killed ∧ 0 + 10000 * x.t3 ≤ 10000 ∧ ¬ 0 + 10000 * x.t3 ≤ 9999 ∧
     (tm.queue 0 1).killSince = none) ∧
    (tm.request 1 (.mem .arrive (scratchKey 1 8) 0 false)).killOpen [(0, 1)] ≠ [] ∧ tm.killOpen [] = [] := by decide +kernel
theorem met_DispatchAndSteal :
    (let e : Entry := { h := mkHandle 0 0 1, args := ⟨0, 0, 0⟩ }
     let m := tm.modCore 0 (fun r => { r with deque := [e] })
     m.running 0 = true ∧ (m.freeHelper 0).isSome = true ∧ (m.source 0).isSome = true ∧ (m.popOldest 0).isSome = true ∧
     (let m := tm.modCore 0 (fun r => { r with level1 := [(2, e)] })
      m.running 0 = true ∧ (m.part ((m.partOf 0).getD 0)).state = .running ∧ (m.ctx 0 11).live = false ∧ m.windowOpen 0 = false ∧
      (m.core 0).level1 = [(2, e)] ∧ e.check = 0 ∧ m.homeReady 0 e = true)) ∧
    (tm.source 0).isSome = false ∧ tm.maySteal 3 = true ∧ tm.victims 3 3 ≠ [] ∧ State.reset.m.maySteal 3 = false ∧
    (tm.modCtx 0 2 (fun v => { v with live := true, window := 1 })).windowOpen 0 = true ∧
    ((net [req 0 .stealAsk] tm).next 1 0 false).map (·.body) = some .stealAsk ∧ tm.isFenced 0 = false ∧ State.reset.m.isFenced 0 = true ∧
    tm.inDomain 0 1 = true ∧
    (let r := (tm.modCore 0 (fun r => { r with stealWait := some 0, cycles := 256 })).core 0
     r.stealWait = some 0 ∧ 0 + 256 ≤ r.cycles) := by
  decide +kernel
theorem met_RequestsAtHome :
    (let op : MemOp := .sync true
     let k := scratchKey 0 8
     let p := req 0 (.mem op k 0 false)
     let m := net [p] tm
     m.next 1 0 false = some p ∧ m.forwardGone p = false ∧ (m.performCore 0 op k false).isSome = true ∧
     ((m.empty k).performCore 0 op k false).isNone = true ∧ (m.core 0).waiters.length < 64 ∧
     64 ≤ ((m.modCore 0 (fun r => { r with waiters := List.replicate 64 (1, 0, true) })).core 0).waiters.length ∧
     m.next 0 1 false = none) ∧
    (net [req 0 (.fold 1)] tm).next 1 0 false = some (req 0 (.fold 1)) ∧
    (let p := req 1026 (.mem (.load 8) 0x40000 0x40000 false)
     let m := net [p] tm
     m.next 1 1026 false = some p ∧ (m.slice 2).retired = false ∧ ((m.modSlice 2 (fun x => { x with retired := true })).slice 2).retired = true ∧
     m.memHeld 0x40000 = false ∧ (hot m).memHeld 0x40000 = true) ∧
    (let p := req 0 (.handle .dup (mkHandle 0 0 1) false)
     (net [p] (closed_ tm)).next 1 0 false = some p) ∧
    (let h := (closed_ tm).k 1
     let p := req 0 (.apply h ⟨0, 0, 0⟩ false none)
     let m := net [p] (closed_ tm)
     let e : Entry := { h := h, args := ⟨0, 0, 0⟩ }
     m.next 1 0 false = some p ∧ m.isFenced 0 = false ∧ (m.modCore 0 (fun r => { r with fenced := true })).isFenced 0 = true ∧
     fineAnd (m.takeApp 0 h false 0) (fun m => (m.pushOldest 0 e).isSome) = true ∧
     fineAnd ((fullDeque m).takeApp 0 h false 0) (fun m => (m.pushOldest 0 e).isNone) = true ∧ fine (m.takeApp 0 0 false 0) = false) ∧
    (let q := { req 0 (.mem (.load 8) 0x40000 0x40000 false) with phase := .done }
     let b : Body := .remap 0 1 []
     (net [q, rep b] tm).arrivedReply 6 = some (rep b) ∧ (net [q, rep b] tm).packet 5 = some q ∧ q.remaps < 3 ∧
     (net [{ q with remaps := 3 }, rep b] tm).packet 5 = some { q with remaps := 3 }) := by decide +kernel
theorem met_ResultsAndReplies :
    (let m := (tm.late (tm.lateW 4) (.value 5 0)).late (tm.lateW 4) (.value 6 0)
     (m.findPend 1).map m.behind = some false ∧ (m.findPend 2).map m.behind = some true ∧ m.findPend 9 = none) ∧
    (let q := { req 0 (.mem (.load 8) (scratchKey 0 8) 0 false) with phase := .done }
     let m := net [q, rep (.data 7)] tm
     (m.partReply { wait := [(0, 8, 5)], size := 8 }).isSome = true ∧ m.partReply { wait := [(0, 8, 9)], size := 8 } = none) ∧
    tm.arrivedReply 6 = none ∧
    (let q := { req 0 (.message msg1 2) with phase := .done }
     let m := net [q, rep (.status 0)] ((tm.late [] (.token false)).late [] (.token false))
     m.arrivedReply 6 = some (rep (.status 0)) ∧ m.packet 5 = some q ∧ (m.findPend 2).any m.behind = false ∧
     (let m := (tm.late [8] (.token false)).late [8] (.token false)
      (m.findPend 2).any m.behind = true)) ∧
    (let b : Body := .handled none 0
     let waits (m : Mach) : Mach := m.modCtx 1 2 (fun v => { v with live := true, task := 3, wait := .reply 0 .counted })
     [HandleOp.dup, .giveBack, .accept].all (fun op =>
       let q := { req 0 (.handle op 0 false) with phase := .done }
       (net [q, rep b] tm).arrivedReply 6 == some (rep b) && (net [q, rep b] tm).packet 5 == some q) = true ∧
     ((net [rep b] (waits tm)).settleReply (rep b)).ctxOf 1 3 = some 2 ∧ ((net [rep b] tm).settleReply (rep b)).ctxOf 1 3 = none ∧
     (let q := { req 0 (.handle .cancel 0x401 true) with phase := .done }
      let m := (engine true 0 tm).modHead true 0 (fun q => { q with core := 1, cancel := true })
      ((net [q, rep b] (waits m)).settleReply (rep b)).cancelling 0x401 = true ∧
      ((net [q, rep b] (waits tm)).settleReply (rep b)).cancelling 0x401 = false) ∧
     (let h := mkHandle 0 0 1
      let q := { req 0 (.handle .accept h false) with phase := .done }
      let starts (m : Mach) : Mach := m.modCtx 1 2 (fun v => { v with live := true, task := 3, wait := .reply 0 (.start h ⟨0, 0, 0⟩ 3 0) })
      (net [q, rep b] tm).startWaits 1 3 h = false ∧ (net [q, rep b] (starts tm)).startWaits 1 3 h = false ∧
      (net [q, rep b, { req 0 .ack with id := 4, phase := .flying }] (starts tm)).startWaits 1 3 h = true)) ∧
    (let q := { req 1026 (.park 0 0 0 0 0 none) with phase := .done }
     let r := { rep (.parked 0 .breakpoint) with src := 1026 }
     let m := net [q, r] (tm.modCtx 1 2 (fun v => { v with live := true, task := 3, wait := .reply 0 (.park false [] false) }))
     m.arrivedReply 6 = some r ∧ (m.settleReply r).ctxOf 1 3 = some 2) ∧
    (let q := { req 0 (.mem (.store []) (scratchKey 0 8) 0 false) with phase := .done }
     let acc (m : Mach) : Mach := m.modCtx 1 2 (fun v => { v with live := true, task := 3, wait := .reply 0 (.access 5 0 none [] {}) })
     [Body.ack, .failed .blockAbsent true, .data 7, .stolen none].all (fun b =>
       let m := net [q, rep b] (acc tm)
       m.arrivedReply 6 == some (rep b) && m.pends.isEmpty && !m.engineAsked 5 && (m.settleReply (rep b)).ctxOf 1 3 == some 2 &&
       !m.replyWaits 0 q (rep b) && ((net [q, rep b] tm).settleReply (rep b)).ctxOf 1 3 == none) = true ∧
     (let f : FoldStore := { id := 1, core := 1, ctx := 2, task := 3, unacked := [5], absent := [], part := [] }
      ({ tm with foldStores := [f] } : Mach).foldStores.any (fun f => f.unacked.contains 5) = true) ∧
     (let m := net [q, rep (.data 7)] ((engine true 0 tm).modHead true 0 (fun q =>
        { q with reads := [{ addr := 0xF000000001000040, n := 8, write := false, id := 5 }] }))
      m.engineAsked 5 = true ∧ m.arrivedReply 6 = some (rep (.data 7)) ∧ m.pends = [] ∧ m.replyWaits 0 q (rep (.data 7)) = false)) ∧
    (let f : Fold := { id := 1, pend := 2, core := 0, task := 1, part := 0, group := 1, op := 0, fa := 0, since := 0, unread := [], got := [],
                       packet := 5 }
     let q := { req 0 (.fold 1) with phase := .done }
     let b : Body := .failed .retransmitExhausted false
     let m := { net [q, rep b] tm with folds := [f] }
     m.arrivedReply 6 = some (rep b) ∧ m.replyWaits 0 q (rep b) = false ∧ m.folds.find? (fun g => g.id == 1) = some f) := by
  decide +kernel
theorem met_MessageArrivals :
    (let p := req 0 (.message msg1 2)
     let m := net [p] (chans tm)
     m.nextMessage 1 0 false = some (p, msg1) ∧ (m.chan 0 3).mode = 2 ∧ m.isFenced 0 = false ∧
     (takePost false msg1 [{ desc := 0x8_0009_6001, buf := scratchKey 0 64, token := 9 }]).isSome = true) ∧
    (let p := req 0 (.message { msg1 with chan := 2 } 2)
     let m := net [p] (chans tm)
     m.nextMessage 1 0 false = some (p, { msg1 with chan := 2 }) ∧ ¬ ((m.chan 0 2).mode = 2)) ∧
    (let p := { req 0 (.message msg1 2) with reply := true }
     (net [p] (chans tm)).nextMessage 1 0 true = some (p, msg1)) ∧
    (let m := tm.modCore 0 (fun r => { r with fenced := true })
     m.isFenced 0 = true) := by decide +kernel
theorem met_NetworkEvents :
    (let p := req 0 .stealAsk
     (net [p] tm).packet 5 = some p ∧ p.phase ≠ .flying ∧ p.phase ≠ .nacked ∧ p.phase ≠ .waiting ∧ p.answers = 0 ∧ p.noticed = false ∧
     p.src ≠ p.dst ∧ p.sends ≠ closedSends ∧ p.golden = false ∧ tm.packet 5 = none) ∧
    (let p := { req 0 .stealAsk with phase := .flying, sends := closedSends }
     (net [p] tm).packet 5 = some p ∧ p.reply = false ∧ p.sends = closedSends) ∧
    (let p := { req 1 .stealAsk with phase := .flying }
     (net [p] tm).packet 5 = some p ∧ p.src = p.dst) ∧
    (let p := { req 0 .stealAsk with phase := .nacked }
     (net [p] tm).packet 5 = some p ∧ p.noticed = false) ∧
    (let p := { req 0 .stealAsk with phase := .flying, golden := true }
     p.pair ≠ some (goldenAt 0)) ∧
    (tm.die 0).down.contains 3 = false ∧ ((tm.modDie 0 (fun d => { d with down := [3] })).die 0).down.contains 3 = true ∧
    tm.peersDown.contains 1 = false ∧ ({ tm with peersDown := [1] } : Mach).peersDown.contains 1 = true ∧
    (let e : Combine := { line := 1, va := 0, bytes := [], tasks := [1], ctxs := [1], since := 0 }
     let r := (tm.modCore 0 (fun r => { r with combine := [e], cycles := 64 })).core 0
     r.combine = [e] ∧ e.since + 64 ≤ r.cycles ∧ 63 < e.since + 64) ∧ (tm.core 0).combine = [] := by
  decide +kernel
theorem met_BrumationEvents :
    (let w : Waiter := { h := 0, core := 0, va := 0, since := 0 }
     [Body.park 0 0 0x80000 0x4000 0 none, .probe 0x80000 0x4000 0, .unpin 0x80000, .report 1 w].all
      (fun b => (net [req 1026 b] tm).next 1 1026 false == some (req 1026 b)) = true) ∧
    (tm.slice 2).retired = false ∧ ((tm.modSlice 2 (fun x => { x with retired := true })).slice 2).retired = true ∧
    (mapped tm).outOfRange 0 0x80000 = false ∧ tm.outOfRange 0 0x80000 = true ∧
    (let e : Entry := { h := mkHandle 0 0 1, args := ⟨0, 0, 0⟩, pin := some (2, 0x80000) }
     (net [req 0 (.wake e)] tm).next 1 0 false = some (req 0 (.wake e)) ∧ tm.forwardGone (req 0 (.wake e)) = false ∧
     (let f : Forward := { dest := 1, extents := [(0x40, 64)], env0 := 0, envn := 8, chmask := 0, life := 10000, used := 0 }
      (tm.modCore 0 (fun r => { r with expired := [f] })).forwardGone (req 0 (.wake e)) = true) ∧ (tm.core 0).wakes.length < 64 ∧
     64 ≤ ((tm.modCore 0 (fun r => { r with wakes := List.replicate 64 e })).core 0).wakes.length ∧
     (tm.modCore 0 (fun r => { r with fenced := true })).isFenced 0 = true) ∧
    (let m := { tm with blocks := [blk .queued] }
     tm.chosen 2 0 = none ∧ m.chosen 2 0 = some (blk .queued) ∧ m.findBlock 2 0x80000 = some (blk .queued) ∧ tm.findBlock 2 0x80000 = none ∧
     m.blocks.any (fun y => y.base == 0x80000 && y.slice != 2) = false ∧
     ({ m with blocks := [{ blk .queued with slice := 3 }] } : Mach).blocks.any (fun y => y.base == 0x80000 && y.slice != 2) = true ∧
     (m.modDiePart 0 0 (fun d => { d with brcfg := 8 })).freeRun 2 0 0x4000 = some 0 ∧
     (m.modDiePart 0 0 (fun d => { d with brcfg := 0 })).freeRun 2 0 0x4000 = none ∧
     m.stageFails 0x80000 0x4000 = false ∧ m.blockHeld 0x80000 0x4000 = false ∧ (hot m).blockHeld 0x80000 0x4000 = true ∧
     ({ m with hbmBad := [0x1000] } : Mach).stageFails 0x80000 0x4000 = true ∧ (blk .queued).queue.length ≠ 1) ∧
    (let m := ({ tm with blocks := [blk .lingering] } : Mach).modSlice 2 (fun x => { x with cycles := 8192 })
     (blk .lingering).lingerFrom + brLinger (m.sliceBrcfg 2 0) ≤ (m.slice 2).cycles ∧ (blk .evicting).dirty = [] ∧
     m.stackHeld 0x80000 = false ∧ (hot m).stackHeld 0x80000 = true ∧ ({ blk .evicting with dirty := [0x1000] } : Block).dirty ≠ []) ∧
    (let m := (tm.modDiePart 0 0 (fun d => { d with brcfg := BitVec.ofNat 64 (2 ^ 52) })).modSlice 2 (fun x => { x with cycles := 65536 })
     brWaitMax (m.sliceBrcfg 2 0) * 65536 ≤ (m.slice 2).cycles - 0 ∧ brWaitMax (m.sliceBrcfg 2 0) ≠ 0) ∧
    (tm.slice 2).wakes = [] ∧ tm.isFenced 0 = false := by decide +kernel
theorem met_PowerEvents :
    (at_ tm).now ≠ 10000 * (State.reset.power.ticked + 1) ∧ tm.matrixBusy 0 = false ∧ State.reset.power.collective = false ∧
    ({ at_ { tm with now := 10000 } with power := {} } : State).now = 10000 * (({} : Power).ticked + 1) ∧
    (let p : Power := { collective := true, announced := [(1, 16, 2400)] }
     p.collective = true ∧ p.leader = false ∧ ({ p with leader := true } : Power).announces.isSome = true ∧
     ({ p with leader := true, members := [1] } : Power).announces.isNone = true ∧ p.lastTick < 1 ∧ 1 ≤ 0 / 10000 + 2 ∧
     10000 * (p.lastTick + 1) ≤ 9900 + 100 ∧ 9899 + 100 < 10000 * (p.lastTick + 1) ∧
     p.announced.find? (fun a => a.1 == p.lastTick + 1) = some (1, 16, 2400) ∧
     ({ p with announced := [] } : Power).announced.find? (fun a => a.1 == p.lastTick + 1) = none) := by decide
theorem met_ManagementEvents :
    (imageRuns none = true → State.reset.m.recovery = false ∧ tm.recovery = false) ∧
    (imageRuns none = false → State.reset.m.recovery = true) ∧
    (State.reset.m.part 0).state = .absent ∧ (tm.part 0).state ≠ .absent ∧ (tm.part 0).state ≠ .resetting ∧
    partArgsBad 8 0 1 = true ∧ partArgsBad 7 0x1000 0xFFFF = false ∧ State.reset.m.partRefused 7 0x1000 1 = false ∧
    tm.partRefused 1 0x1000 1 = true ∧
    (tm.readGroup 0 0x2000).isNone = true ∧ tm.controlHeld 0x2000 (tm.groupBytes 0x2000) = false ∧
    (hot tm).controlHeld 0x2000 ((hot tm).groupBytes 0x2000) = true ∧ (hot tm).controlHeld 0x2000 200 = true ∧ tm.controlHeld 0x2000 200 = false ∧
    (tm.controlLines 0 0x2000 200).1 = true ∧ (({ tm with poisoned := [0x40] } : Mach).controlLines 0 0x2000 200).1 = false ∧
    0x2000 + 200 ≤ hbmEnd ∧
    (let m := (tm.write 0x2000 8 (2 ^ 32 + 5)).write 0x2008 1 1
     (m.controlLines 0 0x2000 (m.groupBytes 0x2000)).1 = true ∧ m.controlHeld 0x2000 (m.groupBytes 0x2000) = false ∧
     ((m.controlLines 0 0x2000 (m.groupBytes 0x2000)).2.readGroup 0 0x2000).map (fun x => x.1) = some 5 ∧ m.folds = [] ∧
     m.foldStores = []) ∧
    (State.reset.m.now = 0 ∧ State.reset.power.ticked = 0 ∧ (0 : Nat) ≠ 10000 * (0 + 1)) ∧
    (tm.slice 2).retired = false ∧ (tm.retiredOf 0).length < 8 ∧ ((tm.modSlice 2 (fun x => { x with retired := true })).slice 2).retired = true ∧
    (0x2000 < hbmEnd ∧ (tm.part 0).state = .running) ∧
    (tm.inPart 0 3 = true ∧ (oneRow tm).inPart 0 64 = false ∧ (tm.core 3).off = false ∧ tm.coreQuiet 3 = true ∧
      (tm.modCore 3 (fun r => { r with deque := [{ h := 0, args := ⟨0, 0, 0⟩ }] })).coreQuiet 3 = false ∧
      ((tm.modCore 3 (fun r => { r with off := true })).core 3).off = true) ∧
    (let m := (State.reset.m.modPart 0 (fun p => { p with state := .switching, rows := 1 }))
     (m.part 0).state = .switching ∧ m.quiescent 0 = true ∧ m.pendingHeld 0 = false ∧ m.drainHeld 0 = false ∧
     m.areaHeld 0 0x2000 = false ∧ (hot m).areaHeld 0 0x2000 = true) ∧ tm.quiescent 1 = true ∧ (tm.part 0).state ≠ .switching := by
  refine ⟨fun h => ⟨not_recovery _ h, not_recovery _ h⟩, fun h => ?_, ?_⟩
  · show (!imageRuns none) = true
    rw [h]
    rfl
  · decide +kernel
theorem met_HostAndMigration :
    (let a : Word := 0x4000
     let m := mapped tm
     (m.controlWrite 0 a [(0, 1)]).1 = true ∧ (m.controlWrite 0 0x40000000 [(0, 1)]).1 = false ∧ a.toNat % 8 = 0 ∧ m.launchHeld 0 a = false ∧ (hot m).launchHeld 0 a = true ∧
     (List.range 33).all (fun k => !m.launchHeld 0 (a + BitVec.ofNat 64 (min (128 * k) 4088))) = true) ∧
    tm.memHeld 0x2000 = false ∧ oneLine 0x2078 8 = true ∧ oneLine 0x207C 8 = false ∧
    State.reset.m.hostMay 0 0x2000 = true ∧ tm.hostMay 0 0x2000 = false ∧
    (let m := (mapped tm).modSlice 2 (fun x => { x with unwritten := [0x40] })
     (m.slice 2).unwritten.contains (0x2000 / 128) = true ∧ m.stackHeld 0x2000 = false ∧ (hot m).stackHeld 0x2000 = true ∧ m.l2Bad.contains (0x2000 / 128) = false ∧
     ({ m with l2Bad := [0x40] } : Mach).l2Bad.contains (0x2000 / 128) = true) ∧
    (tm.core 0).migrations = [] ∧ (tm.core 0).forwards[0]? = none ∧
    (let f : Forward := { dest := 1, extents := [(0x100000, 64)], env0 := 0, envn := 0, chmask := 0, life := 10000, used := 0 }
     let g : Migration := { fwd := f, team := false, token := 1 }
     let m := tm.modCore 0 (fun r => { r with migrations := [g], forwards := [f] })
     m.migrating 0 = some g ∧ m.isFenced 1 = false ∧ tm.migrating 0 = none ∧
     (m.modCore 1 (fun r => { r with fenced := true })).isFenced 1 = true ∧
     (m.core 0).migrations = [g] ∧ g.held = none ∧
     (let d := m.modMigration 0 1 (fun x => { x with held := some [5] })
      (d.core 0).migrations = [{ g with held := some [5] }] ∧ [5].all d.sentDone = true ∧
      [5].all (net [req 0 (.fold 1)] d).sentDone = false) ∧
     (m.core 0).forwards[0]? = some f ∧ m.now < f.used + f.life ∧ f.used + f.life ≤ 10000) := by decide +kernel
theorem met_RingService :
    (let s := at_ ((((mapped tm).write 0x1040 8 0x4000).write 0x1048 8 1).write 0x4000 1 4)
     let m := s.m.advance
     let x := m.part 0
     ({ s with agenda := [.manage 0] } : State).agenda = [.manage 0] ∧ x.state ≠ .switching ∧ x.state ≠ .resetting ∧
     x.record = none ∧ m.ringNext 0 = some (true, 0x4000) ∧
     ((m.ringTake 0 true 0x4000).launchHeld 0 0x4000 = false ∧ (hot m).launchHeld 0 0x4000 = true) ∧
     fineAnd ((m.ringTake 0 true 0x4000).launchRead 0 0x4000 64).1 (fun r => r % 256 == 4) = true ∧
     m.launchHeld 0 0x4000 = false ∧ m.launchHeld 0 0x40000000 = false ∧ fine (m.launchRead 0 0x40000000 64).1 = false ∧
     ((m.ringTake 0 true 0x4000).part 0).record = some (true, 0x4000)) ∧
    (tm.advance.part 0).record = none ∧ tm.advance.ringNext 0 = none ∧
    ((tm.modPart 0 (fun x => { x with state := .resetting, pending := some none })).part 0).pending.isSome = true := by
  decide +kernel
theorem met_StepRunsDecoded :
    let s := State.reset.withFetchWord 32 0x02418C00
    s.agenda = [.cycle 0] ∧ (s.m.advance.cycle 0 (s.power.dutyOf 0)).1 = some { ctx := 0, instr := .add 4 3 3, word := 0x02418C00 } ∧
    outIs (.add 4 3 3) (s.m.advance.before 0 0 0x02418C00 (.add 4 3 3)) (fun m => !m.unissued 0 0) = true ∧
    (let m := ({ s.m.advance with cur := { core := 0, ctx := 0, word := 0x2A580000 } } : Mach).late [] (.token true)
     outIs (.fence 1 3) m (fun m => m.unissued 0 0) = true) ∧
    (s.m.ctx 0 0).live = true ∧ s.m.waitOver 0 0 (s.m.ctx 0 0) = true ∧ s.m.pushing 0 (s.m.ctx 0 0).task = false ∧
    fineAnd (s.m.fetch 0 0 (s.m.ctx 0 0).pc) (fun x => x.1 == some 0x02418C00 && !x.2.outstanding 0 (s.m.ctx 0 0).task) = true ∧
    endsTask (.add 4 3 3) = false ∧ s.m.usesMoved (.dupk 1) = false ∧ s.m.handlesFlying 0 = false ∧ endsTask .endTask = true ∧ tm.storing 0 1 1 = false ∧
    (tm.modCore 0 (fun r => { r with combine := [{ line := 1, va := 0, bytes := [], tasks := [1], ctxs := [1], since := 0 }] })).storing 0 1 1 =
      true := by
  decide +kernel
theorem met_EncodeDecode : (Instr.ext 31 31 63 0).isWord = true ∧ (Instr.ext 31 31 63 0).wf = true := by decide
theorem met_DutyKept : (State.reset.withFetchWord 32 0x02418C00).dutyInRange := fun _ => by
  show 1 ≤ 16 ∧ 16 ≤ 16
  decide
theorem met_CanonicalMemoryKept : Memory.wf State.reset.m.mem = true ∧ Memory.wf tm.mem = true ∧
    outIs (.add 4 3 3) tm (fun m => Memory.wf m.mem) = true := by decide +kernel

end
end

section
/-!
PROOF. RTE, the return from a trap (R249): what the saved status of the trap frame makes of it, and O41.
-/
namespace Sys2Proof.Machine

/-! ### The privilege of RTE -/

theorem exec_rte (s : State) : exec .rte s =
    .next (s.on (s.m.settle (do s.m.needRuntime; s.m.returnFromTrap))) := rfl

theorem exec_rte_task {s : State} (h : s.m.me.rt = false) :
    exec .rte s = .next (s.on (s.m.trapMe { cause := .privileged, bad := s.m.wordBad })) := by
  have denied : s.m.needRuntime = .error { cause := .privileged, bad := s.m.wordBad } := by simp [Mach.needRuntime, h]
  rw [exec_rte, denied]
  rfl

theorem exec_rte_runtime {s : State} (h : s.m.me.rt = true) :
    exec .rte s = .next (s.on (s.m.settle s.m.returnFromTrap)) := by
  have allowed : s.m.needRuntime = .ok () := by simp [Mach.needRuntime, h]
  rw [exec_rte, allowed]
  rfl

/-! ### The saved status -/

/-- The word of the trap frame that keeps the status at trap entry (R248). -/
def Mach.statusKey (m : Mach) : Nat := scratchKey m.cur.core (m.me.wp + 1808)

/-- The context that RTE leaves under the saved status `st` (R249). -/
def Ctx.returned (x : Ctx) (st : Word) : Ctx :=
  { x.issued with trapped := false, rt := st.getLsbD 0, pc := x.trappc,
                  window := if field st 1 7 = 0 then x.windowAfter else field st 1 7 }

/-- The device after RTE has returned. -/
def Mach.returned (m : Mach) : Mach := m.modMe (fun x => x.returned (m.word m.statusKey))

@[simp] theorem Mach.me_returned (m : Mach) : m.returned.me = m.me.returned (m.word m.statusKey) := m.me_modMe _

/-- The frame of RTE: nothing but the contexts differs. -/
theorem Mach.returned_frame (m : Mach) : m.returned = { m with ctxs := m.returned.ctxs } := rfl

/-- Of the contexts, only the issuing one differs. -/
theorem Mach.ctx_returned_ne (m : Mach) {c x : Nat} (h : 16 * c + x ≠ 16 * m.cur.core + m.cur.ctx) :
    m.returned.ctx c x = m.ctx c x := m.ctx_setCtx_ne _ h

@[simp] theorem Ctx.returned_pc (x : Ctx) (st : Word) : (x.returned st).pc = x.trappc := rfl
@[simp] theorem Ctx.returned_rt (x : Ctx) (st : Word) : (x.returned st).rt = st.getLsbD 0 := rfl
@[simp] theorem Ctx.returned_trappc (x : Ctx) (st : Word) : (x.returned st).trappc = x.trappc := rfl
@[simp] theorem Ctx.returned_cause (x : Ctx) (st : Word) : (x.returned st).cause = x.cause := rfl

theorem Ctx.returned_window (x : Ctx) {st : Word} (h : 0 < field st 1 7) : (x.returned st).window = field st 1 7 :=
  if_neg (Nat.ne_of_gt h)

/-- What RTE does, by the check symbols of the saved status and then by its range. -/
theorem Mach.returnFromTrap_eq (m : Mach) : m.returnFromTrap =
    if m.scratchBad.contains m.statusKey then .error { cause := .scratchUncorrectable, bad := lwOf m.statusKey }
    else if 64 < field (m.word m.statusKey) 1 7 || field (m.word m.statusKey) 9 55 ≠ 0 then .error { cause := .reservedField }
    else .ok m.returned := rfl

theorem Mach.returnFromTrap_uncorrectable {m : Mach} (h : m.statusKey ∈ m.scratchBad) :
    m.returnFromTrap = .error { cause := .scratchUncorrectable, bad := lwOf m.statusKey } := by
  simp [m.returnFromTrap_eq, h]

theorem Mach.returnFromTrap_reserved {m : Mach} (h : m.statusKey ∉ m.scratchBad)
    (hst : 64 < field (m.word m.statusKey) 1 7 ∨ field (m.word m.statusKey) 9 55 ≠ 0) :
    m.returnFromTrap = .error { cause := .reservedField } := by
  simp [m.returnFromTrap_eq, h, hst]

theorem Mach.returnFromTrap_ok {m : Mach} (h : m.statusKey ∉ m.scratchBad) (count : field (m.word m.statusKey) 1 7 ≤ 64)
    (rest : field (m.word m.statusKey) 9 55 = 0) : m.returnFromTrap = .ok m.returned := by
  simp [m.returnFromTrap_eq, h, count, rest]

end Sys2Proof.Machine

open Sys2Proof Sys2Proof.Machine

/-- Settles O41: by the privilege, then by whether the saved status is correct, then by its range. -/
theorem trapReturn : Obligations.TrapReturn := by
  unfold Obligations.TrapReturn
  refine ⟨rfl, fun s => ⟨fun task => ?_, fun runtime => ⟨fun bad => ?_, fun good range => ?_, fun good count rest => ?_⟩⟩⟩
  · rw [exec_rte_task task, Mach.trapMe_entry _ rfl]
    rfl
  · rw [exec_rte_runtime runtime, Mach.returnFromTrap_uncorrectable bad]
    rfl
  · rw [exec_rte_runtime runtime, Mach.returnFromTrap_reserved good range]
    rfl
  · have returns : exec .rte s = .next (s.on s.m.returned) := by
      rw [exec_rte_runtime runtime, Mach.returnFromTrap_ok good count rest]
      rfl
    refine ⟨s.on s.m.returned, returns, rfl, ?pc, ?privilege, fun opens => ?window, ?trappc, ?cause, rfl,
      s.m.returned_frame, fun c x other => s.m.ctx_returned_ne other⟩
    case window => exact (congrArg Ctx.window s.m.me_returned).trans (s.m.me.returned_window opens)
    all_goals simp [State.on, Mach.statusKey]

end

section
/-!
PROOF. The scalar integer instructions: pipeline results and bit fields (R308 to R312), conditional branches (R346 to
R353), and O1, O3 and O7.
-/
namespace Sys2Proof.Machine

/-! ### Instructions whose operands may be read -/

theorem State.onMach_eq (s : State) {f : Mach → Mach} {t : Mach} (h : f s.m = t) : s.onMach f = .next (s.on t) := by
  rw [State.onMach, h]
  rfl

/-- A pipeline instruction on two registers (R20). -/
theorem State.onMach_alu2 (s : State) {a b : BitVec 5} (d : BitVec 5) (f : Word → Word → Word) (ha : s.m.canReadW a)
    (hb : s.m.canReadW b) :
    s.onMach (fun m => m.alu2 d a b f) = .next (s.on (s.m.writeW d (f (s.m.w a) (s.m.w b))).done) :=
  s.onMach_eq (s.m.alu2_ok f ha hb)

/-- A pipeline instruction on one register (R20). -/
theorem State.onMach_alu1 (s : State) {a : BitVec 5} (d : BitVec 5) (f : Word → Word) (ha : s.m.canReadW a) :
    s.onMach (fun m => m.alu1 d a f) = .next (s.on (s.m.writeW d (f (s.m.w a))).done) :=
  s.onMach_eq (s.m.alu1_ok f ha)

/-- The outcome of a conditional branch that is taken when `taken` holds (R346). -/
def State.branched (s : State) (f : BitVec 15) (taken : Prop) [Decidable taken] : Host.Outcome State Fault Refusal :=
  .next (s.on (s.m.doneAt (if taken then s.m.me.pc + BitVec.ofInt 64 (4 * f.toInt) else s.m.me.pc + 4)))

theorem State.onMach_branch (s : State) {a b : BitVec 5} (f : BitVec 15) (cond : Word → Word → Bool)
    (ha : s.m.canReadW a) (hb : s.m.canReadW b) {taken : Prop} [Decidable taken]
    (h : cond (s.m.w a) (s.m.w b) = true ↔ taken) : s.onMach (fun m => m.branch a b f cond) = s.branched f taken :=
  s.onMach_eq (s.m.branch_ok a b f cond ha hb taken h)

theorem State.onMach_branchMask (s : State) {k : BitVec 3} (f : BitVec 15) (cond : BitVec 16 → Bool)
    (hk : s.m.canReadM k) {taken : Prop} [Decidable taken] (h : cond (s.m.mask k) = true ↔ taken) :
    s.onMach (fun m => m.branchMask k f cond) = s.branched f taken :=
  s.onMach_eq (s.m.branchMask_ok k f cond hk taken h)

/-! ### Bit fields -/

/-- The counting of zeros looks at every bit of the word, and past bit 63 there is none. -/
theorem getLsbD_of_leadingZeros (x : Word) {i : Nat} (h : 64 - leadingZeros x 64 ≤ i) : x.getLsbD i = false := by
  rcases Nat.lt_or_ge i 64 with inside | past
  · exact leadingZeros_zero x 64 i h inside
  · exact BitVec.getLsbD_of_ge x i past

/-- The guard of the bit-field instructions lets a field within the word pass (R311). -/
theorem State.onMach_fieldFits (s : State) {p l : BitVec 6} (go : Mach → Mach) (fits : p.toNat + l.toNat + 1 ≤ 64) :
    s.onMach (fun m => if 64 < p.toNat + l.toNat + 1 then m.trapMe { cause := .reservedField, bad := m.wordBad } else go m) =
      s.onMach go :=
  s.onMach_eq (if_neg (Nat.not_lt.mpr fits))

theorem exec_ext (s : State) {d a : BitVec 5} {p l : BitVec 6} (ha : s.m.canReadW a)
    (fits : p.toNat + l.toNat + 1 ≤ 64) :
    exec (.ext d a p l) s = .next (s.on (s.m.writeW d (extract (s.m.w a) p.toNat (l.toNat + 1))).done) :=
  (s.onMach_fieldFits (fun m => m.alu1 d a (fun x => extract x p.toNat (l.toNat + 1))) fits).trans
    (s.onMach_alu1 d _ ha)

theorem exec_extI64 (s : State) {d a : BitVec 5} {p l : BitVec 6} (ha : s.m.canReadW a)
    (fits : p.toNat + l.toNat + 1 ≤ 64) :
    exec (.extI64 d a p l) s = .next (s.on (s.m.writeW d (extractS (s.m.w a) p.toNat (l.toNat + 1))).done) :=
  (s.onMach_fieldFits (fun m => m.alu1 d a (fun x => extractS x p.toNat (l.toNat + 1))) fits).trans
    (s.onMach_alu1 d _ ha)

theorem exec_ins (s : State) {d a : BitVec 5} {p l : BitVec 6} (ha : s.m.canReadW a) (hd : s.m.canReadW d)
    (fits : p.toNat + l.toNat + 1 ≤ 64) :
    exec (.ins d a p l) s = .next (s.on (s.m.writeW d (Machine.insert (s.m.w a) (s.m.w d) p.toNat (l.toNat + 1))).done) :=
  (s.onMach_fieldFits (fun m => m.alu2 d a d (fun x y => Machine.insert x y p.toNat (l.toNat + 1))) fits).trans
    (s.onMach_alu2 d _ ha hd)

/-- The bits of a word with one 16-bit chunk replaced (R386). -/
theorem getLsbD_putChunk (y : Word) (q : BitVec 2) (imm : BitVec 16) (i : Nat) :
    (putChunk y q imm).getLsbD i = if i / 16 = q.toNat then imm.getLsbD (i % 16) else y.getLsbD i := by
  have fits : 16 * q.toNat + 15 + 1 ≤ 64 := by omega
  have chunk : (16 * q.toNat ≤ i ∧ i ≤ 16 * q.toNat + 15) ↔ i / 16 = q.toNat := by omega
  rw [putChunk, insert_bits _ y _ 15 i fits]
  simp only [chunk]
  split
  case isTrue inside =>
    have place : i - 16 * q.toNat = i % 16 := by omega
    have low : i % 16 < 64 := by omega
    rw [place, BitVec.getLsbD_setWidth, decide_eq_true low, Bool.true_and]
  case isFalse outside => rfl

/-! ### Conditions on masks -/

theorem mask_all_iff (x : BitVec 16) : (x == 0xFFFF) = true ↔ ∀ i : Fin 16, x.getLsbD i = true := by
  have ones : (0xFFFF : BitVec 16) = BitVec.allOnes 16 := rfl
  rw [beq_iff_eq, ones, BitVec.eq_of_getLsbD_eq_iff, Fin.forall_iff]
  exact forall₂_congr fun i hi => by rw [BitVec.getLsbD_allOnes, decide_eq_true hi]

theorem mask_none_iff (x : BitVec 16) : (x == 0) = true ↔ ∀ i : Fin 16, x.getLsbD i = false := by
  rw [beq_iff_eq, BitVec.eq_of_getLsbD_eq_iff, Fin.forall_iff]
  exact forall₂_congr fun i _ => Eq.congr_right BitVec.getLsbD_zero

end Sys2Proof.Machine

open Sys2Proof Sys2Proof.Machine

/-- Settles O1: each of the four is the pipeline operation of two registers. -/
theorem addAndOrSub : Obligations.AddAndOrSub := by
  unfold Obligations.AddAndOrSub
  intro s d a b ha hb
  refine ⟨s.onMach_alu2 d _ ha hb, s.onMach_alu2 d _ ha hb, s.onMach_alu2 d _ ha hb, s.onMach_alu2 d _ ha hb, ?words⟩
  case words => decide

/-- Settles O3: each result by the operation it is, and then by the bits of that operation. -/
theorem bitFieldResults : Obligations.BitFieldResults := by
  unfold Obligations.BitFieldResults
  intro s d a ha
  refine ⟨by decide, by decide, ?clz, ?popc, fun p l fits => ⟨?ext, ?extI64, fun hd => ?ins⟩,
    fun q imm => ⟨fun hd => ?lic, ?licZ⟩⟩
  case clz =>
    exact ⟨leadingZeros (s.m.w a) 64, leadingZeros_le _ _, fun i => getLsbD_of_leadingZeros _,
      leadingZeros_one _ 64, s.onMach_alu1 d _ ha⟩
  case popc =>
    have count : bitCount 64 (s.m.w a).toNat = (List.range 64).countP (fun i => (s.m.w a).getLsbD i) := bitCount_eq 64 _
    rw [← count]
    exact s.onMach_alu1 d _ ha
  case ext => exact ⟨_, exec_ext s ha fits, fun i => extract_bits _ _ _ i fits⟩
  case extI64 => exact ⟨_, exec_extI64 s ha fits, fun i hi => extractS_bits _ _ _ i fits hi⟩
  case ins => exact ⟨_, exec_ins s ha hd fits, fun i => insert_bits _ _ _ _ i fits⟩
  case lic => exact ⟨putChunk (s.m.w d) q imm, s.onMach_alu1 d _ hd, getLsbD_putChunk _ q imm⟩
  case licZ =>
    refine ⟨putChunk 0 q imm, rfl, fun i => ?_⟩
    rw [getLsbD_putChunk]
    by_cases inside : i / 16 = q.toNat <;> simp [inside]

/-- Settles O7: each condition as the order, or the bits, that it compares. -/
theorem conditionalBranches : Obligations.ConditionalBranches := by
  unfold Obligations.ConditionalBranches
  intro s a b k f
  refine ⟨fun ha hb => ⟨?beq, ?bne, ?blt, ?bge, ?blo, ?bhs⟩, fun hk => ⟨?bma, ?bmn⟩, rfl, ?words⟩
  case beq => exact s.onMach_branch f _ ha hb beq_iff_eq
  case bne => exact s.onMach_branch f _ ha hb bne_iff_ne
  case blt => exact s.onMach_branch f _ ha hb BitVec.slt_iff_toInt_lt
  case bge => exact s.onMach_branch f _ ha hb (by simp [BitVec.slt])
  case blo => exact s.onMach_branch f _ ha hb BitVec.ult_iff_toNat_lt
  case bhs => exact s.onMach_branch f _ ha hb (by simp [BitVec.ult])
  case bma => exact s.onMach_branchMask f _ hk (mask_all_iff _)
  case bmn => exact s.onMach_branchMask f _ hk (mask_none_iff _)
  case words => decide

end

section
/-!
PROOF. The other pipeline results (R389, R396, R410, R412, R413), division (R364, R404), the mask instructions (R387), and
O2, O4 and O17.
-/
namespace Sys2Proof.Machine

/-! ### Operands read in turn, and the hazard of an empty one (R22) -/

/-- The state after HAZARD_READ of the issuing instruction: its context is Trapped at the instruction. -/
def State.hazard (s : State) : State :=
  s.on (s.m.lastHere.enterTrap s.m.cur.core s.m.cur.ctx { cause := .hazardRead, bad := s.m.wordBad } s.m.me.pc)

theorem State.onMach_readW (s : State) {a : BitVec 5} (rest : Mach → Word → Res Mach) (ha : s.m.canReadW a) :
    s.onMach (fun m => m.settle (m.readW a >>= rest m)) = s.onMach (fun m => m.settle (rest m (m.w a))) :=
  s.onMach_eq (congrArg s.m.settle (congrArg (· >>= rest s.m) (s.m.readW_ok ha)))

theorem State.onMach_readM (s : State) {a : BitVec 3} (rest : Mach → BitVec 16 → Res Mach) (ha : s.m.canReadM a) :
    s.onMach (fun m => m.settle (m.readM a >>= rest m)) = s.onMach (fun m => m.settle (rest m (m.mask a))) :=
  s.onMach_eq (congrArg s.m.settle (congrArg (· >>= rest s.m) (s.m.readM_ok ha)))

theorem Mach.readM_empty (m : Mach) {n : BitVec 3} (h0 : n ≠ 0) (h : m.full (wordOf (m.mKey n)) = false) :
    m.readM n = .error { cause := .hazardRead, bad := m.wordBad } := by
  rw [Mach.readM, if_neg h0, Mach.needWord, h]
  rfl

/-- A read that finds its word empty ends the instruction with the trap, whatever would have followed. -/
theorem State.onMach_hazard (s : State) {α : Type} (read : Mach → Res α) (rest : Mach → α → Res Mach)
    (h : read s.m = .error { cause := .hazardRead, bad := s.m.wordBad }) :
    s.onMach (fun m => m.settle (read m >>= rest m)) = .next s.hazard := by
  refine s.onMach_eq ?_
  rw [h]
  exact s.m.trapMe_entry rfl

theorem State.onMach_readW_empty (s : State) {a : BitVec 5} (rest : Mach → Word → Res Mach) (h0 : a ≠ 0)
    (h : s.m.full (s.m.wKey a) = false) : s.onMach (fun m => m.settle (m.readW a >>= rest m)) = .next s.hazard :=
  s.onMach_hazard (fun m => m.readW a) rest (s.m.readW_empty h0 h)

theorem State.onMach_readM_empty (s : State) {a : BitVec 3} (rest : Mach → BitVec 16 → Res Mach) (h0 : a ≠ 0)
    (h : s.m.full (wordOf (s.m.mKey a)) = false) :
    s.onMach (fun m => m.settle (m.readM a >>= rest m)) = .next s.hazard :=
  s.onMach_hazard (fun m => m.readM a) rest (s.m.readM_empty h0 h)

/-! ### SEL (R410) -/

theorem exec_sel_eq (s : State) (d a b c : BitVec 5) :
    exec (.sel d a b c) s = s.onMach (fun m => m.settle (m.readW c >>= fun z => m.readW a >>= fun x =>
      m.readW b >>= fun y => .ok (m.writeW d (if z = 0 then y else x)).done)) := rfl

theorem exec_sel_empty (s : State) {c : BitVec 5} (d a b : BitVec 5) (h0 : c ≠ 0) (h : s.m.full (s.m.wKey c) = false) :
    exec (.sel d a b c) s = .next s.hazard :=
  (exec_sel_eq s d a b c).trans (s.onMach_readW_empty _ h0 h)

/-- SEL once its condition has been read. -/
theorem exec_sel_cond (s : State) {c : BitVec 5} (d a b : BitVec 5) (hc : s.m.canReadW c) :
    exec (.sel d a b c) s = s.onMach (fun m => m.settle (m.readW a >>= fun x => m.readW b >>= fun y =>
      .ok (m.writeW d (if m.w c = 0 then y else x)).done)) :=
  (exec_sel_eq s d a b c).trans (s.onMach_readW _ hc)

/-- SEL once its condition and its first choice have been read. -/
theorem exec_sel_first (s : State) {a c : BitVec 5} (d b : BitVec 5) (hc : s.m.canReadW c) (ha : s.m.canReadW a) :
    exec (.sel d a b c) s = s.onMach (fun m => m.settle (m.readW b >>= fun y =>
      .ok (m.writeW d (if m.w c = 0 then y else m.w a)).done)) :=
  (exec_sel_cond s d a b hc).trans (s.onMach_readW _ ha)

theorem exec_sel (s : State) {a b c : BitVec 5} (d : BitVec 5) (hc : s.m.canReadW c) (ha : s.m.canReadW a)
    (hb : s.m.canReadW b) :
    exec (.sel d a b c) s = .next (s.on (s.m.writeW d (if s.m.w c = 0 then s.m.w b else s.m.w a)).done) :=
  (exec_sel_first s d b hc ha).trans (s.onMach_readW _ hb)

/-! ### The results in numbers -/

/-- A pipeline instruction on two registers, with its result in other words. -/
theorem State.onMach_alu2_of (s : State) {d a b : BitVec 5} {f : Word → Word → Word} {v : Word} (ha : s.m.canReadW a)
    (hb : s.m.canReadW b) (h : f (s.m.w a) (s.m.w b) = v) :
    s.onMach (fun m => m.alu2 d a b f) = .next (s.on (s.m.writeW d v).done) :=
  h ▸ s.onMach_alu2 d f ha hb

/-- A pipeline instruction on one register, with its result in other words. -/
theorem State.onMach_alu1_of (s : State) {d a : BitVec 5} {f : Word → Word} {v : Word} (ha : s.m.canReadW a)
    (h : f (s.m.w a) = v) : s.onMach (fun m => m.alu1 d a f) = .next (s.on (s.m.writeW d v).done) :=
  h ▸ s.onMach_alu1 d f ha

theorem field_low_six (y : Word) : field y 0 6 = y.toNat % 64 := by
  rw [field, Nat.pow_zero, Nat.div_one]
  rfl

theorem ite_slt (x y u v : Word) : (if x.slt y then u else v) = if x.toInt < y.toInt then u else v :=
  ite_congr (propext BitVec.slt_iff_toInt_lt) (fun _ => rfl) (fun _ => rfl)

theorem ite_ult (x y u v : Word) : (if x.ult y then u else v) = if x.toNat < y.toNat then u else v :=
  ite_congr (propext BitVec.ult_iff_toNat_lt) (fun _ => rfl) (fun _ => rfl)

theorem mul_eq_ofNat (x y : Word) : x * y = BitVec.ofNat 64 (x.toNat * y.toNat) :=
  BitVec.eq_of_toNat_eq (by rw [BitVec.toNat_mul, BitVec.toNat_ofNat])

theorem slt_signExtend (x : Word) (imm : BitVec 15) :
    ofBool (x.slt (signExtend 15 imm)) = if x.toInt < imm.toInt then 1 else 0 := by
  rw [ofBool, ite_slt, sx15int]

/-- The signed quotient, with −2^63 by −1 wrapping to −2^63 (R364). -/
theorem sdiv_eq_ofInt (x y : Word) : x.sdiv y = BitVec.ofInt 64 (x.toInt.tdiv y.toInt) :=
  BitVec.eq_of_toInt_eq (by rw [BitVec.toInt_sdiv, BitVec.toInt_ofInt])

/-- The signed remainder goes with the quotient that is truncated toward zero (R404). -/
theorem srem_eq_ofInt (x y : Word) : x.srem y = BitVec.ofInt 64 (x.toInt - x.toInt.tdiv y.toInt * y.toInt) := by
  have remainder : x.toInt - x.toInt.tdiv y.toInt * y.toInt = (x.srem y).toInt := by
    rw [BitVec.toInt_srem, Int.tmod_def, Int.mul_comm]
  rw [remainder, BitVec.ofInt_toInt]

theorem toNat_umod_eq_sub (x y : Word) : (x % y).toNat = x.toNat - x.toNat / y.toNat * y.toNat := by
  rw [BitVec.toNat_umod, Nat.mod_def, Nat.mul_comm]

/-! ### Division (R364, R404) -/

theorem State.onMach_divide (s : State) {d a b : BitVec 5} {f : Word → Word → Word} {v : Nat} (ha : s.m.canReadW a)
    (hb : s.m.canReadW b) (nonzero : s.m.w b ≠ 0) (h : (f (s.m.w a) (s.m.w b)).toNat = v) :
    s.onMach (fun m => m.divide d a b f) = .next (s.on (s.m.late (s.m.lateW d) (.value v 0)).done) :=
  h ▸ s.onMach_eq (s.m.divide_ok f ha hb nonzero)

theorem State.onMach_divide_zero (s : State) {a b : BitVec 5} (d : BitVec 5) (f : Word → Word → Word)
    (ha : s.m.canReadW a) (hb : s.m.canReadW b) (zero : s.m.w b = 0) :
    s.onMach (fun m => m.divide d a b f) = .next (s.on (s.m.trapMe { cause := .divideByZero })) :=
  s.onMach_eq (s.m.divide_zero f ha hb zero)

/-! ### Mask instructions: their reads (R387) -/

theorem exec_mnot_eq (s : State) (d a : BitVec 3) :
    exec (.mnot d a) s = s.onMach (fun m => m.settle (m.readM a >>= fun x => .ok (m.writeM d (~~~x)).done)) := rfl

theorem exec_mcnt_eq (s : State) (w : BitVec 5) (a : BitVec 3) :
    exec (.mcnt w a) s = s.onMach (fun m => m.settle (m.readM a >>= fun x =>
      .ok (m.writeW w (BitVec.ofNat 64 (bitCount 16 x.toNat))).done)) := rfl

theorem exec_mmovw_eq (s : State) (d : BitVec 3) (w : BitVec 5) :
    exec (.mmovw d w) s = s.onMach (fun m => m.settle (m.readW w >>= fun x =>
      .ok (m.writeM d (x.setWidth 16)).done)) := rfl

theorem exec_mmovwW_eq (s : State) (w : BitVec 5) (a : BitVec 3) :
    exec (.mmovwW w a) s = s.onMach (fun m => m.settle (m.readM a >>= fun x =>
      .ok (m.writeW w (x.setWidth 64)).done)) := rfl

theorem exec_mnot (s : State) {a : BitVec 3} (d : BitVec 3) (ha : s.m.canReadM a) :
    exec (.mnot d a) s = .next (s.on (s.m.writeM d (~~~s.m.mask a)).done) :=
  (exec_mnot_eq s d a).trans (s.onMach_readM _ ha)

theorem exec_mcnt (s : State) {a : BitVec 3} (w : BitVec 5) (ha : s.m.canReadM a) :
    exec (.mcnt w a) s = .next (s.on (s.m.writeW w
      (BitVec.ofNat 64 ((List.range 16).countP (fun i => (s.m.mask a).getLsbD i)))).done) := by
  have count : bitCount 16 (s.m.mask a).toNat = (List.range 16).countP (fun i => (s.m.mask a).getLsbD i) :=
    bitCount_eq 16 _
  rw [← count]
  exact (exec_mcnt_eq s w a).trans (s.onMach_readM _ ha)

theorem exec_mmovw (s : State) {w : BitVec 5} (d : BitVec 3) (hw : s.m.canReadW w) :
    exec (.mmovw d w) s = .next (s.on (s.m.writeM d ((s.m.w w).setWidth 16)).done) :=
  (exec_mmovw_eq s d w).trans (s.onMach_readW _ hw)

theorem exec_mmovwW (s : State) {a : BitVec 3} (w : BitVec 5) (ha : s.m.canReadM a) :
    exec (.mmovwW w a) s = .next (s.on (s.m.writeW w ((s.m.mask a).setWidth 64)).done) :=
  (exec_mmovwW_eq s w a).trans (s.onMach_readM _ ha)

theorem State.onMach_mask2 (s : State) {a b : BitVec 3} (d : BitVec 3) (f : BitVec 16 → BitVec 16 → BitVec 16)
    (ha : s.m.canReadM a) (hb : s.m.canReadM b) :
    s.onMach (fun m => m.mask2 d a b f) = .next (s.on (s.m.writeM d (f (s.m.mask a) (s.m.mask b))).done) :=
  (s.onMach_readM _ ha).trans (s.onMach_readM (fun m y => .ok (m.writeM d (f (m.mask a) y)).done) hb)

theorem State.onMach_mask2_empty_left (s : State) {a : BitVec 3} (d b : BitVec 3) (f : BitVec 16 → BitVec 16 → BitVec 16)
    (h0 : a ≠ 0) (h : s.m.full (wordOf (s.m.mKey a)) = false) :
    s.onMach (fun m => m.mask2 d a b f) = .next s.hazard :=
  s.onMach_readM_empty _ h0 h

theorem State.onMach_mask2_empty_right (s : State) {a b : BitVec 3} (d : BitVec 3) (f : BitVec 16 → BitVec 16 → BitVec 16)
    (ha : s.m.canReadM a) (h0 : b ≠ 0) (h : s.m.full (wordOf (s.m.mKey b)) = false) :
    s.onMach (fun m => m.mask2 d a b f) = .next s.hazard :=
  (s.onMach_readM _ ha).trans
    (s.onMach_readM_empty (fun m y => .ok (m.writeM d (f (m.mask a) y)).done) h0 h)

/-- The instructions with a mask destination write that mask, and then complete in sequence. -/
theorem exec_mask_dest (s : State) {a b : BitVec 3} {w : BitVec 5} (d : BitVec 3) (ha : s.m.canReadM a)
    (hb : s.m.canReadM b) (hw : s.m.canReadW w) :
    ∀ i ∈ [Instr.mand d a b, .mor d a b, .mxor d a b, .mnot d a, .mmovw d w],
      ∃ v, exec i s = .next (s.on (s.m.writeM d v).done) := by
  rw [List.forall_mem_cons, List.forall_mem_cons, List.forall_mem_cons, List.forall_mem_cons, List.forall_mem_singleton]
  exact ⟨⟨_, s.onMach_mask2 d _ ha hb⟩, ⟨_, s.onMach_mask2 d _ ha hb⟩, ⟨_, s.onMach_mask2 d _ ha hb⟩,
    ⟨_, exec_mnot s d ha⟩, ⟨_, exec_mmovw s d hw⟩⟩

/-! ### What a write of a mask leaves as it was (R18, R387) -/

theorem Mach.writeM_zero (m : Mach) (v : BitVec 16) : m.writeM 0 v = m := rfl

theorem Mach.writeM_of_ne (m : Mach) {d : BitVec 3} (v : BitVec 16) (h0 : d ≠ 0) :
    m.writeM d v = m.putReg (m.mKey d) 2 v.toNat := if_neg h0

/-- Completion moves no workspace. -/
theorem Mach.mKey_done (m : Mach) (n : BitVec 3) : m.done.mKey n = m.mKey n := by
  rw [Mach.mKey, Mach.mKey, Mach.regKey, Mach.regKey, Mach.done, Mach.doneAt, Mach.me_modMe]
  rfl

theorem Mach.mask_done (m : Mach) (n : BitVec 3) : m.done.mask n = m.mask n := by
  rw [Mach.mask, Mach.mask, Mach.mKey_done]
  rfl

/-- The bytes of two masks lie apart. -/
theorem Mach.mKey_apart (m : Mach) {n d : BitVec 3} (h : n ≠ d) : m.mKey n + 2 ≤ m.mKey d ∨ m.mKey d + 2 ≤ m.mKey n := by
  have numbers : n.toNat ≠ d.toNat := fun e => h (BitVec.eq_of_toNat_eq e)
  simp only [Mach.mKey, Mach.regKey, scratchKey]
  omega

theorem Mach.mask_writeM_ne (m : Mach) {n d : BitVec 3} (v : BitVec 16) (h : n ≠ d) : (m.writeM d v).mask n = m.mask n := by
  by_cases h0 : d = 0
  · rw [h0, Mach.writeM_zero]
  · rw [Mach.writeM_of_ne m v h0]
    exact congrArg (fun x => if n = 0 then 0xFFFF else BitVec.ofNat 16 x)
      (m.read_putReg_out _ _ _ _ _ (m.mKey_apart h))

/-- All that a completed register write of less than a word changes. -/
theorem Mach.differs_putReg (m : Mach) (k n v : Nat) (positive : 0 < n) (below : n < 8) :
    m.Differs (m.putReg k n v).done (fun p => k ≤ p ∧ p < k + n) m.inSequence where
  rest := rfl
  bytes p outside := m.mem_putReg_out k n v p (by omega)
  fulls w _ other := by
    have elsewhere : wordOf k ≠ w := other k (by omega)
    show (m.fill (wordOf k)).full w = m.full w
    rw [Mach.full_fill, beq_false_of_ne elsewhere.symm, Bool.false_or]
  bads w _ _ := by
    show (if 8 ≤ n then eraseNat m.scratchBad (wordOf k) else m.scratchBad).contains w = _
    rw [if_neg (Nat.not_le.mpr below)]
  ctxs _ _ other := Mach.ctx_setCtx_ne _ _ other
  me := Mach.ctx_setCtx_self _ _ _ _

/-- All that a completed write of a mask changes. -/
theorem Mach.differs_writeM (m : Mach) (d : BitVec 3) (v : BitVec 16) :
    m.Differs (m.writeM d v).done (fun p => d ≠ 0 ∧ m.mKey d ≤ p ∧ p < m.mKey d + 2) m.inSequence := by
  by_cases h0 : d = 0
  · simp only [h0, ne_eq, not_true_eq_false, false_and]
    exact m.differs_doneAt (m.me.pc + 4)
  · simp only [h0, ne_eq, not_false_eq_true, true_and]
    rw [Mach.writeM_of_ne m v h0]
    exact m.differs_putReg (m.mKey d) 2 v.toNat (by decide) (by decide)

end Sys2Proof.Machine

open Sys2Proof Sys2Proof.Machine

/-- Settles O17: each result through the reads of its operands, the frame of a mask write, and the hazard of the first
operand found empty. -/
theorem maskInstructions : Obligations.MaskInstructions := by
  unfold Obligations.MaskInstructions
  refine ⟨fun s d a b w ha hb hw => ?results, fun s d a b w l ha hb hw hl i hi => ?frame,
    fun s d a b w => ⟨fun h0 h => ?emptyMask, fun h0 h => ?emptyWord⟩, by decide⟩
  case results =>
    exact ⟨s.onMach_mask2 d _ ha hb, s.onMach_mask2 d _ ha hb, s.onMach_mask2 d _ ha hb, exec_mnot s d ha,
      exec_mmovw s d hw, exec_mcnt s w ha, exec_mmovwW s w ha, s.m.writeM_zero _, rfl⟩
  case frame =>
    obtain ⟨v, runs⟩ := exec_mask_dest s d ha hb hw i (hl ▸ hi)
    exact ⟨_, runs, rfl, fun n other => (Mach.mask_done _ n).trans (s.m.mask_writeM_ne v other), s.m.differs_writeM d v⟩
  case emptyMask =>
    exact ⟨s.onMach_mask2_empty_left d b _ h0 h, s.onMach_mask2_empty_left d b _ h0 h,
      s.onMach_mask2_empty_left d b _ h0 h, (exec_mnot_eq s d a).trans (s.onMach_readM_empty _ h0 h),
      (exec_mcnt_eq s w a).trans (s.onMach_readM_empty _ h0 h),
      (exec_mmovwW_eq s w a).trans (s.onMach_readM_empty _ h0 h),
      fun hb => ⟨s.onMach_mask2_empty_right d _ hb h0 h, s.onMach_mask2_empty_right d _ hb h0 h,
        s.onMach_mask2_empty_right d _ hb h0 h⟩⟩
  case emptyWord => exact (exec_mmovw_eq s d w).trans (s.onMach_readW_empty _ h0 h)

/-- Settles O2: each result as the number that its operation gives, and SEL by the first of its operands found empty. -/
theorem pipelineResults : Obligations.PipelineResults := by
  unfold Obligations.PipelineResults
  refine ⟨fun s d a b c ha hb => ⟨?xor, ?shl, ?shr, ?sha, ?slt, ?sltN64, ?min, ?minN64, ?max, ?maxN64, ?mul, ?mulh,
      ?mulhN64, fun hc => ?sel⟩, fun s d a b c => ⟨?selEmpty, by decide⟩,
    fun s d a imm n ha => ⟨?addi, ?andi, ?ori, ?xori, ?slti, ?shlImm, ?shrImm, ?shaImm⟩⟩
  case xor | mulh | mulhN64 => exact s.onMach_alu2 d _ ha hb
  case shl => exact s.onMach_alu2_of ha hb (congrArg (s.m.w a <<< ·) (field_low_six _))
  case shr => exact s.onMach_alu2_of ha hb (congrArg (s.m.w a >>> ·) (field_low_six _))
  case sha => exact s.onMach_alu2_of ha hb (congrArg (s.m.w a).sshiftRight (field_low_six _))
  case slt | min | max => exact s.onMach_alu2_of ha hb (ite_slt _ _ _ _)
  case sltN64 | minN64 | maxN64 => exact s.onMach_alu2_of ha hb (ite_ult _ _ _ _)
  case mul => exact s.onMach_alu2_of ha hb (mul_eq_ofNat _ _)
  case sel =>
    rw [ite_not]
    exact exec_sel s d hc ha hb
  case selEmpty =>
    rintro (⟨h0, h⟩ | ⟨hc, h0, h⟩ | ⟨hc, ha, h0, h⟩)
    · exact exec_sel_empty s d a b h0 h
    · exact (exec_sel_cond s d a b hc).trans (s.onMach_readW_empty _ h0 h)
    · exact (exec_sel_first s d b hc ha).trans (s.onMach_readW_empty _ h0 h)
  case addi => exact s.onMach_alu1_of ha (congrArg (s.m.w a + ·) (signExtend_eq imm))
  case andi => exact s.onMach_alu1_of ha (congrArg (s.m.w a &&& ·) (zeroExtend_eq imm))
  case ori => exact s.onMach_alu1_of ha (congrArg (s.m.w a ||| ·) (zeroExtend_eq imm))
  case xori => exact s.onMach_alu1_of ha (congrArg (s.m.w a ^^^ ·) (zeroExtend_eq imm))
  case slti => exact s.onMach_alu1_of ha (slt_signExtend _ imm)
  case shlImm | shrImm | shaImm => exact s.onMach_alu1 d _ ha

/-- Settles O4: each quotient and remainder as the number it is, and the trap of a divisor of 0. -/
theorem division : Obligations.Division := by
  unfold Obligations.Division
  refine ⟨fun s d a b ha hb nonzero => ⟨?div, ?divN64, ?rem, ?remN64⟩, fun s d a b ha hb zero => ?trap⟩
  case div => exact s.onMach_divide ha hb nonzero (congrArg BitVec.toNat (sdiv_eq_ofInt _ _))
  case divN64 => exact s.onMach_divide ha hb nonzero BitVec.toNat_udiv
  case rem => exact s.onMach_divide ha hb nonzero (congrArg BitVec.toNat (srem_eq_ofInt _ _))
  case remN64 => exact s.onMach_divide ha hb nonzero (toNat_umod_eq_sub _ _)
  case trap =>
    exact ⟨s.onMach_divide_zero d _ ha hb zero, s.onMach_divide_zero d _ ha hb zero,
      s.onMach_divide_zero d _ ha hb zero, s.onMach_divide_zero d _ ha hb zero, by decide⟩

end

section
/-!
PROOF. The encoding read back (R304 to R328), and O57. One lemma for each family of words: those that share a major
opcode, or a format.
-/
namespace Sys2Proof

/-- The word of an instruction is decoded to that instruction, whatever its switch marker. -/
def ReadBack (i : Instr) : Prop := ∀ mark, decode (encode mark i) = .ok i

/-! ### Majors 0x01 to 0x0A: integer instructions (R306 to R311) -/

theorem readBack_alu (d a b c : BitVec 5) :
    ∀ instr ∈ [Instr.add d a b, .sub d a b, .and d a b, .or d a b, .xor d a b, .shl d a b, .shr d a b, .sha d a b, .slt
      d a b, .sltN64 d a b, .min d a b, .minN64 d a b, .max d a b, .maxN64 d a b, .sel d a b c], ReadBack instr := by
  simp only [List.mem_cons, List.not_mem_nil, or_false, forall_eq_or_imp, forall_eq]
  and_intros <;> intro mark <;> unfold encode <;>
    simp [decode, major, decodeAlu, unlessReserved]

theorem readBack_aluImm (d a : BitVec 5) (i : BitVec 15) (n : BitVec 6) :
    ∀ instr ∈ [Instr.addi d a i, .andi d a i, .ori d a i, .xori d a i, .slti d a i, .shlImm d a n, .shrImm d a n,
      .shaImm d a n], ReadBack instr := by
  simp only [List.mem_cons, List.not_mem_nil, or_false, forall_eq_or_imp, forall_eq]
  and_intros <;> intro mark <;> unfold encode <;>
    simp [decode, major, decodeShiftImm, unlessReserved]

theorem readBack_mul (d a b : BitVec 5) :
    ∀ instr ∈ [Instr.mul d a b, .mulh d a b, .mulhN64 d a b, .div d a b, .divN64 d a b, .rem d a b, .remN64 d a b],
      ReadBack instr := by
  simp only [List.mem_cons, List.not_mem_nil, or_false, forall_eq_or_imp, forall_eq]
  and_intros <;> intro mark <;> unfold encode <;>
    simp [decode, major, decodeMul, unlessReserved]

theorem readBack_bitField (d a : BitVec 5) (p l : BitVec 6) (fits : fieldFits p l = true) :
    ∀ instr ∈ [Instr.ext d a p l, .extI64 d a p l, .ins d a p l], ReadBack instr := by
  simp only [List.mem_cons, List.not_mem_nil, or_false, forall_eq_or_imp, forall_eq]
  and_intros <;> intro mark <;> unfold encode <;>
    simp [decode, major, decodeBitField, unlessReserved, fits]

theorem readBack_count (d a : BitVec 5) :
    ∀ instr ∈ [Instr.clz d a, .popc d a], ReadBack instr := by
  simp only [List.mem_cons, List.not_mem_nil, or_false, forall_eq_or_imp, forall_eq]
  and_intros <;> intro mark <;> unfold encode <;>
    simp [decode, major, decodeBitField, unlessReserved]

theorem readBack_lic (d : BitVec 5) (q : BitVec 2) (i : BitVec 16) :
    ∀ instr ∈ [Instr.lic d q i, .licZ d q i], ReadBack instr := by
  simp only [List.mem_cons, List.not_mem_nil, or_false, forall_eq_or_imp, forall_eq]
  and_intros <;> intro mark <;> unfold encode <;>
    simp [decode, major, decodeLic, unlessReserved]

/-! ### Majors 0x10 to 0x17: memory (R194, R155, R313 to R317) -/

theorem readBack_memory (d a : BitVec 5) (z : BitVec 2) (i : BitVec 11) :
    ∀ instr ∈ [Instr.ldN d a z i, .ldI d a z i, .st d a z i, .lds d a i, .ldsC d a i, .stf d a i, .sete a i], ReadBack
      instr := by
  simp only [List.mem_cons, List.not_mem_nil, or_false, forall_eq_or_imp, forall_eq]
  and_intros <;> intro mark <;> unfold encode <;>
    simp [decode, major, decodeLd, decodeSt, decodeSync, unlessReserved]

theorem readBack_atomic (d a b : BitVec 5) (z : BitVec 2) (g : BitVec 1) (i : BitVec 8) (size : 1 < z.toNat) :
    ∀ instr ∈ [Instr.amoAdd d a z g i, .amoAnd d a z g i, .amoOr d a z g i, .amoXor d a z g i, .amoMin d a z g i,
      .amoMax d a z g i, .amoSwap d a z g i, .cas d a z g b], ReadBack instr := by
  simp only [List.mem_cons, List.not_mem_nil, or_false, forall_eq_or_imp, forall_eq]
  and_intros <;> intro mark <;> unfold encode <;>
    simp [decode, major, decodeAtomic, unlessReserved, size]

theorem readBack_fold (v o : BitVec 4) (a : BitVec 5) (t : BitVec 1) :
    ∀ instr ∈ [Instr.ldg v a o t, .stg v a], ReadBack instr := by
  simp only [List.mem_cons, List.not_mem_nil, or_false, forall_eq_or_imp, forall_eq]
  and_intros <;> intro mark <;> unfold encode <;>
    simp [decode, major, decodeFold, unlessReserved]

theorem readBack_fence (k : BitVec 2) (c : BitVec 3) (kind : k ≠ 0#2) (scope : c.toNat ≤ 4) :
    ReadBack (.fence k c) := by
  intro mark
  unfold encode
  simp [decode, major, decodeFence, unlessReserved, kind, scope]

theorem readBack_pref (c : BitVec 2) (a : BitVec 5) (i : BitVec 11) (level : c ≠ 3#2) :
    ReadBack (.pref c a i) := by
  intro mark
  unfold encode
  simp [decode, major, decodeFence, unlessReserved, level]

theorem readBack_vectorMemory (v x : BitVec 4) (a : BitVec 5) (m : BitVec 3) (i : BitVec 12) (h : BitVec 2) :
    ∀ instr ∈ [Instr.vld v a m i, .vst v a m i, .vgath v a x m h, .vscat v a x m h], ReadBack instr := by
  simp only [List.mem_cons, List.not_mem_nil, or_false, forall_eq_or_imp, forall_eq]
  and_intros <;> intro mark <;> unfold encode <;>
    simp [decode, major, decodeVmem, decodeGather, unlessReserved]

/-! ### Majors 0x18 to 0x20: branches and jumps (R312, R318) -/

theorem readBack_branch (a b : BitVec 5) (m : BitVec 3) (f : BitVec 15) (g : BitVec 20) :
    ∀ instr ∈ [Instr.beq a b f, .bne a b f, .blt a b f, .bge a b f, .blo a b f, .bhs a b f, .bma m f, .bmn m f, .jal a
      g, .jalr a b f], ReadBack instr := by
  simp only [List.mem_cons, List.not_mem_nil, or_false, forall_eq_or_imp, forall_eq]
  and_intros <;> intro mark <;> unfold encode <;>
    simp [decode, major, decodeMaskBranch, unlessReserved]

/-! ### Majors 0x21 and 0x22: scalar floats (R319) -/

theorem readBack_float (d a b c : BitVec 5) (t : BitVec 3) (type : isFloatType t = true) :
    ∀ instr ∈ [Instr.fadd d a b t, .fsub d a b t, .fmul d a b t, .fdiv d a b t, .fsqrt d a t, .fmin d a b t, .fmax d a b
      t, .ffma d a b c t], ReadBack instr := by
  simp only [List.mem_cons, List.not_mem_nil, or_false, forall_eq_or_imp, forall_eq]
  and_intros <;> intro mark <;> unfold encode <;>
    simp [decode, major, decodeFloat, decodeFfma, unlessReserved, type]

theorem readBack_fcmp (d a b : BitVec 5) (t c : BitVec 3) (type : isFloatType t = true) (relation : c.toNat ≤ 3) :
    ReadBack (.fcmp d a b t c) := by
  intro mark
  unfold encode
  simp [decode, major, decodeFloat, unlessReserved, type, relation]

theorem readBack_fcvt (d a : BitVec 5) (x y : BitVec 3) (types : fcvtTypes x y = true) :
    ReadBack (.fcvt d a x y) := by
  intro mark
  unfold encode
  simp [decode, major, decodeFloat, unlessReserved, types]

/-! ### Majors 0x23 to 0x28: vectors and masks (R320 to R324) -/

theorem readBack_vectorInt (d a b : BitVec 4) (m t : BitVec 3) (type : isVintType t = true) :
    ∀ instr ∈ [Instr.vaddInt d a b m t, .vsubInt d a b m t, .vmulInt d a b m t, .vminInt d a b m t, .vmaxInt d a b m t,
      .vshl d a b m t, .vshr d a b m t], ReadBack instr := by
  simp only [List.mem_cons, List.not_mem_nil, or_false, forall_eq_or_imp, forall_eq]
  and_intros <;> intro mark <;> unfold encode <;>
    simp [decode, major, decodeVint, unlessReserved, type]

theorem readBack_vectorFloat (d a b c : BitVec 4) (m t : BitVec 3) (type : isFloatType t = true) :
    ∀ instr ∈ [Instr.vaddFloat d a b m t, .vsubFloat d a b m t, .vmulFloat d a b m t, .vminFloat d a b m t, .vmaxFloat d
      a b m t, .vfma d a b c m t], ReadBack instr := by
  simp only [List.mem_cons, List.not_mem_nil, or_false, forall_eq_or_imp, forall_eq]
  and_intros <;> intro mark <;> unfold encode <;>
    simp [decode, major, decodeVfloat, decodeVfma, unlessReserved, type]

theorem readBack_vcmpInt (d : BitVec 3) (a b c : BitVec 4) (m t : BitVec 3) (type : isVintType t = true) (relation :
    c.toNat ≤ 3) :
    ReadBack (.vcmpInt d a b c m t) := by
  intro mark
  unfold encode
  simp [decode, major, decodeVint, unlessReserved, type, relation]

theorem readBack_vcmpFloat (d : BitVec 3) (a b c : BitVec 4) (m t : BitVec 3) (type : isFloatType t = true) (relation :
    c.toNat ≤ 4) :
    ReadBack (.vcmpFloat d a b c m t) := by
  intro mark
  unfold encode
  simp [decode, major, decodeVfloat, unlessReserved, type, relation]

theorem readBack_vectorLanes (d a b : BitVec 4) (w : BitVec 5) (m : BitVec 3) :
    ∀ instr ∈ [Instr.vand d a b m, .vor d a b m, .vxor d a b m, .vsel d a b m, .vperm d a b m, .vbcast d w m, .vextN32 w
      a b, .vextI32 w a b, .vins w a b], ReadBack instr := by
  simp only [List.mem_cons, List.not_mem_nil, or_false, forall_eq_or_imp, forall_eq]
  and_intros <;> intro mark <;> unfold encode <;>
    simp [decode, major, decodeVmisc, unlessReserved]

theorem readBack_vcvt (d a x y : BitVec 4) (m : BitVec 3) (source : isVecType x = true) (target : isVecType y = true) :
    ReadBack (.vcvt d a x y m) := by
  intro mark
  unfold encode
  simp [decode, major, decodeVmisc, unlessReserved, source, target]

theorem readBack_vectorReduce (d a t o : BitVec 4) (m : BitVec 3) (type : isReduceType t = true) (op : o.toNat ≤ 2) :
    ∀ instr ∈ [Instr.vred d a t m o, .vscan d a t m o], ReadBack instr := by
  simp only [List.mem_cons, List.not_mem_nil, or_false, forall_eq_or_imp, forall_eq]
  and_intros <;> intro mark <;> unfold encode <;>
    simp [decode, major, decodeVred, unlessReserved, type, op]

theorem readBack_vdot (d a b c t : BitVec 4) (m : BitVec 3) (type : t.toNat ≤ 4) :
    ReadBack (.vdot d a b c m t) := by
  intro mark
  unfold encode
  simp [decode, major, decodeVred, type]

theorem readBack_vsf (d a f : BitVec 4) (m : BitVec 3) (function : f.toNat ≤ 7) :
    ReadBack (.vsf d a m f) := by
  intro mark
  unfold encode
  simp [decode, major, decodeVred, unlessReserved, function]

theorem readBack_mask (d a b : BitVec 3) (w : BitVec 5) :
    ∀ instr ∈ [Instr.mand d a b, .mor d a b, .mxor d a b, .mnot d a, .mcnt w a, .mmovw d w, .mmovwW w a], ReadBack instr
      := by
  simp only [List.mem_cons, List.not_mem_nil, or_false, forall_eq_or_imp, forall_eq]
  and_intros <;> intro mark <;> unfold encode <;>
    simp [decode, major, decodeMask, unlessReserved]

/-! ### Majors 0x29 to 0x2F: streams, messages and closures (R117, R181, R189, R325, R326) -/

theorem readBack_stream (p h : BitVec 2) :
    ∀ instr ∈ [Instr.sbind p h, .srel p], ReadBack instr := by
  simp only [List.mem_cons, List.not_mem_nil, or_false, forall_eq_or_imp, forall_eq]
  and_intros <;> intro mark <;> unfold encode <;>
    simp [decode, major, decodeStream, unlessReserved]

theorem readBack_send (o : BitVec 2) (t a b : BitVec 5) (v : BitVec 4) (form : o ≠ 3#2) :
    ∀ instr ∈ [Instr.send o t a v, .sendBuf o t a b, .reply o t a v, .replyBuf o t a b], ReadBack instr := by
  simp only [List.mem_cons, List.not_mem_nil, or_false, forall_eq_or_imp, forall_eq]
  and_intros <;> intro mark <;> unfold encode <;>
    simp [decode, major, decodeSend, unlessReserved, form]

theorem readBack_channel (t a b : BitVec 5) (c k p : BitVec 3) (l : BitVec 1) :
    ∀ instr ∈ [Instr.post t a b, .chbind c k l p, .qcnt t c], ReadBack instr := by
  simp only [List.mem_cons, List.not_mem_nil, or_false, forall_eq_or_imp, forall_eq]
  and_intros <;> intro mark <;> unfold encode <;>
    simp [decode, major, decodePost, unlessReserved]

theorem readBack_closure (k n m : BitVec 3) (b : BitVec 5) (o : BitVec 1) (f : BitVec 13) (v : BitVec 4) :
    ∀ instr ∈ [Instr.capt k b n o f, .captr k b n o f, .apply k b, .applyTail k b, .applyv v m, .spawn k b, .dupk k,
      .dropk k, .movk k b, .movkW k b, .kinfo k b], ReadBack instr := by
  simp only [List.mem_cons, List.not_mem_nil, or_false, forall_eq_or_imp, forall_eq]
  and_intros <;> intro mark <;> unfold encode <;>
    simp [decode, major, decodeClosure, unlessReserved]

theorem readBack_await (k m : BitVec 3) (d a : BitVec 5) (v b : BitVec 4) :
    ∀ instr ∈ [Instr.await k a, .awaitv v a b m, .bprobe d a], ReadBack instr := by
  simp only [List.mem_cons, List.not_mem_nil, or_false, forall_eq_or_imp, forall_eq]
  and_intros <;> intro mark <;> unfold encode <;>
    simp [decode, major, decodeAwait, unlessReserved]

/-! ### Majors 0x30 to 0x32: tasks, engines and the system (R228, R327, R328, R368) -/

theorem readBack_task (k : BitVec 3) (a : BitVec 5) (n : BitVec 6) :
    ∀ instr ∈ [Instr.endTask, .start k a, .arrive a, .barw a, .maskw n], ReadBack instr := by
  simp only [List.mem_cons, List.not_mem_nil, or_false, forall_eq_or_imp, forall_eq]
  and_intros <;> intro mark <;> unfold encode <;>
    simp [decode, major, decodeTask, unlessReserved]

theorem readBack_bara (d : BitVec 5) (c : BitVec 3) (request : carveRequest c = true) :
    ReadBack (.bara d c) := by
  intro mark
  unfold encode
  simp [decode, major, decodeTask, unlessReserved, request]

theorem readBack_engine (t : BitVec 5) (a b : BitVec 2) :
    ∀ instr ∈ [Instr.cpy t a b, .mlease t, .mrel, .ecan t, .eres t], ReadBack instr := by
  simp only [List.mem_cons, List.not_mem_nil, or_false, forall_eq_or_imp, forall_eq]
  and_intros <;> intro mark <;> unfold encode <;>
    simp [decode, major, decodeEngine, unlessReserved, runtimeOnly]

theorem readBack_efork (j c m : BitVec 5) (join : j ≠ 0#5) :
    ReadBack (.efork j c m) := by
  intro mark
  unfold encode
  simp [decode, major, decodeEngine, unlessReserved, join]

theorem readBack_register (d : BitVec 5) (n : BitVec 12) (assigned : csrAssigned n = true) :
    ∀ instr ∈ [Instr.csrd d n, .cswr d n], ReadBack instr := by
  simp only [List.mem_cons, List.not_mem_nil, or_false, forall_eq_or_imp, forall_eq]
  and_intros <;> intro mark <;> unfold encode <;>
    simp [decode, major, decodeSystem, assigned]

theorem readBack_system (c : BitVec 16) (t a : BitVec 5) (v : BitVec 4) :
    ∀ instr ∈ [Instr.trap c, .trapBrk c, .rte, .migr t a, .fqpop v, .resume a, .tlbinv a, .tlbinvAll a], ReadBack instr
      := by
  simp only [List.mem_cons, List.not_mem_nil, or_false, forall_eq_or_imp, forall_eq]
  and_intros <;> intro mark <;> unfold encode <;>
    simp [decode, major, decodeSystem, unlessReserved, runtimeOnly]
end Sys2Proof

open Sys2Proof Sys2Proof.Machine

/-- Settles O57: by the family of the word; what is no instruction word is not asked for. -/
theorem encodeDecode : Obligations.EncodeDecode := by
  unfold Obligations.EncodeDecode
  intro mark i word wf
  revert mark
  show ReadBack i
  cases i
  case add d a b | sub d a b | and d a b | or d a b | xor d a b | shl d a b | shr d a b | sha d a b | slt d a b |
      sltN64 d a b | min d a b | minN64 d a b | max d a b | maxN64 d a b =>
    exact readBack_alu d a b 0 _ (by simp)
  case sel d a b c =>
    exact readBack_alu d a b c _ (by simp)
  case addi d a i | andi d a i | ori d a i | xori d a i | slti d a i =>
    exact readBack_aluImm d a i 0 _ (by simp)
  case shlImm d a n | shrImm d a n | shaImm d a n =>
    exact readBack_aluImm d a 0 n _ (by simp)
  case mul d a b | mulh d a b | mulhN64 d a b | div d a b | divN64 d a b | rem d a b | remN64 d a b =>
    exact readBack_mul d a b _ (by simp)
  case ext d a p l | extI64 d a p l | ins d a p l =>
    exact readBack_bitField d a p l wf _ (by simp)
  case clz d a | popc d a =>
    exact readBack_count d a _ (by simp)
  case lic d q i | licZ d q i =>
    exact readBack_lic d q i _ (by simp)
  case ldN d a z i | ldI d a z i | st d a z i =>
    exact readBack_memory d a z i _ (by simp)
  case lds d a i | ldsC d a i | stf d a i =>
    exact readBack_memory d a 0 i _ (by simp)
  case sete a i =>
    exact readBack_memory 0 a 0 i _ (by simp)
  case amoAdd d a z g i | amoAnd d a z g i | amoOr d a z g i | amoXor d a z g i | amoMin d a z g i | amoMax d a z g i |
      amoSwap d a z g i =>
    exact readBack_atomic d a 0 z g i (of_decide_eq_true wf) _ (by simp)
  case cas d a z g b =>
    exact readBack_atomic d a b z g 0 (of_decide_eq_true wf) _ (by simp)
  case ldg v a o t =>
    exact readBack_fold v o a t _ (by simp)
  case stg v a =>
    exact readBack_fold v 0 a 0 _ (by simp)
  case fence k c =>
    obtain ⟨kind, scope⟩ := Bool.and_eq_true_iff.mp wf
    exact readBack_fence k c (bne_iff_ne.mp kind) (of_decide_eq_true scope)
  case pref c a i =>
    exact readBack_pref c a i (bne_iff_ne.mp wf)
  case vld v a m i | vst v a m i =>
    exact readBack_vectorMemory v 0 a m i 0 _ (by simp)
  case vgath v a x m h | vscat v a x m h =>
    exact readBack_vectorMemory v x a m 0 h _ (by simp)
  case beq a b f | bne a b f | blt a b f | bge a b f | blo a b f | bhs a b f | jalr a b f =>
    exact readBack_branch a b 0 f 0 _ (by simp)
  case bma m f | bmn m f =>
    exact readBack_branch 0 0 m f 0 _ (by simp)
  case jal a g =>
    exact readBack_branch a 0 0 0 g _ (by simp)
  case fadd d a b t | fsub d a b t | fmul d a b t | fdiv d a b t | fmin d a b t | fmax d a b t =>
    exact readBack_float d a b 0 t wf _ (by simp)
  case fsqrt d a t =>
    exact readBack_float d a 0 0 t wf _ (by simp)
  case ffma d a b c t =>
    exact readBack_float d a b c t wf _ (by simp)
  case fcmp d a b t c =>
    obtain ⟨type, relation⟩ := Bool.and_eq_true_iff.mp wf
    exact readBack_fcmp d a b t c type (of_decide_eq_true relation)
  case fcvt d a x y =>
    exact readBack_fcvt d a x y wf
  case vaddInt d a b m t | vsubInt d a b m t | vmulInt d a b m t | vminInt d a b m t | vmaxInt d a b m t |
      vshl d a b m t | vshr d a b m t =>
    exact readBack_vectorInt d a b m t wf _ (by simp)
  case vaddFloat d a b m t | vsubFloat d a b m t | vmulFloat d a b m t | vminFloat d a b m t | vmaxFloat d a b m t =>
    exact readBack_vectorFloat d a b 0 m t wf _ (by simp)
  case vfma d a b c m t =>
    exact readBack_vectorFloat d a b c m t wf _ (by simp)
  case vcmpInt d a b c m t =>
    obtain ⟨type, relation⟩ := Bool.and_eq_true_iff.mp wf
    exact readBack_vcmpInt d a b c m t type (of_decide_eq_true relation)
  case vcmpFloat d a b c m t =>
    obtain ⟨type, relation⟩ := Bool.and_eq_true_iff.mp wf
    exact readBack_vcmpFloat d a b c m t type (of_decide_eq_true relation)
  case vand d a b m | vor d a b m | vxor d a b m | vsel d a b m | vperm d a b m =>
    exact readBack_vectorLanes d a b 0 m _ (by simp)
  case vbcast d w m =>
    exact readBack_vectorLanes d 0 0 w m _ (by simp)
  case vextN32 w a b | vextI32 w a b | vins w a b =>
    exact readBack_vectorLanes 0 a b w 0 _ (by simp)
  case vcvt d a x y m =>
    obtain ⟨source, target⟩ := Bool.and_eq_true_iff.mp wf
    exact readBack_vcvt d a x y m source target
  case vred d a t m o | vscan d a t m o =>
    obtain ⟨type, op⟩ := Bool.and_eq_true_iff.mp wf
    exact readBack_vectorReduce d a t o m type (of_decide_eq_true op) _ (by simp)
  case vdot d a b c m t =>
    exact readBack_vdot d a b c t m (of_decide_eq_true wf)
  case vsf d a m f =>
    exact readBack_vsf d a f m (of_decide_eq_true wf)
  case mand d a b | mor d a b | mxor d a b =>
    exact readBack_mask d a b 0 _ (by simp)
  case mnot d a =>
    exact readBack_mask d a 0 0 _ (by simp)
  case mcnt w a | mmovwW w a =>
    exact readBack_mask 0 a 0 w _ (by simp)
  case mmovw d w =>
    exact readBack_mask d 0 0 w _ (by simp)
  case sbind p h =>
    exact readBack_stream p h _ (by simp)
  case srel p =>
    exact readBack_stream p 0 _ (by simp)
  case send o t a v | reply o t a v =>
    exact readBack_send o t a 0 v (bne_iff_ne.mp wf) _ (by simp)
  case sendBuf o t a b | replyBuf o t a b =>
    exact readBack_send o t a b 0 (bne_iff_ne.mp wf) _ (by simp)
  case post t a b =>
    exact readBack_channel t a b 0 0 0 0 _ (by simp)
  case chbind c k l p =>
    exact readBack_channel 0 0 0 c k p l _ (by simp)
  case qcnt t c =>
    exact readBack_channel t 0 0 c 0 0 0 _ (by simp)
  case capt k b n o f | captr k b n o f =>
    exact readBack_closure k n 0 b o f 0 _ (by simp)
  case apply k b | applyTail k b | spawn k b | movk k b | movkW k b | kinfo k b =>
    exact readBack_closure k 0 0 b 0 0 0 _ (by simp)
  case applyv v m =>
    exact readBack_closure 0 0 m 0 0 0 v _ (by simp)
  case dupk k | dropk k =>
    exact readBack_closure k 0 0 0 0 0 0 _ (by simp)
  case await k a =>
    exact readBack_await k 0 0 a 0 0 _ (by simp)
  case awaitv v a b m =>
    exact readBack_await 0 m 0 a v b _ (by simp)
  case bprobe d a =>
    exact readBack_await 0 0 d a 0 0 _ (by simp)
  case endTask =>
    exact readBack_task 0 0 0 _ (by simp)
  case start k a =>
    exact readBack_task k a 0 _ (by simp)
  case arrive a | barw a =>
    exact readBack_task 0 a 0 _ (by simp)
  case maskw n =>
    exact readBack_task 0 0 n _ (by simp)
  case bara d c =>
    exact readBack_bara d c wf
  case cpy t a b =>
    exact readBack_engine t a b _ (by simp)
  case mlease t | ecan t | eres t =>
    exact readBack_engine t 0 0 _ (by simp)
  case mrel =>
    exact readBack_engine 0 0 0 _ (by simp)
  case efork j c m =>
    exact readBack_efork j c m (bne_iff_ne.mp wf)
  case csrd d n | cswr d n =>
    exact readBack_register d n wf _ (by simp)
  case trap c | trapBrk c =>
    exact readBack_system c 0 0 0 _ (by simp)
  case rte =>
    exact readBack_system 0 0 0 0 _ (by simp)
  case migr t a =>
    exact readBack_system 0 t a 0 _ (by simp)
  case fqpop v =>
    exact readBack_system 0 0 0 v _ (by simp)
  case resume a | tlbinv a | tlbinvAll a =>
    exact readBack_system 0 0 a 0 _ (by simp)
  all_goals exact absurd word Bool.false_ne_true

end

section
/-!
PROOF. O58: what hides an entry of a duty table. A table is read up to the first greater number (`Table.find`), so an
entry that stands behind a greater one is not read until that one leaves; `Power.resetDuty` takes entries out.
-/
namespace Sys2Proof.Machine

theorem mem_rowCores (rows c : Nat) : c ∈ rowCores rows ↔ c < 1024 ∧ rows.testBit (rowOf c) = true := by
  simp [rowCores]

/-- A duty table whose second entry stands behind a greater number. -/
def unsortedDuty : Power := { duty := [(64, 3), (2, 99)] }

/-- Partition 0 has row 1 alone, which holds core 64 and not core 2, and its reset is to end. -/
def endingReset : State :=
  { m := { parts := [(0, { state := .resetting, rows := 2 })] }, power := unsortedDuty, agenda := [.event (.flr 0)] }

theorem unsortedDuty_dutyOf (c : Nat) : unsortedDuty.dutyOf c = if c = 64 then 3 else 16 := by
  simp only [Power.dutyOf, unsortedDuty, Table.get, Table.find]
  rcases Nat.lt_trichotomy 64 c with above | rfl | below
  · rw [if_neg (by omega), if_pos above, if_neg (by omega), if_pos (by omega), if_neg (by omega)]
    rfl
  · rfl
  · rw [if_neg (by omega), if_neg (by omega), if_neg (by omega)]
    rfl

theorem endingReset_dutyInRange : endingReset.dutyInRange := by
  intro c
  show 1 ≤ unsortedDuty.dutyOf c ∧ unsortedDuty.dutyOf c ≤ 16
  rw [unsortedDuty_dutyOf]
  split <;> decide

/-- The reset ends in the step (R279): every duty of row 1 takes its reset value. -/
theorem step_endingReset :
    step endingReset = .next (State.endReset { endingReset with agenda := [], m := endingReset.m.advance } 0) := rfl

/-- The entry of core 64 is gone, and that of core 2 is read. -/
theorem duty_after_endingReset : (unsortedDuty.resetDuty (rowCores 2)).dutyOf 2 = 99 := by
  have goes : 64 ∈ rowCores 2 := (mem_rowCores 2 64).mpr (by decide)
  have stays : 2 ∉ rowCores 2 := fun h => absurd ((mem_rowCores 2 2).mp h) (by decide)
  simp [Power.resetDuty, unsortedDuty, Power.dutyOf, Table.get, Table.find, List.filter, goes, stays]

end Sys2Proof.Machine

open Sys2Proof Sys2Proof.Machine

/-- Refutes O58: of the states that meet the invariant, one has a duty table that is not in order, in which the entry of
core 64 hides one of 99 for core 2. A function-level reset of the partition of core 64 ends, its entry leaves, and core
2's duty is 99. -/
theorem not_dutyKept : ¬ Obligations.DutyKept := by
  unfold Obligations.DutyKept
  intro kept
  have inRange := kept _ _ endingReset_dutyInRange step_endingReset 2
  have most : (unsortedDuty.resetDuty (rowCores 2)).dutyOf 2 ≤ 16 := inRange.2
  rw [duty_after_endingReset] at most
  exact absurd most (by decide)

end

section
/-!
PROOF. What the pipeline's integer instructions write, where they find an operand empty, and what they leave (R20, R22),
branches and jumps (R346 to R353, R380, R381), and O5, O6, O8 and O10.
-/
namespace Sys2Proof.Machine

/-- A list of instructions taken apart into the families that it is made of. -/
theorem mem_take_or_drop (n : Nat) {l : List Instr} {i : Instr} (h : i ∈ l) : i ∈ l.take n ∨ i ∈ l.drop n :=
  List.mem_append.mp ((List.take_append_drop n l).symm ▸ h)

/-! ### The integer instructions whose operands may be read: one write of w[d] (R20) -/

/-- The instruction writes w[d] in the pipeline and completes in sequence. -/
def State.Writes (s : State) (d : BitVec 5) (i : Instr) : Prop := ∃ v, exec i s = .next (s.on (s.m.writeW d v).done)

theorem writes_alu2 (s : State) {a b : BitVec 5} (d : BitVec 5) (ha : s.m.canReadW a) (hb : s.m.canReadW b) :
    ∀ i ∈ [Instr.add d a b, .sub d a b, .and d a b, .or d a b, .xor d a b, .shl d a b, .shr d a b, .sha d a b,
      .slt d a b, .sltN64 d a b, .min d a b, .minN64 d a b, .max d a b, .maxN64 d a b, .mul d a b, .mulh d a b,
      .mulhN64 d a b], s.Writes d i := by
  simp only [List.forall_mem_cons, List.not_mem_nil, false_implies, implies_true, and_true]
  and_intros <;> exact ⟨_, s.onMach_alu2 d _ ha hb⟩

theorem writes_alu1 (s : State) {a : BitVec 5} (d : BitVec 5) (imm : BitVec 15) (n : BitVec 6) (ha : s.m.canReadW a) :
    ∀ i ∈ [Instr.addi d a imm, .andi d a imm, .ori d a imm, .xori d a imm, .slti d a imm, .shlImm d a n, .shrImm d a n,
      .shaImm d a n, .clz d a, .popc d a], s.Writes d i := by
  simp only [List.forall_mem_cons, List.not_mem_nil, false_implies, implies_true, and_true]
  and_intros <;> exact ⟨_, s.onMach_alu1 d _ ha⟩

/-! ### An operand that is empty (R22, R70) -/

section
variable (s : State) {a : BitVec 5} (h0 : a ≠ 0) (h : s.m.full (s.m.wKey a) = false)
include h0 h

theorem onMach_alu1_empty (d : BitVec 5) (f : Word → Word) : s.onMach (fun m => m.alu1 d a f) = .next s.hazard :=
  s.onMach_readW_empty _ h0 h

theorem onMach_alu2_empty_first (d b : BitVec 5) (f : Word → Word → Word) :
    s.onMach (fun m => m.alu2 d a b f) = .next s.hazard := s.onMach_readW_empty _ h0 h

theorem onMach_divide_empty_first (d b : BitVec 5) (f : Word → Word → Word) :
    s.onMach (fun m => m.divide d a b f) = .next s.hazard := s.onMach_readW_empty _ h0 h

theorem onMach_branch_empty_first (b : BitVec 5) (f : BitVec 15) (cond : Word → Word → Bool) :
    s.onMach (fun m => m.branch a b f cond) = .next s.hazard := s.onMach_readW_empty _ h0 h

theorem exec_jalr_empty (d : BitVec 5) (imm : BitVec 15) : exec (.jalr d a imm) s = .next s.hazard :=
  s.onMach_readW_empty (fun m x => m.jump d (a == 31) (x + 4 * signExtend 15 imm)) h0 h

theorem empty_first_alu2 (d b : BitVec 5) :
    ∀ i ∈ [Instr.add d a b, .sub d a b, .and d a b, .or d a b, .xor d a b, .shl d a b, .shr d a b, .sha d a b,
      .slt d a b, .sltN64 d a b, .min d a b, .minN64 d a b, .max d a b, .maxN64 d a b, .mul d a b, .mulh d a b,
      .mulhN64 d a b], exec i s = .next s.hazard := by
  simp only [List.forall_mem_cons, List.not_mem_nil, false_implies, implies_true, and_true]
  and_intros <;> exact onMach_alu2_empty_first s h0 h d b _

theorem empty_first_divide (d b : BitVec 5) :
    ∀ i ∈ [Instr.div d a b, .divN64 d a b, .rem d a b, .remN64 d a b], exec i s = .next s.hazard := by
  simp only [List.forall_mem_cons, List.not_mem_nil, false_implies, implies_true, and_true]
  and_intros <;> exact onMach_divide_empty_first s h0 h d b _

theorem empty_first_branch (b : BitVec 5) (f : BitVec 15) :
    ∀ i ∈ [Instr.beq a b f, .bne a b f, .blt a b f, .bge a b f, .blo a b f, .bhs a b f],
      exec i s = .next s.hazard := by
  simp only [List.forall_mem_cons, List.not_mem_nil, false_implies, implies_true, and_true]
  and_intros <;> exact onMach_branch_empty_first s h0 h b f _

theorem empty_alu1 (d : BitVec 5) (imm : BitVec 15) (n : BitVec 6) :
    ∀ i ∈ [Instr.addi d a imm, .andi d a imm, .ori d a imm, .xori d a imm, .slti d a imm, .shlImm d a n, .shrImm d a n,
      .shaImm d a n, .clz d a, .popc d a], exec i s = .next s.hazard := by
  simp only [List.forall_mem_cons, List.not_mem_nil, false_implies, implies_true, and_true]
  and_intros <;> exact onMach_alu1_empty s h0 h d _

theorem empty_field (d : BitVec 5) {p l : BitVec 6} (fits : p.toNat + l.toNat + 1 ≤ 64) :
    ∀ i ∈ [Instr.ext d a p l, .extI64 d a p l, .ins d a p l], exec i s = .next s.hazard := by
  simp only [List.forall_mem_cons, List.not_mem_nil, false_implies, implies_true, and_true]
  and_intros
  · exact (s.onMach_fieldFits (fun m => m.alu1 d a (fun x => extract x p.toNat (l.toNat + 1))) fits).trans
      (onMach_alu1_empty s h0 h d _)
  · exact (s.onMach_fieldFits (fun m => m.alu1 d a (fun x => extractS x p.toNat (l.toNat + 1))) fits).trans
      (onMach_alu1_empty s h0 h d _)
  · exact (s.onMach_fieldFits (fun m => m.alu2 d a d (fun x y => Machine.insert x y p.toNat (l.toNat + 1))) fits).trans
      (onMach_alu2_empty_first s h0 h d d _)

theorem onMach_alu2_empty_second (d : BitVec 5) {b : BitVec 5} (f : Word → Word → Word) (hb : s.m.canReadW b) :
    s.onMach (fun m => m.alu2 d b a f) = .next s.hazard :=
  (s.onMach_readW _ hb).trans (s.onMach_readW_empty (fun m y => .ok (m.writeW d (f (m.w b) y)).done) h0 h)

theorem onMach_divide_empty_second (d : BitVec 5) {b : BitVec 5} (f : Word → Word → Word) (hb : s.m.canReadW b) :
    s.onMach (fun m => m.divide d b a f) = .next s.hazard :=
  (s.onMach_readW _ hb).trans (s.onMach_readW_empty (fun m y =>
    if y = 0 then .error { cause := .divideByZero }
    else .ok (m.late (m.lateW d) (.value (f (m.w b) y).toNat 0)).done) h0 h)

theorem onMach_branch_empty_second {b : BitVec 5} (f : BitVec 15) (cond : Word → Word → Bool) (hb : s.m.canReadW b) :
    s.onMach (fun m => m.branch b a f cond) = .next s.hazard :=
  (s.onMach_readW _ hb).trans (s.onMach_readW_empty (fun m y =>
    .ok (if cond (m.w b) y then m.doneAt (m.target 15 f) else m.done)) h0 h)

theorem empty_second_alu2 (d : BitVec 5) {b : BitVec 5} (hb : s.m.canReadW b) :
    ∀ i ∈ [Instr.add d b a, .sub d b a, .and d b a, .or d b a, .xor d b a, .shl d b a, .shr d b a, .sha d b a,
      .slt d b a, .sltN64 d b a, .min d b a, .minN64 d b a, .max d b a, .maxN64 d b a, .mul d b a, .mulh d b a,
      .mulhN64 d b a], exec i s = .next s.hazard := by
  simp only [List.forall_mem_cons, List.not_mem_nil, false_implies, implies_true, and_true]
  and_intros <;> exact onMach_alu2_empty_second s h0 h d _ hb

theorem empty_second_divide (d : BitVec 5) {b : BitVec 5} (hb : s.m.canReadW b) :
    ∀ i ∈ [Instr.div d b a, .divN64 d b a, .rem d b a, .remN64 d b a], exec i s = .next s.hazard := by
  simp only [List.forall_mem_cons, List.not_mem_nil, false_implies, implies_true, and_true]
  and_intros <;> exact onMach_divide_empty_second s h0 h d _ hb

theorem empty_second_branch {b : BitVec 5} (f : BitVec 15) (hb : s.m.canReadW b) :
    ∀ i ∈ [Instr.beq b a f, .bne b a f, .blt b a f, .bge b a f, .blo b a f, .bhs b a f],
      exec i s = .next s.hazard := by
  simp only [List.forall_mem_cons, List.not_mem_nil, false_implies, implies_true, and_true]
  and_intros <;> exact onMach_branch_empty_second s h0 h f _ hb

theorem exec_ins_empty (d : BitVec 5) {p l : BitVec 6} (fits : p.toNat + l.toNat + 1 ≤ 64) (hd : s.m.canReadW d) :
    exec (.ins a d p l) s = .next s.hazard :=
  (s.onMach_fieldFits (fun m => m.alu2 a d a (fun x y => Machine.insert x y p.toNat (l.toNat + 1))) fits).trans
    (onMach_alu2_empty_second s h0 h a _ hd)

end

/-! ### Branches (R346 to R353): the position moves -/

/-- The instruction goes on at some address and does nothing else. -/
def State.Jumps (s : State) (i : Instr) : Prop := ∃ pc, exec i s = .next (s.on (s.m.doneAt pc))

theorem State.onMach_branch_jumps (s : State) {a b : BitVec 5} (f : BitVec 15) (cond : Word → Word → Bool)
    (ha : s.m.canReadW a) (hb : s.m.canReadW b) :
    ∃ pc, s.onMach (fun m => m.branch a b f cond) = .next (s.on (s.m.doneAt pc)) :=
  ⟨_, s.onMach_branch f cond ha hb Iff.rfl⟩

theorem jumps_branch (s : State) {a b : BitVec 5} (f : BitVec 15) (ha : s.m.canReadW a) (hb : s.m.canReadW b) :
    ∀ i ∈ [Instr.beq a b f, .bne a b f, .blt a b f, .bge a b f, .blo a b f, .bhs a b f], s.Jumps i := by
  simp only [List.forall_mem_cons, List.not_mem_nil, false_implies, implies_true, and_true]
  and_intros <;> exact s.onMach_branch_jumps f _ ha hb

theorem jumps_branchMask (s : State) {k : BitVec 3} (f : BitVec 15) (hk : s.m.canReadM k) :
    ∀ i ∈ [Instr.bma k f, .bmn k f], s.Jumps i := by
  simp only [List.forall_mem_cons, List.not_mem_nil, false_implies, implies_true, and_true]
  and_intros <;> exact ⟨_, s.onMach_branchMask f _ hk Iff.rfl⟩

/-! ### Jumps (R380, R381) -/

/-- JAL jumps to PC + 4 × offset. -/
theorem exec_jal (s : State) {d : BitVec 5} (f : BitVec 20) {r : Res Mach}
    (h : s.m.jump d false (s.m.me.pc + BitVec.ofInt 64 (4 * f.toInt)) = r) :
    exec (.jal d f) s = .next (s.on (s.m.settle r)) := by
  rw [← h, ← Mach.target_long]
  rfl

/-- JALR jumps to w[a] + 4 × offset, as a return where a = 31. -/
theorem exec_jalr (s : State) {d a : BitVec 5} (imm : BitVec 15) {r : Res Mach} (ha : s.m.canReadW a)
    (h : s.m.jump d (a == 31) (s.m.w a + BitVec.ofInt 64 (4 * imm.toInt)) = r) :
    exec (.jalr d a imm) s = .next (s.on (s.m.settle r)) := by
  rw [← h, ← jump_target]
  exact s.onMach_readW (fun m x => m.jump d (a == 31) (x + 4 * signExtend 15 imm)) ha

/-! The words of the spill area that a call or a return reads (R137). -/

theorem Mach.needGood_ok (m : Mach) {ks : List Nat} (h : ∀ k ∈ ks, k ∉ m.scratchBad) : m.needGood ks = .ok () := by
  have none_bad : ks.find? (fun k => m.scratchBad.contains k) = none := by simpa using h
  rw [Mach.needGood, none_bad]

theorem Mach.needGood_head (m : Mach) {k : Nat} (ks : List Nat) (h : k ∈ m.scratchBad) :
    m.needGood (k :: ks) = .error { cause := .scratchUncorrectable, bad := lwOf k } := by
  have first : (k :: ks).find? (fun k => m.scratchBad.contains k) = some k := by simp [h]
  rw [Mach.needGood, first]

theorem Mach.needGood_second (m : Mach) {k n : Nat} (hk : k ∉ m.scratchBad) (hn : n ∈ m.scratchBad) :
    m.needGood [k, n] = .error { cause := .scratchUncorrectable, bad := lwOf n } := by
  have second : [k, n].find? (fun k => m.scratchBad.contains k) = some n := by simp [hk, hn]
  rw [Mach.needGood, second]

/-! A jump by its destination: a call, a link, a return, and neither. -/

theorem Mach.jump_call (m : Mach) (ret : Bool) (target : Word) (h31 : m.canReadW 31) (good : ∀ k ∈ m.pushReads, k ∉ m.scratchBad)
    (room : m.linksFull = false) :
    m.jump 31 ret target = .ok (((m.pushLink (m.w 31)).writeW 31 (m.me.pc + 4)).doneAt target) := by
  rw [Mach.jump, if_pos rfl, m.needGood_ok good, room, m.readW_ok h31]
  rfl

theorem Mach.jump_call_full (m : Mach) (ret : Bool) (target : Word) (good : ∀ k ∈ m.pushReads, k ∉ m.scratchBad)
    (full : m.linksFull = true) : m.jump 31 ret target = .error { cause := .spillOverflow } := by
  rw [Mach.jump, if_pos rfl, m.needGood_ok good, full]
  rfl

theorem Mach.jump_call_bad (m : Mach) (ret : Bool) (target : Word) {t : Trap} (h : m.needGood m.pushReads = .error t) :
    m.jump 31 ret target = .error t := by
  rw [Mach.jump, if_pos rfl, h]
  rfl

theorem Mach.jump_link (m : Mach) (ret : Bool) (target : Word) {d : BitVec 5} (h31 : d ≠ 31) (h0 : d ≠ 0) :
    m.jump d ret target = .ok ((m.writeW d (m.me.pc + 4)).doneAt target) := by
  rw [Mach.jump, if_neg h31, if_pos h0]

theorem Mach.jump_plain (m : Mach) (target : Word) : m.jump 0 false target = .ok (m.doneAt target) := rfl

theorem Mach.jump_return_bad (m : Mach) (target : Word) {t : Trap} (h : m.needGood m.popReads = .error t) :
    m.jump 0 true target = .error t := by
  show (m.needGood m.popReads >>= _) = _
  rw [h]
  rfl

theorem Mach.jump_return_pop (m : Mach) (target : Word) {v : Word} {m' : Mach} (good : ∀ k ∈ m.popReads, k ∉ m.scratchBad)
    (pop : m.popLink = some (v, m')) : m.jump 0 true target = .ok ((m'.writeW 31 v).doneAt target) := by
  show (m.needGood m.popReads >>= fun _ => match m.popLink with
    | some (v, m) => .ok ((m.writeW 31 v).doneAt target)
    | none => .ok (m.doneAt target)) = _
  rw [m.needGood_ok good, pop]
  rfl

theorem Mach.jump_return_empty (m : Mach) (target : Word) (good : ∀ k ∈ m.popReads, k ∉ m.scratchBad)
    (pop : m.popLink = none) : m.jump 0 true target = .ok (m.doneAt target) := by
  show (m.needGood m.popReads >>= fun _ => match m.popLink with
    | some (v, m) => .ok ((m.writeW 31 v).doneAt target)
    | none => .ok (m.doneAt target)) = _
  rw [m.needGood_ok good, pop]
  rfl

end Sys2Proof.Machine

open Sys2Proof Sys2Proof.Machine

/-- Settles O6: each of the instructions is one write of w[d], and all that such a write changes is known. -/
theorem pipelineWriteFrame : Obligations.PipelineWriteFrame := by
  unfold Obligations.PipelineWriteFrame
  intro s d a b c imm n p q h g l ha hb hc fits hl i hi
  have writes : s.Writes d i := by
    rcases hi with listed | ⟨hd, rfl | rfl⟩
    · rw [hl] at listed
      rcases mem_take_or_drop 17 listed with two | listed
      · exact writes_alu2 s d ha hb i two
      rcases List.mem_cons.mp listed with rfl | listed
      · exact ⟨_, exec_sel s d hc ha hb⟩
      rcases mem_take_or_drop 10 listed with one | listed
      · exact writes_alu1 s d imm n ha i one
      rcases listed with _ | ⟨_, _ | ⟨_, _ | ⟨_, ⟨⟩⟩⟩⟩
      · exact ⟨_, exec_ext s ha fits⟩
      · exact ⟨_, exec_extI64 s ha fits⟩
      · exact ⟨_, rfl⟩
    · exact ⟨_, exec_ins s ha hd fits⟩
    · exact ⟨_, s.onMach_alu1 d _ hd⟩
  obtain ⟨v, runs⟩ := writes
  exact ⟨_, runs, rfl, fun h0 => (s.m.w_written d v h0).2, s.m.differs_writeW d v⟩

/-- Settles O5: by the place of the empty operand among those that the instruction reads. -/
theorem emptyOperandTraps : Obligations.EmptyOperandTraps := by
  unfold Obligations.EmptyOperandTraps
  intro s d a b c imm n p q h g f l first h0 empty fits hazard hfirst hl
  refine ⟨fun i hi => ?first, fun hb => ⟨fun i hi => ?second, fun hc => ?third⟩⟩
  case first =>
    rw [hfirst] at hi
    rcases mem_take_or_drop 17 hi with two | hi
    · exact empty_first_alu2 s h0 empty d b i two
    rcases mem_take_or_drop 4 hi with divide | hi
    · exact empty_first_divide s h0 empty d b i divide
    rcases List.mem_cons.mp hi with rfl | hi
    · exact exec_sel_empty s d b c h0 empty
    rcases mem_take_or_drop 10 hi with one | hi
    · exact empty_alu1 s h0 empty d imm n i one
    rcases mem_take_or_drop 3 hi with field | hi
    · exact empty_field s h0 empty d fits i field
    rcases List.mem_cons.mp hi with rfl | hi
    · exact onMach_alu1_empty s h0 empty a _
    rcases mem_take_or_drop 6 hi with branch | hi
    · exact empty_first_branch s h0 empty b f i branch
    · exact List.mem_singleton.mp hi ▸ exec_jalr_empty s h0 empty d imm
  case second =>
    rw [hl] at hi
    rcases mem_take_or_drop 17 hi with two | hi
    · exact empty_second_alu2 s h0 empty d hb i two
    rcases mem_take_or_drop 4 hi with divide | hi
    · exact empty_second_divide s h0 empty d hb i divide
    rcases List.mem_cons.mp hi with rfl | hi
    · exact (exec_sel_cond s d a c hb).trans (s.onMach_readW_empty _ h0 empty)
    rcases List.mem_cons.mp hi with rfl | branch
    · exact exec_ins_empty s h0 empty b fits hb
    · exact empty_second_branch s h0 empty f hb i branch
  case third => exact (exec_sel_first s d a hb hc).trans (s.onMach_readW_empty _ h0 empty)

/-- Settles O10: each goes on at some address, and a completion changes the issuing context alone. -/
theorem branchFrame : Obligations.BranchFrame := by
  unfold Obligations.BranchFrame
  intro s a b k f g l ha hb hk h31 hl i hi
  have jumps : s.Jumps i := by
    rw [hl] at hi
    rcases mem_take_or_drop 6 hi with branch | hi
    · exact jumps_branch s f ha hb i branch
    rcases mem_take_or_drop 2 hi with branch | hi
    · exact jumps_branchMask s f hk i branch
    rcases hi with _ | ⟨_, _ | ⟨_, ⟨⟩⟩⟩
    · exact ⟨_, exec_jal s g (s.m.jump_plain _)⟩
    · have no_return : (a == 31) = false := beq_false_of_ne h31
      exact ⟨_, exec_jalr s f ha (no_return ▸ s.m.jump_plain _)⟩
  obtain ⟨pc, runs⟩ := jumps
  exact ⟨_, pc, runs, rfl, s.m.differs_doneAt pc⟩

/-- Settles O8: by the destination of the jump, and then by the link stack and the words of its spill area. -/
theorem jumpsAndLinks : Obligations.JumpsAndLinks := by
  unfold Obligations.JumpsAndLinks
  intro s d a f imm ha h31 next jal jalr good bad
  refine ⟨?callBad, ?returnBad, ?returnBadEntry, ?call, ?callFull, ?link, exec_jal s f (s.m.jump_plain _), ?plain, ?pop,
    ?empty⟩
  case callBad =>
    rintro k rfl reads isBad
    have stops : s.m.needGood s.m.pushReads = .error { cause := .scratchUncorrectable, bad := lwOf k } :=
      reads ▸ s.m.needGood_head [] isBad
    exact ⟨exec_jal s f (s.m.jump_call_bad _ _ stops), exec_jalr s imm ha (s.m.jump_call_bad _ _ stops)⟩
  case returnBad =>
    rintro k ks rfl reads isBad
    exact exec_jalr s imm ha (s.m.jump_return_bad _ (reads ▸ s.m.needGood_head ks isBad))
  case returnBadEntry =>
    rintro k n rfl reads isGood isBad
    exact exec_jalr s imm ha (s.m.jump_return_bad _ (reads ▸ s.m.needGood_second isGood isBad))
  case call =>
    rintro rfl isGood room
    have free := s.m.linksFull_iff.mpr room
    exact ⟨exec_jal s f (s.m.jump_call _ _ h31 isGood free), exec_jalr s imm ha (s.m.jump_call _ _ h31 isGood free)⟩
  case callFull =>
    rintro rfl isGood noRoom
    have full : s.m.linksFull = true := by
      rw [← Bool.not_eq_false, s.m.linksFull_iff]
      exact noRoom
    exact ⟨exec_jal s f (s.m.jump_call_full _ _ isGood full), exec_jalr s imm ha (s.m.jump_call_full _ _ isGood full)⟩
  case link =>
    intro not31 not0
    exact ⟨exec_jal s f (s.m.jump_link _ _ not31 not0), exec_jalr s imm ha (s.m.jump_link _ _ not31 not0)⟩
  case plain =>
    intro not31
    have no_return : (a == 31) = false := beq_false_of_ne not31
    exact exec_jalr s imm ha (no_return ▸ s.m.jump_plain _)
  case pop =>
    rintro v m' rfl isGood pop
    exact exec_jalr s imm ha (s.m.jump_return_pop _ isGood pop)
  case empty =>
    rintro rfl isGood pop
    exact exec_jalr s imm ha (s.m.jump_return_empty _ isGood pop)

end

section
/-!
PROOF. The link stack as a stack (R251): what a push and a pop leave, spilled entries included, and O9.
-/
namespace Sys2Proof.Machine

/-! ### Words of the own frame after a write -/

theorem Mach.word_write_self (m : Mach) (k : Nat) (v : Word) : (m.write k 8 v.toNat).word k = v := by
  have below : v.toNat % 256 ^ 8 = v.toNat := Nat.mod_eq_of_lt v.isLt
  show BitVec.ofNat 64 (Mem.read (Mem.write m.mem k 8 v.toNat) k 8) = v
  rw [Mem.read_write_self, below, BitVec.ofNat_toNat, BitVec.setWidth_eq]

theorem Mach.word_write_out (m : Mach) (k v j : Nat) (h : j + 8 ≤ k ∨ k + 8 ≤ j) : (m.write k 8 v).word j = m.word j :=
  congrArg (BitVec.ofNat 64) (Mem.read_write_out m.mem k 8 v j 8 h)

/-- The place of an entry spilled at depth `n`, and of the depth itself. -/
def Mach.spillKey (m : Mach) (n : Nat) : Nat := m.regKey (1520 + 8 * n)
def Mach.depthKey (m : Mach) : Nat := m.regKey 1648

theorem Mach.spillKey_below (m : Mach) {n : Nat} (h : n < 16) : m.spillKey n + 8 ≤ m.depthKey := by
  simp only [Mach.spillKey, Mach.depthKey, Mach.regKey, scratchKey]
  omega

theorem Mach.linkDepth_eq (m : Mach) : m.linkDepth = (m.word m.depthKey).toNat % 16 := by
  rw [Mach.linkDepth, field, Nat.pow_zero, Nat.div_one]
  rfl

/-! ### The depth -/

@[simp] theorem Mach.me_setLinkDepth (m : Mach) (n : Nat) : (m.setLinkDepth n).me = m.me := rfl
@[simp] theorem Mach.depthKey_setLinkDepth (m : Mach) (n : Nat) : (m.setLinkDepth n).depthKey = m.depthKey := rfl
@[simp] theorem Mach.spillKey_setLinkDepth (m : Mach) (n k : Nat) : (m.setLinkDepth n).spillKey k = m.spillKey k := rfl

/-- The low four bits of the depth's word are the depth. -/
theorem low_four_of_or (x : Word) {n : Nat} (h : n < 16) :
    ((x &&& ~~~(0xF : Word)) ||| BitVec.ofNat 64 n).toNat % 16 = n := by
  have low : ∀ y : BitVec 4, ((x &&& ~~~(0xF : Word)) ||| y.setWidth 64).setWidth 4 = y := fun y => by
    ext i hi
    have cases4 : i = 0 ∨ i = 1 ∨ i = 2 ∨ i = 3 := by omega
    rcases cases4 with rfl | rfl | rfl | rfl <;> simp
  have value := congrArg BitVec.toNat (low (BitVec.ofNat 4 n))
  have widen : (BitVec.ofNat 4 n).setWidth 64 = BitVec.ofNat 64 n :=
    BitVec.eq_of_toNat_eq (by simp; omega)
  rw [widen, BitVec.toNat_setWidth, BitVec.toNat_ofNat, Nat.mod_eq_of_lt h] at value
  exact value

theorem Mach.linkDepth_setLinkDepth (m : Mach) {n : Nat} (h : n < 16) : (m.setLinkDepth n).linkDepth = n := by
  rw [Mach.linkDepth_eq, Mach.depthKey_setLinkDepth, Mach.setLinkDepth]
  show ((m.write m.depthKey 8 _).word m.depthKey).toNat % 16 = n
  rw [Mach.word_write_self]
  exact low_four_of_or _ h

theorem Mach.word_setLinkDepth (m : Mach) (n : Nat) {k : Nat} (h : k < 16) :
    (m.setLinkDepth n).word (m.spillKey k) = m.word (m.spillKey k) :=
  m.word_write_out _ _ _ (.inl (m.spillKey_below h))

/-! ### Links in the hardware stack -/

/-- The hardware stack replaced. -/
def Mach.withLinks (m : Mach) (ls : List Word) : Mach := m.modMe (fun x => { x with links := ls })

@[simp] theorem Mach.links_withLinks (m : Mach) (ls : List Word) : (m.withLinks ls).me.links = ls := by
  rw [Mach.withLinks, Mach.modMe_me]

@[simp] theorem Mach.depthKey_withLinks (m : Mach) (ls : List Word) : (m.withLinks ls).depthKey = m.depthKey := by
  rw [Mach.depthKey, Mach.depthKey, Mach.regKey, Mach.regKey, Mach.withLinks, Mach.modMe_me]
  rfl

@[simp] theorem Mach.spillKey_withLinks (m : Mach) (ls : List Word) (n : Nat) : (m.withLinks ls).spillKey n = m.spillKey n := by
  rw [Mach.spillKey, Mach.spillKey, Mach.regKey, Mach.regKey, Mach.withLinks, Mach.modMe_me]
  rfl

@[simp] theorem Mach.linkDepth_withLinks (m : Mach) (ls : List Word) : (m.withLinks ls).linkDepth = m.linkDepth := by
  rw [Mach.linkDepth_eq, Mach.linkDepth_eq, Mach.depthKey_withLinks]
  rfl

@[simp] theorem Mach.word_withLinks (m : Mach) (ls : List Word) (k : Nat) : (m.withLinks ls).word k = m.word k := rfl

/-! ### Pops -/

theorem Mach.popLink_cons (m : Mach) {v : Word} {ls : List Word} (h : m.me.links = v :: ls) :
    m.popLink = some (v, m.withLinks ls) := by
  rw [Mach.popLink, h]
  rfl

/-- A pop of an empty hardware stack takes the newest spilled entry. -/
theorem Mach.popLink_refill (m : Mach) (h : m.me.links = []) (spilled : 0 < m.linkDepth) :
    m.popLink = some (m.word (m.spillKey (m.linkDepth - 1)), m.setLinkDepth (m.linkDepth - 1)) := by
  rw [Mach.popLink, h]
  exact if_neg (Nat.ne_of_gt spilled)

theorem Mach.popLink_none (m : Mach) (h : m.me.links = []) (none : m.linkDepth = 0) : m.popLink = Option.none := by
  rw [Mach.popLink, h]
  exact if_pos none

/-! ### Pushes -/

theorem Mach.pushLink_room (m : Mach) (v : Word) (h : m.me.links.length < 8) :
    m.pushLink v = m.withLinks (v :: m.me.links) := if_pos h

/-- The oldest entry spilled, and the depth raised. -/
def Mach.spilled (m : Mach) (old : Word) : Mach :=
  ({ m.write (m.spillKey m.linkDepth) 8 old.toNat with
     scratchBad := eraseNat m.scratchBad (m.spillKey m.linkDepth) } : Mach).setLinkDepth (m.linkDepth + 1)

theorem Mach.pushLink_full (m : Mach) (v : Word) {old : Word} (h : ¬ m.me.links.length < 8)
    (oldest : m.me.links.getLast? = some old) : m.pushLink v = (m.spilled old).withLinks (v :: m.me.links.dropLast) := by
  rw [Mach.pushLink, if_neg h, oldest]
  rfl

@[simp] theorem Mach.spillKey_spilled (m : Mach) (old : Word) (n : Nat) : (m.spilled old).spillKey n = m.spillKey n := rfl

theorem Mach.linkDepth_spilled (m : Mach) (old : Word) (h : m.linkDepth < 8) : (m.spilled old).linkDepth = m.linkDepth + 1 :=
  Mach.linkDepth_setLinkDepth _ (by omega)

theorem Mach.word_spilled (m : Mach) (old : Word) (h : m.linkDepth < 8) : (m.spilled old).word (m.spillKey m.linkDepth) = old :=
  (Mach.word_setLinkDepth _ _ (by omega)).trans (m.word_write_self _ old)

/-- A refill after a spill brings the spilled entry back. -/
theorem Mach.popLink_spilled (m : Mach) (old : Word) (h : m.linkDepth < 8) (ls rest : List Word) :
    ((((m.spilled old).withLinks ls).withLinks rest).withLinks []).popLink =
      some (old, ((((m.spilled old).withLinks ls).withLinks rest).withLinks []).setLinkDepth m.linkDepth) := by
  have depth : ((((m.spilled old).withLinks ls).withLinks rest).withLinks []).linkDepth = m.linkDepth + 1 := by
    simp [m.linkDepth_spilled old h]
  rw [Mach.popLink_refill _ (by simp) (by omega), depth]
  simp [m.word_spilled old h]

/-- The depth as the statement reads it. -/
theorem Mach.depth_eq (m : Mach) : (m.word (m.regKey 1648)).toNat % 16 = m.linkDepth := m.linkDepth_eq.symm

theorem Mach.regKey_spill (m : Mach) (n : Nat) : m.regKey (1520 + 8 * n) = m.spillKey n := rfl

end Sys2Proof.Machine

open Sys2Proof Sys2Proof.Machine

/-- Settles O9: a push onto room, a push that spills, and a pop that refills. -/
theorem linkStackOrder : Obligations.LinkStackOrder := by
  unfold Obligations.LinkStackOrder
  intro m v
  simp only [Mach.depth_eq, Mach.regKey_spill]
  refine ⟨fun most below => ?push, fun none spilled => ?refill, fun none nothing => m.popLink_none none nothing⟩
  case push =>
    by_cases room : m.me.links.length < 8
    · have keeps : (m.withLinks (v :: m.me.links)).popLink = some (v, (m.withLinks (v :: m.me.links)).withLinks m.me.links) :=
        Mach.popLink_cons _ (by simp)
      rw [m.pushLink_room v room]
      exact ⟨_, keeps, by simp, fun _ => ⟨by simp, by simp, rfl⟩, fun old full => absurd full (Nat.ne_of_lt room)⟩
    · have nonempty : m.me.links ≠ [] := fun e => room (by rw [e]; decide)
      obtain ⟨old, oldest⟩ : ∃ old, m.me.links.getLast? = some old := ⟨_, List.getLast?_eq_some_getLast nonempty⟩
      have split : m.me.links = m.me.links.dropLast ++ [old] := (List.dropLast_append_getLast? old oldest).symm
      rw [m.pushLink_full v room oldest]
      refine ⟨_, Mach.popLink_cons _ (by simp; rfl), by simp, fun lt => absurd lt room, fun old' _ last => ?_⟩
      obtain rfl : old = old' := Option.some.inj (oldest.symm.trans last)
      exact ⟨by simpa using split, by simp [m.linkDepth_spilled old below], by simp [m.word_spilled old below],
        _, m.popLink_spilled old below _ _, Mach.linkDepth_setLinkDepth _ (by omega), by simp⟩
  case refill =>
    have depth : m.linkDepth - 1 < 16 := by
      have := m.linkDepth_eq
      omega
    exact ⟨_, m.popLink_refill none spilled, m.linkDepth_setLinkDepth depth, none⟩

end

section
/-!
PROOF. The canonical form of memory (log 1) under the integer instructions, stores to scratchpad words and traps, and O60.
-/
namespace Sys2Proof.Machine

/-! ### Traps -/

theorem Mach.msix_mem (m : Mach) (p v : Nat) : (m.msix p v).mem = m.mem := rfl

/-- An entry of the fault queue is no memory of the device. -/
theorem Mach.post_mem (m : Mach) (d p : Nat) (e : FqEntry) : (m.post d p e).mem = m.mem := by
  rw [Mach.post]
  dsimp only
  split
  · split
    · rfl
    · rfl
  · rfl

theorem Mach.hold_mem (m : Mach) (c x : Nat) (t : Trap) (pc : Word) : (m.hold c x t pc).mem = m.mem := by
  unfold Mach.hold
  dsimp only
  rw [Mach.post_mem, Mach.setCtx_mem, Mach.modCore_mem, Mach.modDiePart_mem]

theorem Mach.raise_wf (m : Mach) (h : Memory.wf m.mem) (c x : Nat) (t : Trap) (pc : Word) :
    Memory.wf (m.raise c x t pc).mem := by
  rw [Mach.raise]
  split
  case isTrue => exact (m.hold_mem c x t pc).symm ▸ h
  case isFalse => exact m.enterTrap_wf h c x t pc

theorem Mach.trapMe_wf (m : Mach) (h : Memory.wf m.mem) (t : Trap) : Memory.wf (m.trapMe t).mem := by
  rw [Mach.trapMe]
  split
  case isTrue => exact h
  case isFalse => exact m.lastHere.raise_wf h m.cur.core m.cur.ctx t m.me.pc

/-! ### Instructions: whatever they read, what they leave is in canonical form -/

/-- A result, if there is one, has its memory in canonical form. -/
def KeepsForm (r : Res Mach) : Prop := ∀ t, r = .ok t → Memory.wf t.mem

theorem keepsForm_ok {t : Mach} (h : Memory.wf t.mem) : KeepsForm (.ok t) := fun _ e => Except.ok.inj e ▸ h

theorem keepsForm_bind {α : Type} (read : Res α) {rest : α → Res Mach} (h : ∀ x, KeepsForm (rest x)) :
    KeepsForm (read >>= rest) := by
  cases read with
  | error e => exact fun _ hr => nomatch hr
  | ok x => exact h x

theorem Mach.settle_wf (m : Mach) (h : Memory.wf m.mem) {r : Res Mach} (keeps : KeepsForm r) : Memory.wf (m.settle r).mem := by
  cases r with
  | ok t => exact keeps t rfl
  | error t => exact m.trapMe_wf h t

theorem Mach.alu1_wf (m : Mach) (h : Memory.wf m.mem) (d a : BitVec 5) (f : Word → Word) : Memory.wf (m.alu1 d a f).mem :=
  m.settle_wf h (keepsForm_bind _ fun _ => keepsForm_ok (m.writeW_wf h d _))

theorem Mach.alu2_wf (m : Mach) (h : Memory.wf m.mem) (d a b : BitVec 5) (f : Word → Word → Word) :
    Memory.wf (m.alu2 d a b f).mem :=
  m.settle_wf h (keepsForm_bind _ fun _ => keepsForm_bind _ fun _ => keepsForm_ok (m.writeW_wf h d _))

theorem Mach.divide_wf (m : Mach) (h : Memory.wf m.mem) (d a b : BitVec 5) (f : Word → Word → Word) :
    Memory.wf (m.divide d a b f).mem := by
  refine m.settle_wf h (keepsForm_bind _ fun x => keepsForm_bind _ fun y => ?_)
  split
  case isTrue => exact fun _ e => nomatch e
  case isFalse =>
    refine keepsForm_ok ?_
    rw [Mach.done_mem, Mach.late_mem]
    exact h

/-- Every next state of the outcome has its memory in canonical form. -/
def OutcomeKeepsForm (o : Host.Outcome State Fault Refusal) : Prop := ∀ t, o = .next t → Memory.wf t.m.mem

/-- A meaning over the device alone that keeps the canonical form. -/
theorem onMach_keepsForm {s : State} {f : Mach → Mach} (keeps : Memory.wf (f s.m).mem) : OutcomeKeepsForm (s.onMach f) :=
  fun _ runs => Host.Outcome.next.inj runs ▸ keeps

section
variable {s : State} (h : Memory.wf s.m.mem)
include h

theorem onMach_alu1_keepsForm (d a : BitVec 5) (f : Word → Word) : OutcomeKeepsForm (s.onMach (fun m => m.alu1 d a f)) :=
  onMach_keepsForm (s.m.alu1_wf h d a f)

theorem onMach_alu2_keepsForm (d a b : BitVec 5) (f : Word → Word → Word) :
    OutcomeKeepsForm (s.onMach (fun m => m.alu2 d a b f)) := onMach_keepsForm (s.m.alu2_wf h d a b f)

theorem onMach_divide_keepsForm (d a b : BitVec 5) (f : Word → Word → Word) :
    OutcomeKeepsForm (s.onMach (fun m => m.divide d a b f)) := onMach_keepsForm (s.m.divide_wf h d a b f)

/-- The guard of the bit-field instructions: a trap, or the operation. -/
theorem onMach_fieldFits_keepsForm (p l : BitVec 6) (go : Mach → Mach) (keeps : Memory.wf (go s.m).mem) :
    OutcomeKeepsForm (s.onMach (fun m =>
      if 64 < p.toNat + l.toNat + 1 then m.trapMe { cause := .reservedField, bad := m.wordBad } else go m)) := by
  refine onMach_keepsForm ?_
  split
  case isTrue => exact s.m.trapMe_wf h _
  case isFalse => exact keeps

theorem keepsForm_alu2 (d a b : BitVec 5) :
    ∀ i ∈ [Instr.add d a b, .sub d a b, .and d a b, .or d a b, .xor d a b, .shl d a b, .shr d a b, .sha d a b,
      .slt d a b, .sltN64 d a b, .min d a b, .minN64 d a b, .max d a b, .maxN64 d a b, .mul d a b, .mulh d a b,
      .mulhN64 d a b], OutcomeKeepsForm (exec i s) := by
  simp only [List.forall_mem_cons, List.not_mem_nil, false_implies, implies_true, and_true]
  and_intros <;> exact onMach_alu2_keepsForm h d a b _

theorem keepsForm_alu1 (d a : BitVec 5) (imm : BitVec 15) (n : BitVec 6) :
    ∀ i ∈ [Instr.addi d a imm, .andi d a imm, .ori d a imm, .xori d a imm, .slti d a imm, .shlImm d a n, .shrImm d a n,
      .shaImm d a n, .clz d a, .popc d a], OutcomeKeepsForm (exec i s) := by
  simp only [List.forall_mem_cons, List.not_mem_nil, false_implies, implies_true, and_true]
  and_intros <;> exact onMach_alu1_keepsForm h d a _

theorem keepsForm_field (d a : BitVec 5) (p l : BitVec 6) :
    ∀ i ∈ [Instr.ext d a p l, .extI64 d a p l, .ins d a p l], OutcomeKeepsForm (exec i s) := by
  simp only [List.forall_mem_cons, List.not_mem_nil, false_implies, implies_true, and_true]
  and_intros
  · exact onMach_fieldFits_keepsForm h p l (fun m => m.alu1 d a _) (s.m.alu1_wf h d a _)
  · exact onMach_fieldFits_keepsForm h p l (fun m => m.alu1 d a _) (s.m.alu1_wf h d a _)
  · exact onMach_fieldFits_keepsForm h p l (fun m => m.alu2 d a d _) (s.m.alu2_wf h d a d _)

theorem keepsForm_divide (d a b : BitVec 5) :
    ∀ i ∈ [Instr.div d a b, .divN64 d a b, .rem d a b, .remN64 d a b], OutcomeKeepsForm (exec i s) := by
  simp only [List.forall_mem_cons, List.not_mem_nil, false_implies, implies_true, and_true]
  and_intros <;> exact onMach_divide_keepsForm h d a b _

theorem keepsForm_sel (d a b c : BitVec 5) : OutcomeKeepsForm (exec (.sel d a b c) s) := by
  rw [exec_sel_eq]
  exact onMach_keepsForm (s.m.settle_wf h (keepsForm_bind _ fun _ => keepsForm_bind _ fun _ => keepsForm_bind _ fun _ =>
    keepsForm_ok (s.m.writeW_wf h d _)))

theorem keepsForm_lic (d : BitVec 5) (q : BitVec 2) (g : BitVec 16) : OutcomeKeepsForm (exec (.lic d q g) s) :=
  onMach_alu1_keepsForm h d d _

theorem keepsForm_licZ (d : BitVec 5) (q : BitVec 2) (g : BitVec 16) : OutcomeKeepsForm (exec (.licZ d q g) s) :=
  onMach_keepsForm (f := fun m => (m.writeW d (putChunk 0 q g)).done) (s.m.writeW_wf h d _)

end

end Sys2Proof.Machine

open Sys2Proof Sys2Proof.Machine

/-- Settles O60: an instruction reads, and then traps or writes one register; a store and a trap entry write bytes. -/
theorem canonicalMemoryKept : Obligations.CanonicalMemoryKept := by
  unfold Obligations.CanonicalMemoryKept
  refine ⟨fun s t d a b c imm n p q h g i wf hi => ?instructions, fun m c x bytes t pc wf => ?stores⟩
  case instructions =>
    suffices keeps : OutcomeKeepsForm (exec i s) from keeps t
    rcases mem_take_or_drop 17 hi with two | hi
    · exact keepsForm_alu2 wf d a b i two
    rcases List.mem_cons.mp hi with rfl | hi
    · exact keepsForm_sel wf d a b c
    rcases mem_take_or_drop 10 hi with one | hi
    · exact keepsForm_alu1 wf d a imm n i one
    rcases mem_take_or_drop 3 hi with field | hi
    · exact keepsForm_field wf d a p q i field
    rcases List.mem_cons.mp hi with rfl | hi
    · exact keepsForm_lic wf d h g
    rcases List.mem_cons.mp hi with rfl | divide
    · exact keepsForm_licZ wf d h g
    · exact keepsForm_divide wf d a b i divide
  case stores =>
    exact ⟨Memory.wf_writeAll wf _, m.storeOwn_wf wf c bytes, m.settleOwn_wf wf c, m.enterTrap_wf wf c x t pc⟩

end

section
/-!
PROOF. Scalar floating point (R373 to R375, R377): the code written and the flags raised, what stays, and O11 and O12.
-/
namespace Sys2Proof.Machine

/-- The state after a pipeline float instruction with result `v`, flags `fl` and generator `g` (R211, R213). -/
def State.floatOut (s : State) (d : BitVec 5) (v : Word) (fl : BitVec 5) (g : BitVec 32) : State :=
  s.on ((s.m.writeW d v).flagged fl g).done

/-- The state after a float instruction whose result comes late, with its flags (R211). -/
def State.floatLate (s : State) (d : BitVec 5) (r : Nat × BitVec 5) (g : BitVec 32) : State :=
  s.on ((s.m.late (s.m.lateW d) (.value r.1 r.2)).flagged 0 g).done

/-! ### The result of each instruction whose operands may be read -/

section
variable (s : State) {a b c : BitVec 5} (d : BitVec 5) (t : BitVec 3)

/-- The draw of a rounding, and the generator after it (R213). -/
def Mach.draw (m : Mach) (f : Fmt) : Nat × BitVec 32 := takeDraw m.rm f.width m.me.gen

theorem State.onMach_float2 (op : Fmt → Nat → Bool → Nat → FVal → FVal → Nat × BitVec 5) (ha : s.m.canReadW a)
    (hb : s.m.canReadW b) :
    let f := fmtOf t.toNat
    let r := op f s.m.rm s.m.sat (s.m.draw f).1 (operandF f (s.m.w a)) (operandF f (s.m.w b))
    s.onMach (fun m => m.float2 d a b t op) = .next (s.floatOut d (BitVec.ofNat 64 r.1) r.2 (s.m.draw f).2) := by
  refine s.onMach_eq ?_
  rw [Mach.float2, s.m.readW_ok ha, s.m.readW_ok hb]
  rfl

theorem State.onMach_floatMinMax (wantMax : Bool) (ha : s.m.canReadW a) (hb : s.m.canReadW b) :
    let f := fmtOf t.toNat
    let r := minMaxF f wantMax ((s.m.w a).toNat % 2 ^ f.width) ((s.m.w b).toNat % 2 ^ f.width)
    s.onMach (fun m => m.floatMinMax d a b t wantMax) = .next (s.floatOut d (BitVec.ofNat 64 r.1) r.2 s.m.me.gen) := by
  refine s.onMach_eq ?_
  rw [Mach.floatMinMax, s.m.readW_ok ha, s.m.readW_ok hb]
  rfl

theorem exec_ffma (ha : s.m.canReadW a) (hb : s.m.canReadW b) (hc : s.m.canReadW c) :
    let f := fmtOf t.toNat
    let r := fmaF f s.m.rm s.m.sat (s.m.draw f).1 (operandF f (s.m.w a)) (operandF f (s.m.w b)) (operandF f (s.m.w c))
    exec (.ffma d a b c t) s = .next (s.floatOut d (BitVec.ofNat 64 r.1) r.2 (s.m.draw f).2) := by
  show execFfma d a b c t s = _
  refine s.onMach_eq ?_
  rw [s.m.readW_ok ha, s.m.readW_ok hb, s.m.readW_ok hc]
  rfl

theorem exec_fcmp (k : BitVec 3) (ha : s.m.canReadW a) (hb : s.m.canReadW b) :
    let f := fmtOf t.toNat
    let r := compareF k.toNat (operandF f (s.m.w a)) (operandF f (s.m.w b))
    exec (.fcmp d a b t k) s = .next (s.floatOut d (ofBool r.1) r.2 s.m.me.gen) := by
  show execFcmp d a b t k s = _
  refine s.onMach_eq ?_
  rw [s.m.readW_ok ha, s.m.readW_ok hb]
  rfl

theorem exec_fcvt (x y : BitVec 3) (ha : s.m.canReadW a) :
    let w := if x.toNat ≤ 2 then (fmtOf x.toNat).width else 64
    let draw := takeDraw s.m.rm w s.m.me.gen
    let r := convertScalar x.toNat y.toNat s.m.rm s.m.sat draw.1 (s.m.w a)
    exec (.fcvt d a x y) s = .next (s.floatOut d r.1 r.2 draw.2) := by
  show execFcvt d a x y s = _
  refine s.onMach_eq ?_
  rw [s.m.readW_ok ha]
  rfl

theorem exec_fdiv (ha : s.m.canReadW a) (hb : s.m.canReadW b) :
    let f := fmtOf t.toNat
    let r := divF f s.m.rm s.m.sat (s.m.draw f).1 (operandF f (s.m.w a)) (operandF f (s.m.w b))
    exec (.fdiv d a b t) s = .next (s.floatLate d r (s.m.draw f).2) := by
  show execFdiv d a b t s = _
  refine s.onMach_eq ?_
  rw [s.m.readW_ok ha, s.m.readW_ok hb]
  rfl

theorem exec_fsqrt (ha : s.m.canReadW a) :
    let f := fmtOf t.toNat
    exec (.fsqrt d a t) s =
      .next (s.floatLate d (sqrtF f s.m.rm s.m.sat (s.m.draw f).1 (operandF f (s.m.w a))) (s.m.draw f).2) := by
  show execFsqrt d a t s = _
  refine s.onMach_eq ?_
  rw [s.m.readW_ok ha]
  rfl

end

/-- The truth value written by a compare is the number that the statement gives. -/
theorem ofBool_eq (b : Bool) : ofBool b = BitVec.ofNat 64 (if b = true then 1 else 0) := by
  cases b <;> rfl

/-- The instruction is a pipeline float instruction: it writes w[d], raises flags and leaves a generator. -/
def State.WritesFloat (s : State) (d : BitVec 5) (i : Instr) : Prop := ∃ v fl g, exec i s = .next (s.floatOut d v fl g)

theorem writesFloat (s : State) {a b c : BitVec 5} (d : BitVec 5) (t k x y : BitVec 3) (ha : s.m.canReadW a)
    (hb : s.m.canReadW b) (hc : s.m.canReadW c) :
    ∀ i ∈ [Instr.fadd d a b t, .fsub d a b t, .fmul d a b t, .ffma d a b c t, .fmin d a b t, .fmax d a b t,
      .fcmp d a b t k, .fcvt d a x y], s.WritesFloat d i := by
  simp only [List.forall_mem_cons, List.not_mem_nil, false_implies, implies_true, and_true]
  exact ⟨⟨_, _, _, s.onMach_float2 d t _ ha hb⟩, ⟨_, _, _, s.onMach_float2 d t _ ha hb⟩,
    ⟨_, _, _, s.onMach_float2 d t _ ha hb⟩, ⟨_, _, _, exec_ffma s d t ha hb hc⟩,
    ⟨_, _, _, s.onMach_floatMinMax d t _ ha hb⟩, ⟨_, _, _, s.onMach_floatMinMax d t _ ha hb⟩,
    ⟨_, _, _, exec_fcmp s d t k ha hb⟩, ⟨_, _, _, exec_fcvt s d x y ha⟩⟩

end Sys2Proof.Machine

open Sys2Proof Sys2Proof.Machine

/-- Settles O11: each instruction reads its operands, rounds once with its draw, and writes at once or late. -/
theorem scalarFloat : Obligations.ScalarFloat := by
  unfold Obligations.ScalarFloat
  refine ⟨fun s d a b c t k x y ha hb hc => ⟨?fadd, ?fsub, ?fmul, ?ffma, ?fmin, ?fmax, ?fcmp, ?fcvt⟩,
    fun s d a b t ha hb => ⟨?fdiv, ?fsqrt⟩⟩
  case fadd | fsub | fmul => exact s.onMach_float2 d t _ ha hb
  case ffma => exact exec_ffma s d t ha hb hc
  case fmin | fmax => exact s.onMach_floatMinMax d t _ ha hb
  case fcmp =>
    refine (exec_fcmp s d t k ha hb).trans ?_
    rw [ofBool_eq]
    rfl
  case fcvt => exact exec_fcvt s d x y ha
  case fdiv => exact exec_fdiv s d t ha hb
  case fsqrt => exact exec_fsqrt s d t ha

/-- Settles O12: each is one write of w[d] with its flags and generator, and all that such a write changes is known. -/
theorem scalarFloatFrame : Obligations.ScalarFloatFrame := by
  unfold Obligations.ScalarFloatFrame
  intro s d a b c t k x y l ha hb hc hl i hi
  obtain ⟨v, fl, g, runs⟩ := writesFloat s d t k x y ha hb hc i (hl ▸ hi)
  exact ⟨_, fl, g, runs, rfl, s.m.differs_flagged d v fl g⟩

end

section
/-!
PROOF. Vector arithmetic (R425, R426, R427, R429 to R432): what each element and each lane gets, what stays, and O13, O14,
O15 and O18.
-/
namespace Sys2Proof.Machine

/-! ### Integer elements in numbers (R321) -/

/-- The number that an element of an integer type is, as the statements write it. -/
def elemNum (w : Nat) (sg : Bool) (x : Nat) : Int := if sg && decide (2 ^ (w - 1) ≤ x) then (x : Int) - 2 ^ w else x

theorem intOf_elem {w : Nat} (sg : Bool) {x : Nat} (h : x < 2 ^ w) : intOf w sg x = elemNum w sg x := by
  simp [intOf, elemNum, Nat.mod_eq_of_lt h]

theorem sub_wrap {w x y : Nat} (hy : y < 2 ^ w) : ((x - y : Int) % 2 ^ w).toNat = (x + 2 ^ w - y) % 2 ^ w := by
  have shift : (x : Int) - y = ((x + 2 ^ w - y : Nat) : Int) - 2 ^ w := by
    rw [Nat.cast_sub (by omega)]
    push_cast
    ring
  rw [shift, Int.sub_emod_right]
  exact congrArg Int.toNat (Int.natCast_mod _ _).symm

theorem shiftRight_elem {w : Nat} (sg : Bool) {x : Nat} (n : Nat) (h : x < 2 ^ w) :
    shiftRight w sg x n = (elemNum w sg x / 2 ^ n % 2 ^ w).toNat := by
  rw [shiftRight, intOf_elem sg h]
  push_cast
  rfl

theorem toNat_emod_lt (z : Int) (w : Nat) : (z % 2 ^ w).toNat < 2 ^ w := by
  have positive : (0 : Int) < 2 ^ w := by positivity
  have below := Int.emod_lt_of_pos z positive
  have := Int.emod_nonneg z (ne_of_gt positive)
  zify
  omega

/-- The choice of an element between two stays below the bound of both. -/
theorem ite_lt_bound {p : Prop} [Decidable p] {x y n : Nat} (hx : x < n) (hy : y < n) : (if p then y else x) < n := by
  split
  · exact hy
  · exact hx

/-! ### Vector instructions whose reads succeed -/

section
variable {m m1 : Mach} {d : BitVec 4} {srcs : List (BitVec 4)} {k : BitVec 3} {mask : BitVec 16} {val : BitVec 4 → V}

/-- An element operation: the elements in order, merged under the mask, with their flags and draws (R424). -/
theorem Mach.vecElems_ok (w : Nat) (f : Mach → (BitVec 4 → V) → Nat → BitVec 32 → Nat × BitVec 5 × BitVec 32)
    (h : m.vecReads (some d) srcs k = some (m1, mask, val)) :
    let r := elementwise w mask m1.me.gen (f m1 val)
    m.vecElems d srcs k w f = ((m1.writeV d (blend mask r.1 (m1.vimage d))).flagged r.2.1 r.2.2).done := by
  rw [Mach.vecElems, m.vecOp_ok _ h]
  rfl

/-- An operation on whole lanes (R426). -/
theorem Mach.vecLanes_ok {a b : BitVec 4} (f : V → V → Nat → BitVec 32)
    (h : m.vecReads (some d) [a, b] k = some (m1, mask, val)) :
    m.vecLanes d a b k f = (m1.writeV d (blend mask (lanesOf (f (val a) (val b))) (m1.vimage d))).done := by
  rw [Mach.vecLanes, m.vecOp_ok _ h]
  rfl

end

/-- The reads of no vector register change nothing, and the scalar source may be read. -/
theorem Mach.vecReads_scalar {m m1 : Mach} {dest : Option (BitVec 4)} {k : BitVec 3} {w : BitVec 5} {mask : BitVec 16}
    {val : BitVec 4 → V} (h : m.vecReads dest [] k [w] = some (m1, mask, val)) : m1 = m ∧ m.readW w = .ok (m.w w) := by
  unfold Mach.vecReads at h
  split at h
  case isFalse => exact nomatch h
  case isTrue ready =>
    rw [Bool.and_eq_true] at ready
    cases hm : m.readM k with
    | error e => simp [Mach.readVs, hm] at h
    | ok x =>
      simp only [Mach.readVs, hm, Option.some.injEq, Prod.mk.injEq] at h
      refine ⟨h.1.symm, ?_⟩
      have operands := m.operandsFull_ok ready.1
      simp only [Mach.needOperands, Mach.needVs, hm, Mach.needWs] at operands
      by_cases zero : w = 0
      · simp [zero, Mach.readW, Mach.w]
      · rw [Mach.readW, if_neg zero] at operands ⊢
        rw [Mach.w, if_neg zero]
        cases word : m.needWord (m.wKey w) with
        | error e => simp [word, Except.map] at operands
        | ok u => rfl

/-- A destination that is no bound port, with no vector source, lets a vector instruction go on. -/
theorem Mach.portsReady_unbound (m : Mach) {d : BitVec 4} (h : m.port d = .unbound) : m.portsReady (some d) [] := by
  simp [Mach.portsReady, Mach.destOk, h, Mach.streamWait]

theorem exec_vins (s : State) {d : BitVec 4} {w : BitVec 5} (l : BitVec 4) (unbound : s.m.port d = .unbound)
    (hw : s.m.canReadW w) :
    exec (.vins w d l) s =
      .next (s.on (s.m.putReg (s.m.vKey d + 4 * l.toNat) 4 ((s.m.w w).toNat % 2 ^ 32)).done) := by
  show execVins w d l s = _
  refine s.onMach_eq ?_
  rw [s.m.operandsFull_one hw, s.m.popping_ok _ (s.m.portsReady_unbound unbound), s.m.readW_ok hw, unbound]
  show (s.m.putReg _ 4 ((s.m.w w).setWidth 32).toNat).done = _
  rw [BitVec.toNat_setWidth]

theorem exec_vbcast (s : State) {d : BitVec 4} {w : BitVec 5} {k : BitVec 3} {m1 : Mach} {mask : BitVec 16}
    {val : BitVec 4 → V} (h : s.m.vecReads (some d) [] k [w] = some (m1, mask, val)) :
    exec (.vbcast d w k) s =
      .next (s.on (m1.writeV d (blend mask (lanesOf (fun _ => (s.m.w w).setWidth 32)) (m1.vimage d))).done) := by
  show execVbcast d w k s = _
  refine s.onMach_eq ?_
  obtain ⟨rfl, readable⟩ := Mach.vecReads_scalar h
  rw [s.m.vecOp_ok _ h, readable]
  rfl

/-! ### What a write of a vector register that is no bound port changes (R20) -/

/-- Filling words changes their full/empty bits and nothing else. -/
theorem Mach.fillAll_eq (m : Mach) (ks : List Nat) : m.fillAll ks = { m with empties := ks.foldl eraseNat m.empties } := by
  induction ks generalizing m with
  | nil => rfl
  | cons n ks ih => exact (ih (m.fill n)).trans rfl

theorem mem_foldl_eraseNat (ks l : List Nat) (n : Nat) : n ∈ ks.foldl eraseNat l ↔ n ∉ ks ∧ n ∈ l := by
  induction ks generalizing l with
  | nil => simp
  | cons a ks ih =>
    rw [List.foldl_cons, ih, mem_eraseNat, List.mem_cons]
    tauto

/-- A write of v[d] changes memory, full/empty bits and check symbols, and nothing else. -/
theorem Mach.putImage_eq (m : Mach) (d : BitVec 4) (v : V) :
    m.putImage d v = { m with mem := Mem.write m.mem (m.vKey d) 64 v.toNat,
                              empties := (m.vKeys d).foldl eraseNat m.empties,
                              scratchBad := m.scratchBad.filter (fun k => !(m.vKeys d).contains k) } := by
  rw [Mach.putImage, Mach.fillAll_eq, Mach.write]

theorem Mach.putImage_cur (m : Mach) (d : BitVec 4) (v : V) : (m.putImage d v).cur = m.cur := by rw [m.putImage_eq]
theorem Mach.putImage_ctxs (m : Mach) (d : BitVec 4) (v : V) : (m.putImage d v).ctxs = m.ctxs := by rw [m.putImage_eq]

theorem Mach.me_putImage (m : Mach) (d : BitVec 4) (v : V) : (m.putImage d v).me = m.me := by
  rw [Mach.me, Mach.me, Mach.ctx, Mach.ctx, m.putImage_cur, m.putImage_ctxs]

theorem Mach.writeV_unbound (m : Mach) {d : BitVec 4} (v : V) (h : m.port d = .unbound) : m.writeV d v = m.putImage d v := by
  have same_port : (m.putImage d v).port d = .unbound := by
    rw [Mach.port, m.me_putImage]
    exact h
  have no_push : m.pushKeys d = [] := by rw [Mach.pushKeys, h]
  rw [Mach.writeV, no_push, List.foldl_nil, Mach.portWritten, same_port]

theorem Mach.mem_vKeys (m : Mach) (d : BitVec 4) (n : Nat) : n ∈ m.vKeys d ↔ ∃ i, i < 8 ∧ m.vKey d + 8 * i = n := by
  simp [Mach.vKeys]

theorem Mach.full_putImage (m : Mach) (d : BitVec 4) (v : V) (n : Nat) :
    (m.putImage d v).full n = ((m.vKeys d).contains n || m.full n) := by
  rw [m.putImage_eq, Bool.eq_iff_iff]
  simp only [Mach.full, Bool.not_eq_true', Bool.or_eq_true, List.contains_eq_mem, decide_eq_true_eq,
    decide_eq_false_iff_not, mem_foldl_eraseNat]
  tauto

theorem Mach.full_setMe (m : Mach) (x : Ctx) (n : Nat) : (m.setMe x).full n = m.full n := rfl

/-- The bytes of v[d]. -/
def Mach.inV (m : Mach) (d : BitVec 4) (p : Nat) : Prop := m.vKey d ≤ p ∧ p < m.vKey d + 64

theorem Mach.inV_of_mem_vKeys (m : Mach) {d : BitVec 4} {n : Nat} (h : n ∈ m.vKeys d) : m.inV d n := by
  obtain ⟨i, hi, rfl⟩ := (m.mem_vKeys d n).mp h
  exact ⟨by omega, by omega⟩

theorem Mach.get_putImage_out (m : Mach) (d : BitVec 4) (v : V) {p : Nat} (h : ¬ m.inV d p) :
    Mem.get (m.putImage d v).mem p = Mem.get m.mem p := by
  rw [m.putImage_eq]
  refine Mem.get_write_out m.mem (m.vKey d) 64 v.toNat p ?_
  rw [Mach.inV, not_and, Nat.not_lt] at h
  omega

theorem Mach.putImage_bads (m : Mach) (d : BitVec 4) (v : V) {n : Nat} (h : ¬ m.inV d n) :
    (m.putImage d v).scratchBad.contains n = m.scratchBad.contains n := by
  have other : n ∉ m.vKeys d := fun e => h (m.inV_of_mem_vKeys e)
  rw [m.putImage_eq, Bool.eq_iff_iff]
  simp [other]

/-- Memory, full/empty bits and check symbols change inside only, and then the issuing context does. -/
theorem Mach.differs_setMe {m t : Mach} {inside : Nat → Prop}
    (rest : t = { m with mem := t.mem, empties := t.empties, scratchBad := t.scratchBad })
    (bytes : ∀ p, ¬ inside p → Mem.get t.mem p = Mem.get m.mem p) (fulls : ∀ n, ¬ inside n → t.full n = m.full n)
    (bads : ∀ n, ¬ inside n → t.scratchBad.contains n = m.scratchBad.contains n) (x : Ctx) :
    m.Differs (t.setMe x) inside x := by
  have cur : t.cur = m.cur := by rw [rest]
  have ctxs : t.ctxs = m.ctxs := by rw [rest]
  refine ⟨?_, bytes, fun n out _ => fulls n out, fun n out _ => bads n out, fun c y other => ?_, Mach.me_setMe _ x⟩
  · rw [rest]
    rfl
  · rw [Mach.setMe, Mach.ctx_setCtx_ne _ _ (cur ▸ other), Mach.ctx, Mach.ctx, ctxs]

/-- Any change of the issuing context alone after a write of v[d]. -/
theorem Mach.differs_putImage (m : Mach) (d : BitVec 4) (v : V) (x : Ctx) :
    m.Differs ((m.putImage d v).setMe x) (m.inV d) x := by
  refine Mach.differs_setMe (by rw [m.putImage_eq]) (fun p out => m.get_putImage_out d v out) (fun n out => ?_)
    (fun n out => m.putImage_bads d v out) x
  have other : n ∉ m.vKeys d := fun e => out (m.inV_of_mem_vKeys e)
  rw [m.full_putImage, List.contains_eq_mem, decide_eq_false other, Bool.false_or]

theorem Table.set_set {α : Type} (t : Table α) (n : Nat) (x y : α) : Table.set (Table.set t n x) n y = Table.set t n y := by
  induction t with
  | nil => simp [Table.set]
  | cons e t ih =>
    by_cases below : e.1 < n
    · simp [Table.set, below, ih]
    · by_cases here : e.1 = n
      · simp [Table.set, here]
      · simp [Table.set, below, here]

/-- Two changes of the issuing context are one. -/
theorem Mach.setMe_setMe (m : Mach) (x y : Ctx) : (m.setMe x).setMe y = m.setMe y := by
  simp only [Mach.setMe, Mach.setCtx, Table.set_set]

/-- A completion, with flags and a generator, is one change of the issuing context. -/
theorem Mach.flagged_done (m : Mach) (fl : BitVec 5) (g : BitVec 32) :
    (m.flagged fl g).done = m.setMe { m.inSequence with fpflags := m.me.fpflags ||| fl, gen := g } := by
  rw [Mach.done, Mach.doneAt, Mach.modMe, Mach.flagged, Mach.modMe, Mach.setMe_setMe, Mach.me_setMe]
  rfl

theorem Mach.done_eq (m : Mach) : m.done = (m.flagged 0 m.me.gen).done := by
  have unraised : m.me.fpflags ||| 0 = m.me.fpflags := BitVec.or_zero
  rw [m.flagged_done, unraised]
  rfl

/-- The instruction writes v[d], raises flags and leaves a generator (R20, R424). -/
def State.WritesV (s : State) (d : BitVec 4) (i : Instr) : Prop :=
  ∃ v fl g, exec i s = .next (s.on ((s.m.writeV d v).flagged fl g).done)

theorem writesV_of_done {s : State} {d : BitVec 4} {i : Instr} {v : V}
    (h : exec i s = .next (s.on (s.m.writeV d v).done)) : s.WritesV d i :=
  ⟨v, 0, _, by rw [h, Mach.done_eq]⟩

section
variable {s : State} {m1 : Mach} {d a b c : BitVec 4} {k : BitVec 3} {mask : BitVec 16} {val : BitVec 4 → V}

theorem onMach_vecElems {srcs : List (BitVec 4)} (w : Nat)
    (f : Mach → (BitVec 4 → V) → Nat → BitVec 32 → Nat × BitVec 5 × BitVec 32)
    (h : s.m.vecReads (some d) srcs k = some (m1, mask, val)) :
    let r := elementwise w mask m1.me.gen (f m1 val)
    s.onMach (fun m => m.vecElems d srcs k w f) =
      .next (s.on ((m1.writeV d (blend mask r.1 (m1.vimage d))).flagged r.2.1 r.2.2).done) :=
  s.onMach_eq (Mach.vecElems_ok w f h)

theorem onMach_vecLanes (f : V → V → Nat → BitVec 32) (h : s.m.vecReads (some d) [a, b] k = some (m1, mask, val)) :
    s.onMach (fun m => m.vecLanes d a b k f) =
      .next (s.on (m1.writeV d (blend mask (lanesOf (f (val a) (val b))) (m1.vimage d))).done) :=
  s.onMach_eq (Mach.vecLanes_ok f h)

theorem exec_vsel (h : s.m.vecReads (some d) [a, b] k = some (m1, mask, val)) :
    exec (.vsel d a b k) s = .next (s.on (m1.writeV d (blend mask (val a) (val b))).done) :=
  s.onMach_eq (f := fun m => m.vecOp (some d) [a, b] k
    (fun m mask val => .ok (m.writeV d (blend mask (val a) (val b))).done)) (s.m.vecOp_ok _ h)

theorem exec_vextN32 {w : BitVec 5} (l : BitVec 4) (h : s.m.vecReads none [a] 0 = some (m1, mask, val)) :
    exec (.vextN32 w a l) s = .next (s.on (m1.writeW w ((lane (val a) l.toNat).setWidth 64)).done) :=
  s.onMach_eq (f := fun m => m.vecOp none [a] 0
    (fun m _ val => .ok (m.writeW w ((lane (val a) l.toNat).setWidth 64)).done)) (s.m.vecOp_ok _ h)

theorem exec_vextI32 {w : BitVec 5} (l : BitVec 4) (h : s.m.vecReads none [a] 0 = some (m1, mask, val)) :
    exec (.vextI32 w a l) s = .next (s.on (m1.writeW w ((lane (val a) l.toNat).signExtend 64)).done) :=
  s.onMach_eq (f := fun m => m.vecOp none [a] 0
    (fun m _ val => .ok (m.writeW w ((lane (val a) l.toNat).signExtend 64)).done)) (s.m.vecOp_ok _ h)

/-- A float instruction on two registers: one rounding for each element (R425). -/
theorem onMach_vecFloat (t : BitVec 3) (op : Fmt → Nat → Bool → Nat → FVal → FVal → Nat × BitVec 5)
    (h : s.m.vecReads (some d) [a, b] k = some (m1, mask, val)) :
    let f := fmtOf t.toNat
    let r := elementwise f.width mask m1.me.gen (fun j g => m1.roundElem f g (fun rm sat dr =>
      op f rm sat dr (decodeF f (elem (val a) f.width j)) (decodeF f (elem (val b) f.width j))))
    s.onMach (fun m => m.vecFloat d a b k t op) =
      .next (s.on ((m1.writeV d (blend mask r.1 (m1.vimage d))).flagged r.2.1 r.2.2).done) :=
  onMach_vecElems (fmtOf t.toNat).width (fun m val j g => m.roundElem (fmtOf t.toNat) g (fun rm sat dr =>
    op (fmtOf t.toNat) rm sat dr (decodeF (fmtOf t.toNat) (elem (val a) (fmtOf t.toNat).width j))
      (decodeF (fmtOf t.toNat) (elem (val b) (fmtOf t.toNat).width j)))) h

/-- A float minimum or maximum of each element: no rounding and no draw (R218). -/
theorem onMach_vecMinMax (t : BitVec 3) (wantMax : Bool) (h : s.m.vecReads (some d) [a, b] k = some (m1, mask, val)) :
    let f := fmtOf t.toNat
    let r := elementwise f.width mask m1.me.gen (fun j g =>
      ((minMaxF f wantMax (elem (val a) f.width j) (elem (val b) f.width j)).1,
       (minMaxF f wantMax (elem (val a) f.width j) (elem (val b) f.width j)).2, g))
    s.onMach (fun m => m.vecMinMax d a b k t wantMax) =
      .next (s.on ((m1.writeV d (blend mask r.1 (m1.vimage d))).flagged r.2.1 r.2.2).done) :=
  onMach_vecElems (fmtOf t.toNat).width (fun _ val j g =>
    ((minMaxF (fmtOf t.toNat) wantMax (elem (val a) (fmtOf t.toNat).width j) (elem (val b) (fmtOf t.toNat).width j)).1,
     (minMaxF (fmtOf t.toNat) wantMax (elem (val a) (fmtOf t.toNat).width j) (elem (val b) (fmtOf t.toNat).width j)).2, g))
    h

/-- An integer instruction on two registers writes v[d] (R425). -/
theorem onMach_vecInt_writes (t : BitVec 3) (f : Nat → Bool → Nat → Nat → Nat)
    (h : s.m.vecReads (some d) [a, b] k = some (s.m, mask, val)) :
    ∃ v fl g, s.onMach (fun m => m.vecInt d a b k t f) = .next (s.on ((s.m.writeV d v).flagged fl g).done) :=
  ⟨_, _, _, onMach_vecElems (vintWidth t) (fun _ val j g =>
    (f (vintWidth t) (vintSigned t) (elem (val a) (vintWidth t) j) (elem (val b) (vintWidth t) j), 0, g)) h⟩

theorem writesV_int (t : BitVec 3) (h : s.m.vecReads (some d) [a, b] k = some (s.m, mask, val)) :
    ∀ i ∈ [Instr.vaddInt d a b k t, .vsubInt d a b k t, .vmulInt d a b k t, .vminInt d a b k t, .vmaxInt d a b k t,
      .vshl d a b k t, .vshr d a b k t], s.WritesV d i := by
  simp only [List.forall_mem_cons, List.not_mem_nil, false_implies, implies_true, and_true]
  and_intros <;> exact onMach_vecInt_writes t _ h

theorem writesV_float (t : BitVec 3) (h : s.m.vecReads (some d) [a, b] k = some (s.m, mask, val)) :
    ∀ i ∈ [Instr.vaddFloat d a b k t, .vsubFloat d a b k t, .vmulFloat d a b k t, .vminFloat d a b k t,
      .vmaxFloat d a b k t], s.WritesV d i := by
  simp only [List.forall_mem_cons, List.not_mem_nil, false_implies, implies_true, and_true]
  exact ⟨⟨_, _, _, onMach_vecFloat t addF h⟩, ⟨_, _, _, onMach_vecFloat t subF h⟩, ⟨_, _, _, onMach_vecFloat t mulF h⟩,
    ⟨_, _, _, onMach_vecMinMax t false h⟩, ⟨_, _, _, onMach_vecMinMax t true h⟩⟩

/-- The whole-lane instructions (R426). -/
theorem writesV_lanes (h : s.m.vecReads (some d) [a, b] k = some (s.m, mask, val)) :
    ∀ i ∈ [Instr.vand d a b k, .vor d a b k, .vxor d a b k, .vsel d a b k, .vperm d a b k], s.WritesV d i := by
  simp only [List.forall_mem_cons, List.not_mem_nil, false_implies, implies_true, and_true]
  exact ⟨writesV_of_done (onMach_vecLanes _ h), writesV_of_done (onMach_vecLanes _ h),
    writesV_of_done (onMach_vecLanes _ h), writesV_of_done (exec_vsel h), writesV_of_done (onMach_vecLanes _ h)⟩

theorem exec_vfma (t : BitVec 3) (h : s.m.vecReads (some d) [a, b, c] k = some (m1, mask, val)) :
    let f := fmtOf t.toNat
    let x (n : BitVec 4) (j : Nat) : FVal := decodeF f (elem (val n) f.width j)
    let r := elementwise f.width mask m1.me.gen
      (fun j g => m1.roundElem f g (fun rm sat dr => fmaF f rm sat dr (x a j) (x b j) (x c j)))
    exec (.vfma d a b c k t) s =
      .next (s.on ((m1.writeV d (blend mask r.1 (m1.vimage d))).flagged r.2.1 r.2.2).done) :=
  onMach_vecElems (fmtOf t.toNat).width (fun m val j g => m.roundElem (fmtOf t.toNat) g (fun rm sat dr =>
    fmaF (fmtOf t.toNat) rm sat dr (decodeF (fmtOf t.toNat) (elem (val a) (fmtOf t.toNat).width j))
      (decodeF (fmtOf t.toNat) (elem (val b) (fmtOf t.toNat).width j))
      (decodeF (fmtOf t.toNat) (elem (val c) (fmtOf t.toNat).width j)))) h

end

end Sys2Proof.Machine

open Sys2Proof Sys2Proof.Machine

/-- Settles O13: each operation in the numbers that the elements are, which fit the width again. -/
theorem vectorIntegerResults : Obligations.VectorIntegerResults := by
  unfold Obligations.VectorIntegerResults
  intro s d a b k t m1 mask val h w num out
  have results : ∀ {o : Host.Outcome State Fault Refusal} {f : Nat → Bool → Nat → Nat → Nat} (F : Nat → Nat → Nat),
      o = s.onMach (fun m => m.vecInt d a b k t f) →
      (∀ x y, x < 2 ^ w → y < 2 ^ w → F x y = f w (vintSigned t) x y ∧ F x y < 2 ^ w) →
      ∃ r, o = .next r ∧ out F r := fun {_ f} F runs hf => by
    obtain ⟨v, written, elements⟩ := s.m.vecInt_ok d a b k t m1 mask val h f F hf
    exact ⟨_, runs.trans (s.onMach_eq written), v, rfl, elements⟩
  clear_value out
  have positive : 0 < 2 ^ w := Nat.two_pow_pos w
  have number : ∀ {x}, x < 2 ^ w → intOf w (vintSigned t) x = num x := fun hx => intOf_elem (vintSigned t) hx
  refine ⟨?add, ?sub, ?mul, ?min, ?max, ?shl, ?shr⟩
  case add =>
    refine results _ rfl fun x y hx hy => ?_
    exact ⟨rfl, Nat.mod_lt _ positive⟩
  case sub =>
    refine results _ rfl fun x y hx hy => ?_
    exact ⟨sub_wrap hy, toNat_emod_lt _ w⟩
  case mul =>
    refine results _ rfl fun x y hx hy => ?_
    exact ⟨rfl, Nat.mod_lt _ positive⟩
  case min =>
    refine results _ rfl fun x y hx hy => ?_
    exact ⟨by rw [number hx, number hy], ite_lt_bound hx hy⟩
  case max =>
    refine results _ rfl fun x y hx hy => ?_
    exact ⟨by rw [number hx, number hy], ite_lt_bound hx hy⟩
  case shl =>
    refine results _ rfl fun x y hx hy => ?_
    exact ⟨rfl, Nat.mod_lt _ positive⟩
  case shr =>
    refine results _ rfl fun x y hx hy => ?_
    exact ⟨(shiftRight_elem _ _ hx).symm, toNat_emod_lt _ w⟩

/-- Settles O14: each instruction is an element operation, with the draws in the order of the elements. -/
theorem vectorFloatResults : Obligations.VectorFloatResults := by
  unfold Obligations.VectorFloatResults
  intro s d a b c k t m1 mask val f out x draw op
  refine ⟨fun h => ⟨?add, ?sub, ?mul, ?min, ?max⟩, fun h => ⟨exec_vfma t h, fun e => ?dot⟩, fun p q h => ?cvt⟩
  case add => exact onMach_vecFloat t addF h
  case sub => exact onMach_vecFloat t subF h
  case mul => exact onMach_vecFloat t mulF h
  case min => exact onMach_vecMinMax t false h
  case max => exact onMach_vecMinMax t true h
  case dot =>
    exact onMach_vecElems 32 (fun k val i g =>
      let w := if e.toNat ≤ 1 then 16 else 8
      let r := dotF k.rm (decodeF .f32 (elem (val c) 32 i)) ((List.range (32 / w)).map (fun j =>
        (dotElem e.toNat (elem (val a) w (i * (32 / w) + j)), dotElem e.toNat (elem (val b) w (i * (32 / w) + j)))))
      (r.1, r.2, g)) h
  case cvt =>
    exact onMach_vecElems (slotBits q.toNat) (fun k val j g =>
      if j < 512 / slotBits p.toNat then k.convertElem p.toNat q.toNat (elem (val a) (slotBits p.toNat) j) g
      else (0, 0, g)) h

/-- Settles O15: a lane of what is written is the operation's where it is active, and the register's own elsewhere. -/
theorem vectorLaneResults : Obligations.VectorLaneResults := by
  unfold Obligations.VectorLaneResults
  intro s d a b w k m1 mask val out
  have merged : ∀ (e : Nat → BitVec 32) (o : Host.Outcome State Fault Refusal),
      o = .next (s.on (m1.writeV d (blend mask (lanesOf e) (m1.vimage d))).done) → ∃ r, o = .next r ∧ out e r :=
    fun e o runs => ⟨_, runs, _, rfl, fun i hi => by rw [lane_blend _ _ _ _ hi, lane_lanesOf _ _ hi]⟩
  refine ⟨fun h => ⟨?and, ?or, ?xor, ?perm, ?sel⟩, fun h => ?bcast, fun l h => ⟨exec_vextN32 l h, exec_vextI32 l h⟩,
    fun l unbound hw => exec_vins s l unbound hw⟩
  case and | or | xor | perm => exact merged _ _ (onMach_vecLanes _ h)
  case sel => exact ⟨_, _, exec_vsel h, rfl, fun i hi => lane_blend mask (val a) (val b) i hi⟩
  case bcast => exact merged _ _ (exec_vbcast s h)

/-- Settles O18: each instruction is one write of v[d], and all that such a write changes is known. -/
theorem vectorWriteFrame : Obligations.VectorWriteFrame := by
  unfold Obligations.VectorWriteFrame
  intro s d a b c k t l mask val3 val2 unbound h3 h2 hl i hi
  have writes : s.WritesV d i := by
    rw [hl] at hi
    rcases mem_take_or_drop 7 hi with int | hi
    · exact writesV_int t h2 i int
    rcases mem_take_or_drop 5 hi with float | hi
    · exact writesV_float t h2 i float
    rcases List.mem_cons.mp hi with rfl | lanes
    · exact ⟨_, _, _, exec_vfma t h3⟩
    · exact writesV_lanes h2 i lanes
  obtain ⟨v, fl, g, runs⟩ := writes
  rw [s.m.writeV_unbound v unbound, Mach.flagged_done] at runs
  have me := s.m.me_putImage d v
  refine ⟨_, fl, g, runs, rfl, fun n hn => ?full, ?frame⟩
  case full =>
    have written : s.m.vKey d + 8 * n ∈ s.m.vKeys d := (s.m.mem_vKeys d _).mpr ⟨n, hn, rfl⟩
    show ((s.m.putImage d v).setMe _).full _ = true
    rw [Mach.full_setMe, s.m.full_putImage, List.contains_eq_mem, decide_eq_true written, Bool.true_or]
  case frame =>
    rw [Mach.inSequence, me]
    exact s.m.differs_putImage d v _

end

section
/-!
PROOF. Vector compares, reductions, scans and special functions (R428, R435, R437), operands that are empty or bad (R22,
R305), and O16.
-/
namespace Sys2Proof.Machine

/-! ### Sums of bits and of digits -/

/-- The sum of two to the numbers below a bound that a test picks. -/
def bitSum (p : Nat → Bool) (n : Nat) : Nat := ((List.range n).filter p).foldl (fun x i => x + 2 ^ i) 0

theorem bitSum_succ (p : Nat → Bool) (n : Nat) : bitSum p (n + 1) = if p n then bitSum p n + 2 ^ n else bitSum p n := by
  rw [bitSum, List.range_succ, List.filter_append, List.foldl_append]
  by_cases h : p n <;> simp [h, bitSum]

theorem bitSum_lt (p : Nat → Bool) (n : Nat) : bitSum p n < 2 ^ n := by
  induction n with
  | zero => exact Nat.two_pow_pos 0
  | succ n ih =>
    rw [bitSum_succ, Nat.pow_succ]
    split <;> omega

/-- Bit `i` of the sum tells whether the test picks `i`. -/
theorem testBit_bitSum (p : Nat → Bool) (n i : Nat) : (bitSum p n).testBit i = (decide (i < n) && p i) := by
  induction n with
  | zero => simp [bitSum]
  | succ n ih =>
    have low := Nat.testBit_lt_two_pow (bitSum_lt p n)
    rw [bitSum_succ]
    rcases Nat.lt_trichotomy i n with below | rfl | above
    · have inside : i < n + 1 := by omega
      split
      · rw [Nat.add_comm, Nat.testBit_two_pow_add_gt below, ih]
        simp [below, inside]
      · rw [ih]
        simp [below, inside]
    · split
      case isTrue picked => rw [Nat.add_comm, Nat.testBit_two_pow_add_eq, low]; simp [picked]
      case isFalse left => rw [low]; simp [left]
    · have outside : ¬ i < n + 1 := by omega
      have bound : (if p n then bitSum p n + 2 ^ n else bitSum p n) < 2 ^ i := by
        have := bitSum_lt p n
        have := Nat.pow_lt_pow_right (show 1 < 2 by decide) above
        have : 2 ^ (n + 1) ≤ 2 ^ i := Nat.pow_le_pow_right (by decide) above
        rw [Nat.pow_succ] at this
        split <;> omega
      rw [Nat.testBit_lt_two_pow bound]
      simp [outside]

theorem getLsbD_bitSum (p : Nat → Bool) {i : Nat} (h : i < 16) : (BitVec.ofNat 16 (bitSum p 16)).getLsbD i = p i := by
  rw [BitVec.getLsbD_ofNat, testBit_bitSum]
  simp [h]

/-- Flags raised one after another: a flag is raised in the end if one of them raises it. -/
theorem getLsbD_foldl_or {α : Type} (f : α → BitVec 5) (l : List α) (init : BitVec 5) (j : Nat) :
    (l.foldl (fun fl x => fl ||| f x) init).getLsbD j = true ↔ init.getLsbD j = true ∨ ∃ x ∈ l, (f x).getLsbD j = true := by
  induction l generalizing init with
  | nil => simp
  | cons x l ih =>
    rw [List.foldl_cons, ih, BitVec.getLsbD_or, Bool.or_eq_true]
    simp [or_assoc]

/-- The same where no flag is raised before. -/
theorem getLsbD_foldl_or_zero {α : Type} (f : α → BitVec 5) (l : List α) (j : Nat) :
    (l.foldl (fun fl x => fl ||| f x) 0).getLsbD j = true ↔ ∃ x ∈ l, (f x).getLsbD j = true := by
  have none : (0 : BitVec 5).getLsbD j = false := BitVec.getLsbD_zero
  rw [getLsbD_foldl_or, none]
  simp only [Bool.false_eq_true, false_or]

/-- One step of a run that writes digits of `w` bits: its own state moves, and the digit at the place is put in. -/
def digitStep {σ : Type} (w : Nat) (step : σ → Nat → σ) (out : σ → Nat → Nat) (x : σ × Nat) (j : Nat) : σ × Nat :=
  (step x.1 j, x.2 + out x.1 j % 2 ^ w * 2 ^ (w * j))

theorem foldl_digitStep_fst {σ : Type} (w : Nat) (step : σ → Nat → σ) (out : σ → Nat → Nat) (l : List Nat) (x : σ × Nat) :
    (l.foldl (digitStep w step out) x).1 = l.foldl step x.1 :=
  (List.foldl_hom Prod.fst (g₁ := digitStep w step out) (g₂ := step) (fun _ _ => rfl)).symm

/-- The digits are put in at rising places, so each stays as it was put in: the one at the `n`-th place is what the run
gives from its state after `n` steps. -/
theorem digit_foldl_digitStep {σ : Type} (w : Nat) (step : σ → Nat → σ) (out : σ → Nat → Nat) (l : List Nat) (x : σ × Nat)
    (start : Nat) (rising : l.Pairwise (· < ·)) (above : ∀ j ∈ l, start ≤ j) (below : x.2 < 2 ^ (w * start)) :
    (l.foldl (digitStep w step out) x).2 % 2 ^ (w * start) = x.2 ∧
    ∀ n (h : n < l.length), (l.foldl (digitStep w step out) x).2 / 2 ^ (w * l[n]) % 2 ^ w =
      out ((l.take n).foldl step x.1) l[n] % 2 ^ w := by
  induction l generalizing x start with
  | nil => exact ⟨Nat.mod_eq_of_lt below, fun n h => absurd h (Nat.not_lt_zero n)⟩
  | cons j l ih =>
    obtain ⟨first, rest⟩ := List.pairwise_cons.mp rising
    have place : start ≤ j := above j List.mem_cons_self
    have grows : x.2 < 2 ^ (w * j) := lt_of_lt_of_le below (Nat.pow_le_pow_right (by decide) (Nat.mul_le_mul_left w place))
    have next_place : 2 ^ (w * (j + 1)) = 2 ^ (w * j) * 2 ^ w := by rw [Nat.mul_succ, Nat.pow_add]
    have digit : out x.1 j % 2 ^ w < 2 ^ w := Nat.mod_lt _ (Nat.two_pow_pos w)
    have bound : (digitStep w step out x j).2 < 2 ^ (w * (j + 1)) := by
      show x.2 + out x.1 j % 2 ^ w * 2 ^ (w * j) < _
      rw [next_place, Nat.mul_comm (2 ^ (w * j))]
      have := Nat.mul_le_mul_right (2 ^ (w * j)) (Nat.succ_le_of_lt digit)
      rw [Nat.succ_mul] at this
      omega
    obtain ⟨low, digits⟩ := ih (digitStep w step out x j) (j + 1) rest first bound
    rw [List.foldl_cons]
    generalize (l.foldl (digitStep w step out) (digitStep w step out x j)).2 = total at low digits ⊢
    have sum : (digitStep w step out x j).2 = x.2 + out x.1 j % 2 ^ w * 2 ^ (w * j) := rfl
    constructor
    · have divides : 2 ^ (w * start) ∣ 2 ^ (w * j) := Nat.pow_dvd_pow 2 (Nat.mul_le_mul_left w place)
      have coarser : 2 ^ (w * start) ∣ 2 ^ (w * (j + 1)) := Nat.pow_dvd_pow 2 (Nat.mul_le_mul_left w (by omega))
      rw [← Nat.mod_mod_of_dvd total coarser, low, sum, Nat.add_mod,
        Nat.mod_eq_zero_of_dvd (Dvd.dvd.mul_left divides _), Nat.add_zero, Nat.mod_mod, Nat.mod_eq_of_lt below]
    · intro n h
      cases n with
      | zero =>
        show total / 2 ^ (w * j) % 2 ^ w = out x.1 j % 2 ^ w
        rw [← Nat.mod_mul_right_div_self, ← next_place, low, sum, Nat.add_mul_div_right _ _ (Nat.two_pow_pos _),
          Nat.div_eq_of_lt grows, Nat.zero_add]
      | succ n => exact digits n (Nat.lt_of_succ_lt_succ h)

/-- The elements of active lanes, in ascending order (R424). -/
def activeElems (w : Nat) (mask : BitVec 16) : List Nat := (List.range (512 / w)).filter (fun j => mask.getLsbD (j * w / 32))

theorem mem_activeElems {w : Nat} {mask : BitVec 16} {j : Nat} :
    j ∈ activeElems w mask ↔ j < 512 / w ∧ mask.getLsbD (j * w / 32) = true := by
  rw [activeElems, List.mem_filter, List.mem_range]

/-- The elements that a run over the active ones writes. -/
theorem elem_digits {σ : Type} (w : Nat) (mask : BitVec 16) (step : σ → Nat → σ) (out : σ → Nat → Nat) (x : σ)
    {n : Nat} (h : n < (activeElems w mask).length) :
    elem (BitVec.ofNat 512 ((activeElems w mask).foldl (digitStep w step out) (x, 0)).2) w (activeElems w mask)[n] =
      out (((activeElems w mask).take n).foldl step x) (activeElems w mask)[n] % 2 ^ w := by
  have inside : (activeElems w mask)[n] < 512 / w := (mem_activeElems.mp (List.getElem_mem h)).1
  have fits : w * (activeElems w mask)[n] + w ≤ 512 := by
    have := Nat.mul_le_mul_left w (Nat.succ_le_of_lt inside)
    have := Nat.mul_div_le 512 w
    rw [Nat.mul_succ] at *
    omega
  have rising : (activeElems w mask).Pairwise (· < ·) := List.pairwise_lt_range.filter _
  rw [elem_ofNat _ _ _ fits]
  exact (digit_foldl_digitStep w step out _ (x, 0) 0 rising (fun _ _ => Nat.zero_le _) (Nat.two_pow_pos _)).2 n h

/-! ### Compares (R428) -/

/-- A compare whose reads succeed: the bits of the mask written, and the flags raised. -/
theorem Mach.vecCompare_ok {m m1 : Mach} {a b : BitVec 4} {k : BitVec 3} {mask : BitVec 16} {val : BitVec 4 → V}
    (h : m.vecReads none [a, b] k = some (m1, mask, val)) (p : BitVec 3) (w : Nat) (f : Nat → Nat → Bool × BitVec 5) :
    let cmp (i n : Nat) : Bool × BitVec 5 := f (elem (val a) w (i * (32 / w) + n)) (elem (val b) w (i * (32 / w) + n))
    ∃ (v : BitVec 16) (fl : BitVec 5), m.vecCompare p a b k w f = ((m1.writeM p v).flagged fl m1.me.gen).done ∧
      (∀ i, i < 16 → (v.getLsbD i = true ↔ mask.getLsbD i = true ∧ ∀ n, n < 32 / w → (cmp i n).1 = true)) ∧
      ∀ j, fl.getLsbD j = true ↔ ∃ i n, i < 16 ∧ mask.getLsbD i = true ∧ n < 32 / w ∧ (cmp i n).2.getLsbD j = true := by
  intro cmp
  rw [Mach.vecCompare, m.vecOp_ok _ h, Mach.settle_ok]
  refine ⟨_, _, rfl, fun i hi => ?bits, fun j => ?flags⟩
  case bits =>
    rw [List.filter_filter]
    refine (iff_of_eq (congrArg (· = true) (getLsbD_bitSum _ hi))).trans ?_
    simp [cmp, and_comm]
  case flags =>
    rw [getLsbD_foldl_or_zero (fun j => (f (elem (val a) w j) (elem (val b) w j)).2)]
    simp only [List.mem_flatMap, List.mem_filter, List.mem_range, List.mem_map]
    constructor
    · rintro ⟨_, ⟨i, ⟨hi, active⟩, n, hn, rfl⟩, raised⟩
      exact ⟨i, n, hi, active, hn, raised⟩
    · rintro ⟨i, n, hi, active, hn, raised⟩
      exact ⟨_, ⟨i, ⟨hi, active⟩, n, hn, rfl⟩, raised⟩

/-- Flags of which none is raised. -/
theorem flags_eq_zero {fl : BitVec 5} (h : ∀ j, ¬ fl.getLsbD j = true) : fl = 0 :=
  BitVec.eq_of_getLsbD_eq fun j _ => by
    rw [Bool.eq_false_iff.mpr (h j)]
    exact BitVec.getLsbD_zero.symm

/-- The relation of an integer compare on two elements: 0 eq, 1 ne, 2 lt, 3 le. -/
def intRel (w : Nat) (sg : Bool) (c : BitVec 4) (x y : Nat) : Bool × BitVec 5 :=
  (if c = 0 then decide (intOf w sg x = intOf w sg y) else if c = 1 then decide (intOf w sg x ≠ intOf w sg y)
   else if c = 2 then decide (intOf w sg x < intOf w sg y) else decide (intOf w sg x ≤ intOf w sg y), 0)

theorem exec_vcmpInt_eq (s : State) (p k t : BitVec 3) (a b c : BitVec 4) :
    exec (.vcmpInt p a b c k t) s =
      s.onMach (fun m => m.vecCompare p a b k (vintWidth t) (intRel (vintWidth t) (vintSigned t) c)) := rfl

/-- The relation of a float compare on two elements. -/
def floatRel (f : Fmt) (c : BitVec 4) (x y : Nat) : Bool × BitVec 5 :=
  compareF (vcmpCode c.toNat) (decodeF f x) (decodeF f y)

theorem exec_vcmpFloat_eq (s : State) (p k t : BitVec 3) (a b c : BitVec 4) :
    exec (.vcmpFloat p a b c k t) s =
      s.onMach (fun m => m.vecCompare p a b k (fmtOf t.toNat).width (floatRel (fmtOf t.toNat) c)) := rfl

/-! ### Element operations that take no draw -/

/-- The run of `elementwise`: its sum stands before its flags and generator. -/
def sumFirst (x : (BitVec 5 × BitVec 32) × Nat) : Nat × BitVec 5 × BitVec 32 := (x.2, x.1)

/-- The elements and the flags of an element operation whose elements depend on their place alone. -/
theorem elementwise_pure (w : Nat) (mask : BitVec 16) (g : BitVec 32) (r : Nat → Nat × BitVec 5) :
    let e := elementwise w mask g (fun j g => ((r j).1, (r j).2, g))
    (∀ j, j < 512 / w → mask.getLsbD (j * w / 32) = true → elem e.1 w j = (r j).1 % 2 ^ w) ∧
    ∀ b, e.2.1.getLsbD b = true ↔ ∃ j, j < 512 / w ∧ mask.getLsbD (j * w / 32) = true ∧ (r j).2.getLsbD b = true := by
  have run : (List.range (512 / w)).foldl (fun (acc : Nat × BitVec 5 × BitVec 32) j =>
      if mask.getLsbD (j * w / 32) then (acc.1 + (r j).1 % 2 ^ w * 2 ^ (w * j), acc.2.1 ||| (r j).2, acc.2.2) else acc)
      (0, 0, g) = sumFirst ((activeElems w mask).foldl
        (digitStep w (fun x j => (x.1 ||| (r j).2, x.2)) (fun _ j => (r j).1)) ((0, g), 0)) := by
    rw [activeElems, List.foldl_filter]
    refine List.foldl_hom sumFirst (init := ((0, g), 0)) (fun x j => ?_)
    split <;> rfl
  have flags : ∀ (l : List Nat) (x : BitVec 5 × BitVec 32),
      (l.foldl (fun x j => (x.1 ||| (r j).2, x.2)) x).1 = l.foldl (fun fl j => fl ||| (r j).2) x.1 := fun l x =>
    (List.foldl_hom Prod.fst (fun _ _ => rfl)).symm
  refine ⟨fun j hj active => ?elements, fun b => ?raised⟩
  case elements =>
    obtain ⟨n, hn, rfl⟩ := List.mem_iff_getElem.mp (mem_activeElems.mpr ⟨hj, active⟩)
    rw [elementwise]
    refine (congrArg (fun x => elem (BitVec.ofNat 512 x) w _) (congrArg Prod.fst run)).trans ?_
    exact elem_digits w mask _ _ _ hn
  case raised =>
    rw [elementwise]
    refine (iff_of_eq (congrArg (fun x => x.getLsbD b = true) (congrArg (fun x => x.2.1) run))).trans ?_
    show ((_ : (BitVec 5 × BitVec 32) × Nat).1.1).getLsbD b = true ↔ _
    rw [foldl_digitStep_fst, flags, getLsbD_foldl_or_zero]
    simp only [mem_activeElems, and_assoc]

/-! ### Reductions and scans (R435) -/

theorem exec_vred {s : State} {m1 : Mach} {d a : BitVec 4} {k : BitVec 3} {mask : BitVec 16} {val : BitVec 4 → V}
    (h : s.m.vecReads (some d) [a] k = some (m1, mask, val)) (o t : BitVec 4) :
    let w := vecWidth t.toNat
    let run := (activeElems w mask).foldl (fun (x : Nat × BitVec 5) j =>
      ((redStep o.toNat t.toNat x.1 (elem (val a) w j)).1, x.2 ||| (redStep o.toNat t.toNat x.1 (elem (val a) w j)).2))
      (redIdentity o.toNat t.toNat, 0)
    let r := m1.redOut t.toNat run.1 m1.me.gen
    exec (.vred d a t k o) s =
      .next (s.on ((m1.writeV d (BitVec.ofNat 512 r.1)).flagged (run.2 ||| r.2.1) r.2.2).done) := by
  show execVred d a t k o s = _
  refine s.onMach_eq ?_
  rw [s.m.vecOp_ok _ h]
  rfl

/-- The run of a scan: the running value, the flags and the generator. -/
def Mach.scanStep (m : Mach) (o t : BitVec 4) (x : V) (run : Nat × BitVec 5 × BitVec 32) (j : Nat) :
    Nat × BitVec 5 × BitVec 32 :=
  let one := redStep o.toNat t.toNat run.1 (elem x (vecWidth t.toNat) j)
  let r := m.redOut t.toNat one.1 run.2.2
  (one.1, run.2.1 ||| one.2 ||| r.2.1, r.2.2)

/-- What a scan writes to an element. -/
def Mach.scanOut (m : Mach) (o t : BitVec 4) (x : V) (run : Nat × BitVec 5 × BitVec 32) (j : Nat) : Nat :=
  (m.redOut t.toNat (redStep o.toNat t.toNat run.1 (elem x (vecWidth t.toNat) j)).1 run.2.2).1

/-- The run of VSCAN: its sum stands after its flags and generator. -/
def sumLast (x : (Nat × BitVec 5 × BitVec 32) × Nat) : Nat × BitVec 5 × BitVec 32 × Nat := (x.1.1, x.1.2.1, x.1.2.2, x.2)

/-- The run of VSCAN over the active elements, as the instruction makes it. -/
def Mach.scanRun (m : Mach) (o t : BitVec 4) (x : V) (mask : BitVec 16) : Nat × BitVec 5 × BitVec 32 × Nat :=
  let w := vecWidth t.toNat
  (activeElems w mask).foldl (fun (p : Nat × BitVec 5 × BitVec 32 × Nat) j =>
    let (acc, fl) := redStep o.toNat t.toNat p.1 (elem x w j)
    let (out, fl2, g) := m.redOut t.toNat acc p.2.2.1
    (acc, p.2.1 ||| fl ||| fl2, g, p.2.2.2 + out % 2 ^ w * 2 ^ (w * j))) (redIdentity o.toNat t.toNat, 0, m.me.gen, 0)

theorem Mach.scanRun_eq (m : Mach) (o t : BitVec 4) (x : V) (mask : BitVec 16) :
    m.scanRun o t x mask = sumLast ((activeElems (vecWidth t.toNat) mask).foldl
      (digitStep (vecWidth t.toNat) (m.scanStep o t x) (m.scanOut o t x)) ((redIdentity o.toNat t.toNat, 0, m.me.gen), 0)) :=
  List.foldl_hom sumLast (init := ((redIdentity o.toNat t.toNat, 0, m.me.gen), 0)) (fun _ _ => rfl)

theorem exec_vscan {s : State} {m1 : Mach} {d a : BitVec 4} {k : BitVec 3} {mask : BitVec 16} {val : BitVec 4 → V}
    (h : s.m.vecReads (some d) [a] k = some (m1, mask, val)) (o t : BitVec 4) :
    let r := m1.scanRun o t (val a) mask
    exec (.vscan d a t k o) s =
      .next (s.on ((m1.writeV d (blend mask (BitVec.ofNat 512 r.2.2.2) (m1.vimage d))).flagged r.2.1 r.2.2.1).done) := by
  show execVscan d a t k o s = _
  exact s.onMach_eq ((s.m.vecOp_ok _ h).trans rfl)

/-- What a scan writes to each active element, and its flags and generator, by the run that has reached it. -/
theorem exec_vscan_elements {s : State} {m1 : Mach} {d a : BitVec 4} {k : BitVec 3} {mask : BitVec 16} {val : BitVec 4 → V}
    (h : s.m.vecReads (some d) [a] k = some (m1, mask, val)) (o t : BitVec 4) :
    let js := activeElems (vecWidth t.toNat) mask
    let after (n : Nat) := (js.take n).foldl (m1.scanStep o t (val a)) (redIdentity o.toNat t.toNat, 0, m1.me.gen)
    ∃ v : V, exec (.vscan d a t k o) s = .next (s.on ((m1.writeV d (blend mask v (m1.vimage d))).flagged
        (after js.length).2.1 (after js.length).2.2).done) ∧
      ∀ n, n < js.length → elem v (vecWidth t.toNat) (js.getD n 0) =
        (m1.redOut t.toNat (after (n + 1)).1 (after n).2.2).1 % 2 ^ vecWidth t.toNat := by
  intro js after
  have whole : after js.length = js.foldl (m1.scanStep o t (val a)) (redIdentity o.toNat t.toNat, 0, m1.me.gen) := by
    simp only [after, List.take_length]
  have runs := exec_vscan h o t
  simp only [m1.scanRun_eq, sumLast, foldl_digitStep_fst] at runs
  refine ⟨_, runs.trans (by rw [whole]), fun n hn => ?_⟩
  have next : after (n + 1) = m1.scanStep o t (val a) (after n) js[n] := by
    simp only [after, List.take_add_one, List.getElem?_eq_getElem hn, Option.toList_some, List.foldl_append,
      List.foldl_cons, List.foldl_nil]
  rw [List.getD_eq_getElem _ _ hn, elem_digits (vecWidth t.toNat) mask _ _ _ hn, next]
  rfl

/-! ### Special functions (R437) -/

theorem exec_vsf {s : State} {m1 : Mach} {d a : BitVec 4} {k : BitVec 3} {mask : BitVec 16} {val : BitVec 4 → V}
    (h : s.m.vecReads (some d) [a] k = some (m1, mask, val)) (o : BitVec 4) :
    let e := elementwise 32 mask m1.me.gen
      (fun j g => ((specialF o (lane (val a) j)).1, (specialF o (lane (val a) j)).2, g))
    exec (.vsf d a k o) s =
      .next (s.on (m1.lateV d (.value (blend mask e.1 (m1.vimage d)).toNat e.2.1)).done) := by
  show execVsf d a k o s = _
  refine s.onMach_eq ?_
  rw [s.m.vecOp_ok _ h]
  rfl

theorem lane_eq_elem (v : V) (i : Nat) : lane v i = BitVec.ofNat 32 (elem v 32 i) := by
  rw [lane, elem, BitVec.ofNat_toNat, BitVec.setWidth_eq]

/-! ### Operands that are empty or bad (R22, R305) -/

theorem Mach.vecOp_error (m : Mach) {dest : Option (BitVec 4)} {srcs : List (BitVec 4)} {k : BitVec 3}
    {ws : List (BitVec 5)} {e : Trap} (h : m.needOperands srcs k ws = .error e)
    (f : Mach → BitVec 16 → (BitVec 4 → V) → Res Mach) : m.vecOp dest srcs k f ws = m.trapMe e := by
  rw [Mach.vecOp, h]
  rfl

section
variable {s : State} {k : BitVec 3} {e : Trap}

theorem onMach_vecOp_error {dest : Option (BitVec 4)} {srcs : List (BitVec 4)} {ws : List (BitVec 5)}
    (h : s.m.needOperands srcs k ws = .error e) (f : Mach → BitVec 16 → (BitVec 4 → V) → Res Mach) :
    s.onMach (fun m => m.vecOp dest srcs k f ws) = .next (s.on (s.m.trapMe e)) :=
  s.onMach_eq (s.m.vecOp_error h f)

theorem onMach_vecElems_error {d : BitVec 4} {srcs : List (BitVec 4)} (w : Nat)
    (h : s.m.needOperands srcs k [] = .error e)
    (f : Mach → (BitVec 4 → V) → Nat → BitVec 32 → Nat × BitVec 5 × BitVec 32) :
    s.onMach (fun m => m.vecElems d srcs k w f) = .next (s.on (s.m.trapMe e)) := onMach_vecOp_error h _

theorem onMach_vecInt_error {d a b : BitVec 4} (t : BitVec 3) (h : s.m.needOperands [a, b] k [] = .error e)
    (f : Nat → Bool → Nat → Nat → Nat) :
    s.onMach (fun m => m.vecInt d a b k t f) = .next (s.on (s.m.trapMe e)) :=
  onMach_vecElems_error (vintWidth t) h (fun _ val j g =>
    (f (vintWidth t) (vintSigned t) (elem (val a) (vintWidth t) j) (elem (val b) (vintWidth t) j), 0, g))

theorem onMach_vecFloat_error {d a b : BitVec 4} (t : BitVec 3) (h : s.m.needOperands [a, b] k [] = .error e)
    (op : Fmt → Nat → Bool → Nat → FVal → FVal → Nat × BitVec 5) :
    s.onMach (fun m => m.vecFloat d a b k t op) = .next (s.on (s.m.trapMe e)) :=
  onMach_vecElems_error (fmtOf t.toNat).width h (fun m val j g => m.roundElem (fmtOf t.toNat) g (fun rm sat dr =>
    op (fmtOf t.toNat) rm sat dr (decodeF (fmtOf t.toNat) (elem (val a) (fmtOf t.toNat).width j))
      (decodeF (fmtOf t.toNat) (elem (val b) (fmtOf t.toNat).width j))))

theorem onMach_vecMinMax_error {d a b : BitVec 4} (t : BitVec 3) (h : s.m.needOperands [a, b] k [] = .error e)
    (wantMax : Bool) : s.onMach (fun m => m.vecMinMax d a b k t wantMax) = .next (s.on (s.m.trapMe e)) :=
  onMach_vecElems_error (fmtOf t.toNat).width h (fun _ val j g =>
    let (r, fl) := minMaxF (fmtOf t.toNat) wantMax (elem (val a) (fmtOf t.toNat).width j)
      (elem (val b) (fmtOf t.toNat).width j)
    (r, fl, g))

theorem onMach_vecLanes_error {d a b : BitVec 4} (h : s.m.needOperands [a, b] k [] = .error e)
    (f : V → V → Nat → BitVec 32) : s.onMach (fun m => m.vecLanes d a b k f) = .next (s.on (s.m.trapMe e)) :=
  onMach_vecOp_error h _

theorem onMach_vecCompare_error {p : BitVec 3} {a b : BitVec 4} (w : Nat) (h : s.m.needOperands [a, b] k [] = .error e)
    (f : Nat → Nat → Bool × BitVec 5) : s.onMach (fun m => m.vecCompare p a b k w f) = .next (s.on (s.m.trapMe e)) :=
  onMach_vecOp_error h _

/-- The instructions on two vector registers. -/
theorem operandFault_two (d a b c : BitVec 4) (p t : BitVec 3) (h : s.m.needOperands [a, b] k [] = .error e) :
    ∀ i ∈ [Instr.vaddInt d a b k t, .vsubInt d a b k t, .vmulInt d a b k t, .vminInt d a b k t, .vmaxInt d a b k t,
      .vshl d a b k t, .vshr d a b k t, .vaddFloat d a b k t, .vsubFloat d a b k t, .vmulFloat d a b k t,
      .vminFloat d a b k t, .vmaxFloat d a b k t, .vand d a b k, .vor d a b k, .vxor d a b k, .vperm d a b k,
      .vsel d a b k, .vcmpInt p a b c k t, .vcmpFloat p a b c k t], exec i s = .next (s.on (s.m.trapMe e)) := by
  simp only [List.forall_mem_cons, List.not_mem_nil, false_implies, implies_true, and_true]
  exact ⟨onMach_vecInt_error t h _, onMach_vecInt_error t h _, onMach_vecInt_error t h _, onMach_vecInt_error t h _,
    onMach_vecInt_error t h _, onMach_vecInt_error t h _, onMach_vecInt_error t h _, onMach_vecFloat_error t h _,
    onMach_vecFloat_error t h _, onMach_vecFloat_error t h _, onMach_vecMinMax_error t h _, onMach_vecMinMax_error t h _,
    onMach_vecLanes_error h _, onMach_vecLanes_error h _, onMach_vecLanes_error h _, onMach_vecLanes_error h _,
    (onMach_vecOp_error h _ : execVsel d a b k s = _), onMach_vecCompare_error _ h _, onMach_vecCompare_error _ h _⟩

theorem operandFault_three (d a b c o : BitVec 4) (t : BitVec 3) (h : s.m.needOperands [a, b, c] k [] = .error e) :
    ∀ i ∈ [Instr.vfma d a b c k t, .vdot d a b c k o], exec i s = .next (s.on (s.m.trapMe e)) := by
  simp only [List.forall_mem_cons, List.not_mem_nil, false_implies, implies_true, and_true]
  exact ⟨(onMach_vecElems_error (fmtOf t.toNat).width h _ : execVfma d a b c k t s = _),
    (onMach_vecElems_error 32 h _ : execVdot d a b c k o s = _)⟩

theorem operandFault_one (d a o x : BitVec 4) (h : s.m.needOperands [a] k [] = .error e) :
    ∀ i ∈ [Instr.vcvt d a o x k, .vred d a o k x, .vscan d a o k x, .vsf d a k o],
      exec i s = .next (s.on (s.m.trapMe e)) := by
  simp only [List.forall_mem_cons, List.not_mem_nil, false_implies, implies_true, and_true]
  exact ⟨(onMach_vecElems_error (slotBits x.toNat) h _ : execVcvt d a o x k s = _),
    (onMach_vecOp_error h _ : execVred d a o k x s = _), (onMach_vecOp_error h _ : execVscan d a o k x s = _),
    (onMach_vecOp_error h _ : execVsf d a k o s = _)⟩

end

end Sys2Proof.Machine

open Sys2Proof Sys2Proof.Machine

/-- Settles O16: the bits of a compare, the run of a reduction and of a scan, the codes of VSF, and the operand faults. -/
theorem vectorCompareReduceSpecial : Obligations.VectorCompareReduceSpecial := by
  unfold Obligations.VectorCompareReduceSpecial
  refine ⟨fun s a b c p k t m1 mask val h => ⟨?cmpInt, ?cmpFloat⟩,
    fun s d a o t k m1 mask val h => ⟨exec_vred h o t, ?scan⟩, fun s d a o k m1 mask val h => ?special,
    fun s d a b c o x k t p w e => ⟨fun h => operandFault_two d a b c p t h, fun h => operandFault_three d a b c o t h,
      fun h => operandFault_one d a o x h, fun h => ?bcast⟩⟩
  case cmpInt =>
    intro w num rel
    obtain ⟨v, fl, written, bits, flags⟩ := Mach.vecCompare_ok h p w (intRel w (vintSigned t) c)
    obtain rfl : fl = 0 := flags_eq_zero fun j raised => by
      obtain ⟨i, n, _, _, _, raised⟩ := (flags j).mp raised
      exact absurd (BitVec.getLsbD_zero.symm.trans raised) (by decide)
    refine ⟨v, (exec_vcmpInt_eq s p k t a b c).trans (s.onMach_eq written), fun i hi =>
      (bits i hi).trans (and_congr_right fun _ => forall₂_congr fun n _ => ?_)⟩
    have number : ∀ x j, intOf w (vintSigned t) (elem x w j) = num (elem x w j) := fun x j => intOf_elem _ (elem_lt x w j)
    simp only [intRel, number, rel]
    split_ifs <;> exact decide_eq_true_iff
  case cmpFloat =>
    intro f cmp
    obtain ⟨v, fl, written, bits, flags⟩ := Mach.vecCompare_ok h p f.width (floatRel f c)
    exact ⟨v, fl, (exec_vcmpFloat_eq s p k t a b c).trans (s.onMach_eq written), bits, flags⟩
  case scan => exact exec_vscan_elements h o t
  case special =>
    obtain ⟨elements, flags⟩ := elementwise_pure 32 mask m1.me.gen (fun j => specialF o (lane (val a) j))
    refine ⟨_, _, exec_vsf h o, fun i hi => ?_, fun j => ?_⟩
    · rw [lane_blend _ _ _ _ hi]
      split
      case isTrue active =>
        rw [lane_eq_elem, elements i (by omega) (by rwa [Nat.mul_div_cancel _ (by decide)])]
        exact BitVec.eq_of_toNat_eq (by simp)
      case isFalse => rfl
    · refine (flags j).trans (exists_congr fun i => ?_)
      rw [Nat.mul_div_cancel _ (by decide : 0 < 32)]
  case bcast =>
    intro i hi
    rw [List.mem_singleton.mp hi]
    exact (onMach_vecOp_error h _ : execVbcast d w k s = _)

end

section
/-!
PROOF. Trap entry (R248): the words of the trap frame, the context and what stays, and O39.
-/
namespace Sys2Proof.Machine

section
variable (m : Mach) (c x : Nat) (t : Trap) (pc bad : Word)

/-- The place of the trap frame of a context. -/
def Mach.trapKey : Nat := scratchKey c ((m.ctx c x).wp + 1776)

/-- The status that trap entry saves. -/
def Mach.trapStatus : Nat := (if (m.ctx c x).rt then 1 else 0) + 2 * (m.ctx c x).window + 256 * levelOf x

/-- The memory with the five words of the trap frame written. -/
def Mach.trapMem : List Host.Cell :=
  let f := m.trapKey c x
  Mem.write (Mem.write (Mem.write (Mem.write (Mem.write m.mem f 8 pc.toNat) (f + 8) 8 t.cause.code) (f + 16) 8 bad.toNat)
    (f + 24) 8 t.brsrc.toNat) (f + 32) 8 (m.trapStatus c x)

/-- The device with the trap frame written: its words are good again (R137). -/
def Mach.trapSaved : Mach :=
  { m with mem := m.trapMem c x t pc bad,
           scratchBad := m.scratchBad.filter (fun k => !(m.trapKey c x ≤ k && k < m.trapKey c x + 40)) }

/-- The context at its trap entry. -/
def Mach.trapCtx : Ctx :=
  { m.ctx c x with
    trappc := pc, cause := BitVec.ofNat 64 t.cause.code, badaddr := bad, brsrc := t.brsrc, window := 0, rt := true,
    trapped := true, wait := .none,
    pc := BitVec.ofNat 64 ((m.trapSaved c x t pc bad).pcb ((m.partOf c).getD 0) 16) }

variable {t bad}

/-- Trap entry with an address is the frame's words, and then the context. -/
theorem Mach.enterTrap_eq (h : t.bad = some bad) :
    m.enterTrap c x t pc = (m.trapSaved c x t pc bad).setCtx c x (m.trapCtx c x t pc bad) := by
  rw [Mach.enterTrap, h]
  rfl

variable (t bad)

/-- The `i`-th word of the trap frame. -/
theorem Mach.read_trapMem (f : Nat) (hf : f = m.trapKey c x) :
    Mem.read (m.trapMem c x t pc bad) f 8 = pc.toNat ∧ Mem.read (m.trapMem c x t pc bad) (f + 8) 8 = t.cause.code % 2 ^ 64 ∧
    Mem.read (m.trapMem c x t pc bad) (f + 16) 8 = bad.toNat ∧
    Mem.read (m.trapMem c x t pc bad) (f + 24) 8 = t.brsrc.toNat ∧
    Mem.read (m.trapMem c x t pc bad) (f + 32) 8 = m.trapStatus c x % 2 ^ 64 := by
  have word : ∀ v : Word, v.toNat % 256 ^ 8 = v.toNat := fun v => Nat.mod_eq_of_lt v.isLt
  have out : ∀ (l : List Host.Cell) (k v j : Nat), j + 8 ≤ k → Mem.read (Mem.write l k 8 v) j 8 = Mem.read l j 8 :=
    fun l k v j h => Mem.read_write_out l k 8 v j 8 (.inl h)
  have size : 256 ^ 8 = 2 ^ 64 := by norm_num
  subst hf
  refine ⟨?_, ?_, ?_, ?_, ?_⟩
  · rw [Mach.trapMem, out _ _ _ _ (by omega), out _ _ _ _ (by omega), out _ _ _ _ (by omega), out _ _ _ _ (by omega),
      Mem.read_write_self, word]
  · rw [Mach.trapMem, out _ _ _ _ (by omega), out _ _ _ _ (by omega), out _ _ _ _ (by omega), Mem.read_write_self, size]
  · rw [Mach.trapMem, out _ _ _ _ (by omega), out _ _ _ _ (by omega), Mem.read_write_self, word]
  · rw [Mach.trapMem, out _ _ _ _ (by omega), Mem.read_write_self, word]
  · rw [Mach.trapMem, Mem.read_write_self, size]

theorem Mach.get_trapMem_out {a : Nat} (h : a < m.trapKey c x ∨ m.trapKey c x + 40 ≤ a) :
    Mem.get (m.trapMem c x t pc bad) a = Mem.get m.mem a := by
  rw [Mach.trapMem, Mem.get_write_out _ _ _ _ _ (by omega), Mem.get_write_out _ _ _ _ _ (by omega),
    Mem.get_write_out _ _ _ _ _ (by omega), Mem.get_write_out _ _ _ _ _ (by omega),
    Mem.get_write_out _ _ _ _ _ (by omega)]

theorem contains_filter_range (l : List Nat) (f n k : Nat) :
    (l.filter (fun k => !(decide (f ≤ k) && decide (k < f + n)))).contains k =
      (l.contains k && !(decide (f ≤ k) && decide (k < f + n))) := by
  rw [Bool.eq_iff_iff]
  simp

end

end Sys2Proof.Machine

open Sys2Proof Sys2Proof.Machine

/-- Settles O39: trap entry writes the words of its frame and replaces one context. -/
theorem trapEntry : Obligations.TrapEntry := by
  unfold Obligations.TrapEntry
  intro m c x t pc bad h v f u status
  have entered : u = (m.trapSaved c x t pc bad).setCtx c x (m.trapCtx c x t pc bad) := m.enterTrap_eq c x pc h
  clear_value u
  subst entered
  obtain ⟨word0, word1, word2, word3, word4⟩ := m.read_trapMem c x t pc bad f rfl
  rw [Mach.ctx_setCtx_self]
  exact ⟨rfl, rfl, rfl, rfl, rfl, rfl, rfl, rfl, rfl, word0, word1, word2, word3, word4,
    fun a out => m.get_trapMem_out c x t pc bad out, fun d y other => Mach.ctx_setCtx_ne _ _ other,
    fun k => contains_filter_range m.scratchBad f 40 k, rfl⟩

/-- Settles O59: no duty is recorded at reset, and a duty that is not recorded is 16. -/
theorem dutyAtReset : Obligations.DutyAtReset := by
  unfold Obligations.DutyAtReset
  have full : ∀ c, State.reset.power.dutyOf c = 16 := fun _ => rfl
  exact ⟨fun c => by rw [full c]; decide, full⟩

/-- Settles O56: each word is decoded. -/
theorem decodedWords : Obligations.DecodedWords := by
  unfold Obligations.DecodedWords
  decide

end

section
/-!
PROOF. Stores (R416, R150, R153): the stores of a core to its own window and what performs them, the bytes that a store
writes, and O20.
-/
namespace Sys2Proof.Machine

/-! ### The stores of a core to its own window, performed in turn -/

/-- A list taken apart at the first store of a core. -/
theorem exists_first_store {l : List (Nat × List (Nat × Byte))} {c n : Nat} (h : (l.filter (fun w => w.1 == c)).length = n + 1) :
    ∃ w l₁ l₂, w.1 = c ∧ (∀ x ∈ l₁, x.1 ≠ c) ∧ l = l₁ ++ w :: l₂ := by
  have some_store : l.filter (fun w => w.1 == c) ≠ [] := fun e => by rw [e] at h; exact absurd h (by simp)
  obtain ⟨x, hx⟩ := List.exists_mem_of_ne_nil _ some_store
  obtain ⟨hx, mine⟩ := List.mem_filter.mp hx
  obtain ⟨w, l₁, l₂, others, own, split, _⟩ := List.exists_of_eraseP (p := fun w => w.1 == c) hx mine
  exact ⟨w, l₁, l₂, beq_iff_eq.mp own, fun y hy => by simpa using others y hy, split⟩

section
variable {w : Nat × List (Nat × Byte)} {l₁ l₂ : List (Nat × List (Nat × Byte))} {c : Nat} (own : w.1 = c)
include own

theorem find_first_store (others : ∀ x ∈ l₁, x.1 ≠ c) : (l₁ ++ w :: l₂).find? (fun w => w.1 == c) = some w := by
  have none : l₁.find? (fun w => w.1 == c) = none := by simpa using others
  rw [List.find?_append, none]
  simp [own]

theorem erase_first_store (others : ∀ x ∈ l₁, x.1 ≠ c) : (l₁ ++ w :: l₂).eraseP (fun w => w.1 == c) = l₁ ++ l₂ := by
  rw [List.eraseP_append_right _ (fun x hx => by simpa using others x hx)]
  simp [own]

theorem others_of_first_store : (l₁ ++ w :: l₂).filter (fun w => w.1 != c) = (l₁ ++ l₂).filter (fun w => w.1 != c) := by
  simp [own]

theorem count_first_store : ((l₁ ++ w :: l₂).filter (fun w => w.1 == c)).length =
    ((l₁ ++ l₂).filter (fun w => w.1 == c)).length + 1 := by
  simp [own]
  omega

end

/-- The device after the oldest store of a core. -/
theorem Mach.performOwn_succ (m : Mach) {c : Nat} (n : Nat) {w : Nat × List (Nat × Byte)} {l₁ l₂ : List (Nat × List (Nat × Byte))}
    (own : w.1 = c) (others : ∀ x ∈ l₁, x.1 ≠ c) (h : m.ownStores = l₁ ++ w :: l₂) :
    m.performOwn c (n + 1) = ({ m with ownStores := l₁ ++ l₂ }.storeScratch w.2).performOwn c n := by
  rw [Mach.performOwn, h, find_first_store own others, erase_first_store own others]

/-- What is left of the stores once those of a core are performed. -/
theorem Mach.performOwn_ownStores (m : Mach) (c n : Nat) (h : (m.ownStores.filter (fun w => w.1 == c)).length = n) :
    (m.performOwn c n).ownStores = m.ownStores.filter (fun w => w.1 != c) := by
  induction n generalizing m with
  | zero =>
    have none := List.filter_eq_nil_iff.mp (List.length_eq_zero_iff.mp h)
    exact (List.filter_eq_self.mpr fun w hw => by simpa using none w hw).symm
  | succ n ih =>
    obtain ⟨w, l₁, l₂, own, others, split⟩ := exists_first_store h
    rw [split, count_first_store own] at h
    rw [m.performOwn_succ n own others split, ih _ (Nat.succ.inj h), split, others_of_first_store own]
    rfl

theorem Mach.settleOwn_ownStores (m : Mach) (c : Nat) :
    (m.settleOwn c).ownStores = m.ownStores.filter (fun w => w.1 != c) := m.performOwn_ownStores c _ rfl

theorem Mach.settleOwn_none (m : Mach) (c : Nat) (h : ∀ w ∈ m.ownStores, w.1 ≠ c) : m.settleOwn c = m := by
  have none : m.ownStores.filter (fun w => w.1 == c) = [] := List.filter_eq_nil_iff.mpr fun w hw => by simpa using h w hw
  rw [Mach.settleOwn, none]
  rfl

theorem Mach.settleOwn_first (m : Mach) (c : Nat) (bytes : List (Nat × Byte)) (rest : List (Nat × List (Nat × Byte)))
    (h : m.ownStores = (c, bytes) :: rest) :
    m.settleOwn c = ({ m with ownStores := rest }.storeScratch bytes).settleOwn c := by
  have first : ((c, bytes) :: rest).filter (fun w => w.1 == c) = (c, bytes) :: rest.filter (fun w => w.1 == c) := by simp
  rw [Mach.settleOwn, h, first, List.length_cons,
    m.performOwn_succ (l₁ := []) _ rfl (fun _ hx => absurd hx List.not_mem_nil) h]
  rfl

/-- A device with one store of a core behind the others. -/
def Mach.withStore (m : Mach) (c : Nat) (bytes : List (Nat × Byte)) : Mach :=
  { m with ownStores := m.ownStores ++ [(c, bytes)] }

/-- The newest store is performed last. -/
theorem Mach.performOwn_withStore (m : Mach) (c : Nat) (bytes : List (Nat × Byte)) (n : Nat)
    (h : (m.ownStores.filter (fun w => w.1 == c)).length = n) :
    (m.withStore c bytes).performOwn c (n + 1) = (m.performOwn c n).storeScratch bytes := by
  induction n generalizing m with
  | zero =>
    have none := List.filter_eq_nil_iff.mp (List.length_eq_zero_iff.mp h)
    rw [Mach.performOwn_succ _ 0 (w := (c, bytes)) (l₂ := []) rfl (fun w hw => by simpa using none w hw) rfl, List.append_nil]
    rfl
  | succ n ih =>
    obtain ⟨w, l₁, l₂, own, others, split⟩ := exists_first_store h
    rw [split, count_first_store own] at h
    have behind : (m.withStore c bytes).ownStores = l₁ ++ w :: (l₂ ++ [(c, bytes)]) := by
      rw [Mach.withStore, split, List.append_assoc, List.cons_append]
    rw [Mach.performOwn_succ _ (n + 1) own others behind, m.performOwn_succ n own others split, ← List.append_assoc]
    exact ih ({ m with ownStores := l₁ ++ l₂ }.storeScratch w.2) (Nat.succ.inj h)

/-- Whether a store is performed at once or not: once the core's stores are, it is performed after the earlier ones. -/
theorem Mach.settleOwn_storeOwn (m : Mach) (c : Nat) (bytes : List (Nat × Byte)) :
    (m.storeOwn c bytes).settleOwn c = (m.settleOwn c).storeScratch bytes := by
  rw [Mach.storeOwn]
  split
  case isTrue =>
    refine Mach.settleOwn_none _ c fun w hw => ?_
    have left : w ∈ (m.settleOwn c).ownStores := hw
    rw [m.settleOwn_ownStores] at left
    simpa using (List.mem_filter.mp left).2
  case isFalse =>
    have count : ((m.ownStores ++ [(c, bytes)]).filter (fun w => w.1 == c)).length =
        (m.ownStores.filter (fun w => w.1 == c)).length + 1 := by simp
    show (m.withStore c bytes).performOwn c _ = _
    rw [Mach.withStore, count]
    exact m.performOwn_withStore c bytes _ rfl

theorem Mach.storeOwn_later (m : Mach) (c : Nat) (bytes : List (Nat × Byte)) (h : ∀ b ∈ bytes, m.inFrame c b.1 = false) :
    m.storeOwn c bytes = m.withStore c bytes := by
  have none : bytes.any (fun b => m.inFrame c b.1) = false := by simpa using h
  rw [Mach.storeOwn, none]
  rfl

theorem Mach.storeOwn_at_once (m : Mach) (c : Nat) (bytes : List (Nat × Byte)) {b : Nat × Byte} (hb : b ∈ bytes)
    (h : m.inFrame c b.1 = true) : m.storeOwn c bytes = (m.settleOwn c).storeScratch bytes := by
  have some_byte : bytes.any (fun b => m.inFrame c b.1) = true := List.any_eq_true.mpr ⟨b, hb, h⟩
  rw [Mach.storeOwn, some_byte]
  rfl

/-- The device with other contexts. -/
def Mach.withCtxs (m : Mach) (t : Table Ctx) : Mach := { m with ctxs := t }

/-- A change of contexts does not touch the stores. -/
theorem Mach.performOwn_withCtxs (m : Mach) (c n : Nat) (t : Table Ctx) :
    (m.withCtxs t).performOwn c n = (m.performOwn c n).withCtxs t := by
  induction n generalizing m with
  | zero => rfl
  | succ n ih =>
    cases found : m.ownStores.find? (fun w => w.1 == c) with
    | none =>
      have same : (m.withCtxs t).ownStores.find? (fun w => w.1 == c) = none := found
      rw [Mach.performOwn, Mach.performOwn, same, found]
    | some w =>
      have same : (m.withCtxs t).ownStores.find? (fun w => w.1 == c) = some w := found
      rw [Mach.performOwn, Mach.performOwn, same, found]
      exact ih ({ m with ownStores := m.ownStores.eraseP (fun w => w.1 == c) }.storeScratch w.2)

theorem Mach.me_settleOwn (m : Mach) (c : Nat) : (m.settleOwn c).me = m.me := by
  rw [Mach.me, Mach.me, Mach.ctx, Mach.ctx, m.settleOwn_cur, m.settleOwn_ctxs]

theorem Mach.settleOwn_done (m : Mach) (c : Nat) : m.done.settleOwn c = (m.settleOwn c).done := by
  have whole : ∀ y : Mach, y.done = y.withCtxs (Table.set y.ctxs (16 * y.cur.core + y.cur.ctx) y.inSequence) := fun _ => rfl
  rw [whole, whole, Mach.inSequence, Mach.inSequence, m.me_settleOwn, m.settleOwn_cur, m.settleOwn_ctxs]
  exact m.performOwn_withCtxs c _ _

theorem Mach.storeOwn_empties (m : Mach) (c : Nat) (bytes : List (Nat × Byte)) : (m.storeOwn c bytes).empties = m.empties := by
  rw [Mach.storeOwn]
  split
  · show (m.settleOwn c).empties = m.empties
    rw [m.settleOwn_frame c]
  · rfl

/-! ### The bytes of a store -/

/-- The bytes of a number, at keys from `k` on. -/
def storeBytes (k n v : Nat) : List (Nat × Byte) := (bytesAt 0 n v).map (fun b => (k + b.1, b.2))

theorem storeBytes_eq (k n v : Nat) : storeBytes k n v = ((List.range n).zip (toBytes n v)).map (fun b => (k + b.1, b.2)) := by
  rw [storeBytes, bytesAt, List.map_map]
  simp

theorem storeBytes_succ (k n v : Nat) :
    storeBytes k (n + 1) v = (k, BitVec.ofNat 8 v) :: storeBytes (k + 1) n (v / 256) := by
  rw [storeBytes_eq, storeBytes_eq, List.range_succ_eq_map, toBytes, List.zip_cons_cons, List.map_cons, List.zip_map_left,
    List.map_map]
  simp [Nat.add_assoc, Nat.add_comm 1]

/-- A store of the bytes is the write of the number. -/
theorem writeAll_storeBytes (l : List Host.Cell) (k n v : Nat) : Mem.writeAll l (storeBytes k n v) = Mem.write l k n v := by
  induction n generalizing l k v with
  | zero => rfl
  | succ n ih => rw [storeBytes_succ, Mem.writeAll, Mem.write, ih]

/-- The keys of the bytes of a store. -/
theorem storeBytes_keys {k n v : Nat} {b : Nat × Byte} (h : b ∈ storeBytes k n v) : k ≤ b.1 ∧ b.1 < k + n := by
  induction n generalizing k v with
  | zero => exact absurd h List.not_mem_nil
  | succ n ih =>
    rw [storeBytes_succ] at h
    rcases List.mem_cons.mp h with rfl | later
    · exact ⟨Nat.le_refl _, by omega⟩
    · have := ih later
      omega

theorem exists_storeBytes {k n v a : Nat} (low : k ≤ a) (high : a < k + n) : ∃ b ∈ storeBytes k n v, b.1 = a := by
  induction n generalizing k v with
  | zero => omega
  | succ n ih =>
    rw [storeBytes_succ]
    rcases Nat.eq_or_lt_of_le low with rfl | below
    · exact ⟨_, List.mem_cons_self, rfl⟩
    · obtain ⟨b, hb, key⟩ := ih (v := v / 256) below (by omega)
      exact ⟨b, List.mem_cons_of_mem _ hb, key⟩

theorem Mach.read_storeScratch (m : Mach) (k n v : Nat) :
    Mem.read (m.storeScratch (storeBytes k n v)).mem k n = v % 2 ^ (8 * n) := by
  show Mem.read (Mem.writeAll m.mem (storeBytes k n v)) k n = _
  rw [writeAll_storeBytes, Mem.read_write_self, Nat.pow_mul]

/-- All that a store of bytes and a completion change. -/
theorem Mach.differs_storeScratch (m : Mach) (k n v : Nat) :
    m.Differs (m.storeScratch (storeBytes k n v)).done (fun x => k ≤ x ∧ x < k + n) m.inSequence := by
  have outside : ∀ {x}, ¬ (k ≤ x ∧ x < k + n) → ∀ b ∈ storeBytes k n v, b.1 ≠ x := fun out b hb e =>
    out (e ▸ storeBytes_keys hb)
  refine ⟨rfl, fun x out => Mem.get_writeAll_out _ _ _ (outside out), fun _ _ _ => rfl, fun w out _ => ?bads,
    fun c x other => Mach.ctx_setCtx_ne _ _ other, Mach.ctx_setCtx_self _ _ _ _⟩
  case bads =>
    have uncovered : ¬ (List.range 8).all (fun i => (storeBytes k n v).any (fun b => b.1 == w + i)) = true := fun all => by
      have first := List.all_eq_true.mp all 0 (by simp)
      obtain ⟨b, hb, key⟩ := List.any_eq_true.mp first
      exact outside out b hb (by simpa using key)
    show (m.scratchBad.filter _).contains w = m.scratchBad.contains w
    rw [Bool.eq_iff_iff]
    simp only [List.contains_eq_mem, decide_eq_true_eq, List.mem_filter, Bool.not_eq_true', decide_eq_false_iff_not,
      not_and]
    exact ⟨fun h => h.1, fun h => ⟨h, fun _ => uncovered⟩⟩

/-! ### ST (R416) -/

/-- A store's own window is checked at once, and nothing is performed before it (R153). -/
theorem Mach.memCheck_store_local {m m1 : Mach} {a : Word} {n k : Nat}
    (h : m.memCheck a n .store = .ok (.local k, m1)) : m1 = m := by
  simp only [Mach.memCheck] at h
  split at h
  · exact nomatch h
  split at h
  · exact nomatch h
  split at h
  · split at h
    · exact nomatch h
    · exact (Prod.mk.inj (Except.ok.inj h)).2.symm
  split at h
  · split at h
    · exact nomatch h
    · split at h
      · exact (Prod.mk.inj (Except.ok.inj h)).2.symm
      · exact nomatch h
  split at h
  · split at h
    · exact nomatch h
    · exact nomatch h
  · split at h
    · exact nomatch h
    · exact nomatch h

/-- A store once its registers are read: the check, and then its bytes. -/
theorem exec_st (s : State) {t a : BitVec 5} (z : BitVec 2) (imm : BitVec 11) (ha : s.m.canReadW a) (ht : s.m.canReadW t)
    {n : Nat} (hn : n = 2 ^ z.toNat) {x : Word} (hx : x = s.m.w a + BitVec.ofInt 64 (imm.toInt * n)) :
    exec (.st t a z imm) s = .next (s.on (s.m.settle (s.m.memCheck x n .store >>= fun r =>
      .ok (r.2.storeAt x (bytesAt 0 n (s.m.w t).toNat) r.1)))) := by
  show execSt t a z imm s = _
  refine s.onMach_eq ?_
  rw [s.m.readW_ok ha, s.m.readW_ok ht, hx, ← signExtend_mul11, hn]
  rfl

end Sys2Proof.Machine

open Sys2Proof Sys2Proof.Machine

/-- Settles O20: by the check of the address, and for the own window by what performs the core's stores. -/
theorem stores : Obligations.Stores := by
  unfold Obligations.Stores
  refine ⟨fun s t a z imm k m1 => ?own, fun m c => ⟨m.settleOwn_none c, m.settleOwn_first c,
    m.settleOwn_ownStores c, fun bytes out => ?later, m.settleOwn_storeOwn c, fun bytes k out => ?others⟩,
    fun s t a z imm => ?forms⟩
  case own =>
    intro n c v ha ht checked
    obtain rfl := Mach.memCheck_store_local checked
    have runs := exec_st s z imm ha ht rfl rfl
    rw [checked] at runs
    have settled : ((s.m.storeOwn c (storeBytes k n (s.m.w t).toNat)).done).settleOwn c =
        ((s.m.settleOwn c).storeScratch (storeBytes k n (s.m.w t).toNat)).done := by
      rw [Mach.settleOwn_done, Mach.settleOwn_storeOwn]
    refine ⟨s.on (s.m.storeOwn c (storeBytes k n (s.m.w t).toNat)).done, runs, rfl, rfl, s.m.storeOwn_empties c _,
      fun out => ?_, fun x low high inside => ?_, ?_, ?_⟩
    · have later := s.m.storeOwn_later c (storeBytes k n (s.m.w t).toNat) fun b hb =>
        out b.1 (storeBytes_keys hb).1 (storeBytes_keys hb).2
      show (s.m.storeOwn c (storeBytes k n (s.m.w t).toNat)).mem = s.m.mem
      rw [later, Mach.withStore]
    · obtain ⟨b, hb, rfl⟩ := exists_storeBytes (v := (s.m.w t).toNat) low high
      have at_once := s.m.storeOwn_at_once c _ hb inside
      exact (congrArg (fun y => Mem.read y.mem k n) at_once).trans (Mach.read_storeScratch _ k n _)
    · exact (congrArg (fun y => Mem.read y.mem k n) settled).trans (Mach.read_storeScratch _ k n _)
    · have differs := (s.m.settleOwn c).differs_storeScratch k n (s.m.w t).toNat
      rw [← settled, Mach.inSequence, Mach.me_settleOwn] at differs
      exact differs
  case later => rw [m.storeOwn_later c bytes out, Mach.withStore]
  case others => exact Mem.get_writeAll_out m.mem bytes k out
  case forms =>
    intro n x bytes ha ht
    have runs := exec_st s z imm ha ht (n := n) (x := x) rfl rfl
    refine ⟨fun e refused => ?refused, fun p m1 checked => ⟨fun plain => ?plain, fun parks => ?parks⟩⟩
    case refused =>
      rw [refused] at runs
      exact runs
    case plain =>
      rw [checked] at runs
      have goes_on : m1.storeAt x bytes p = (m1.storeData x bytes p).done := by
        rw [Mach.storeAt, plain, Mach.issuedAt, plain]
        rfl
      exact goes_on ▸ runs
    case parks =>
      rw [checked] at runs
      have waits : m1.storeAt x bytes p = ((m1.drainAll m1.cur.core).storeData x bytes p).await
          (.access (m1.drainAll m1.cur.core).nextId x none [] {}) := by
        rw [Mach.storeAt, parks, Mach.issuedAt, parks]
        rfl
      exact waits ▸ runs

end

section
/-!
PROOF. O53: a tick sets every duty in turn (R263), and what an entry hides that a later duty takes out of the table.
-/
namespace Sys2Proof.Machine

theorem Power.setDuty_same {p : Power} {c v : Nat} (h : p.dutyOf c = v) (cycles : Nat) : p.setDuty cycles c v = p := if_pos h

/-- Duties set that are as they were. -/
theorem Power.foldl_setDuty_same (p : Power) (cycles : Nat → Nat) (l : List Nat) (h : ∀ c ∈ l, p.dutyOf c = 16) :
    l.foldl (fun p c => p.setDuty (cycles c) c 16) p = p := by
  induction l with
  | nil => rfl
  | cons c l ih =>
    rw [List.foldl_cons, Power.setDuty_same (h c List.mem_cons_self)]
    exact ih fun x hx => h x (List.mem_cons_of_mem c hx)

/-- The numbers of the cores, taken apart at core 64. -/
theorem range_at_64 : List.range 1024 = List.range' 0 64 ++ 64 :: List.range' 65 959 := by
  have joined : List.range' 0 64 ++ List.range' 64 960 = List.range' 0 1024 := List.range'_append
  rw [List.range_eq_range', ← joined]
  rfl

/-- The table of `unsortedDuty` once core 64's entry is gone. -/
theorem dutyOf_of_uncovered {p : Power} (h : p.duty = [(2, 99)]) (c : Nat) : p.dutyOf c = if c = 2 then 99 else 16 := by
  rw [Power.dutyOf, h]
  simp only [Table.get, Table.find]
  rcases Nat.lt_trichotomy 2 c with above | rfl | below
  · rw [if_neg (by omega), if_pos above, if_neg (by omega)]
    rfl
  · rfl
  · rw [if_neg (by omega), if_neg (by omega), if_neg (by omega)]
    rfl

/-- A tick that gives every core the full duty sets only core 64's, and uncovers that of core 2. -/
theorem dutyOf_setDuties {p : Power} (h : p.duty = unsortedDuty.duty) (m : Mach) :
    (p.setDuties m (fun _ => 16)).dutyOf 2 = 99 := by
  have before : ∀ c, p.dutyOf c = if c = 64 then 3 else 16 := fun c => by
    rw [Power.dutyOf, h]
    exact unsortedDuty_dutyOf c
  have uncovered : (p.setDuty (m.core 64).cycles 64 16).duty = [(2, 99)] := by
    have differs : ¬ p.dutyOf 64 = 16 := by rw [before]; decide
    rw [Power.setDuty, if_neg differs, if_pos rfl, h]
    rfl
  have after := dutyOf_of_uncovered uncovered
  rw [Power.setDuties, range_at_64, List.foldl_append, List.foldl_cons]
  rw [p.foldl_setDuty_same (fun c => (m.core c).cycles) _ fun c hc => ?low]
  rw [Power.foldl_setDuty_same _ (fun c => (m.core c).cycles) _ fun c hc => ?high]
  · exact after 2
  case low =>
    have := List.mem_range'_1.mp hc
    rw [before, if_neg (by omega)]
  case high =>
    have := List.mem_range'_1.mp hc
    rw [after, if_neg (by omega)]

/-- The duties after a tick of a device in no collective. -/
theorem exec_isobarTick_due (x : Measures) (s : State) (due : s.now = 10000 * (s.power.ticked + 1))
    (alone : s.power.collective = false) : ∃ (u : State) (q : Power), exec (.isobarTick x) s = .next u ∧
      u.power = q.setDuties s.m (fun c => dutyFor (x.budget (s.power.limit * 1000) c) (x.core c) (s.m.dutyFloor c)) ∧
      q.duty = s.power.duty :=
  ⟨_, _, if_neg (not_not_intro due), if_neg (by rw [alone]; exact Bool.false_ne_true), rfl⟩

/-- A tick is due, and the duty table is that of `unsortedDuty`. -/
def tickDue : State := { m := { now := 10000 }, power := unsortedDuty, agenda := [] }

/-- Nothing is demanded. -/
def idleMeasures : Measures :=
  { demand := [], fixed := [], matrix := [], temps := [], budgetClock := [], thermalSteps := 0, rated := false }

/-- The duty of a core of which nothing is demanded. -/
theorem dutyFor_idle (b floor c : Nat) : dutyFor b (idleMeasures.core c) floor = 16 := rfl

end Sys2Proof.Machine

open Sys2Proof Sys2Proof.Machine

/-- Refutes O53: where a duty table is not in order, the entry of core 64 hides one of 99 for core 2. A tick sets the
duties in turn, core 2's at 16 as it reads, then takes core 64's entry out; core 2's duty is then 99 and not 16. -/
theorem not_powerEvents : ¬ Obligations.PowerEvents := by
  unfold Obligations.PowerEvents
  intro holds
  obtain ⟨_, ticks, _⟩ := holds tickDue idleMeasures 1 1 1
  obtain ⟨u, runs, duties, _⟩ := ticks rfl
  obtain ⟨u', q, runs', power, table⟩ := exec_isobarTick_due idleMeasures tickDue rfl rfl
  obtain rfl : u' = u := Host.Outcome.next.inj (runs'.symm.trans runs)
  have duty := duties rfl 2 (by decide)
  simp only [power, dutyFor_idle] at duty
  rw [dutyOf_setDuties table] at duty
  exact absurd duty (by decide)

end

section
/-!
PROOF. A reference more on a closure (R99): the counts of a control word, the forwarding entries passed, and O30.
-/
namespace Sys2Proof.Machine

/-! ### The counts of a control word (R94) -/

/-- The bits of a control word with new counts. -/
theorem getLsbD_setCounts (w : Word) {refs flight i : Nat} (hr : refs < 65536) (hi : i < 64) :
    (setCounts w refs flight).getLsbD i = if i < 16 then refs.testBit i
      else if i < 32 then flight.testBit (i - 16) else (w.getLsbD i || flight.testBit (i - 16)) := by
  have sum : refs + 65536 * flight = 2 ^ 16 * flight + refs := by omega
  have ones : (0xFFFFFFFF : Word).getLsbD i = decide (i < 32) := by
    have mask : (0xFFFFFFFF : Word) = BitVec.ofNat 64 (2 ^ 32 - 1) := rfl
    rw [mask, BitVec.getLsbD_ofNat, Nat.testBit_two_pow_sub_one]
    simp [hi]
  rw [setCounts, BitVec.getLsbD_or, BitVec.getLsbD_and, BitVec.getLsbD_not, ones, BitVec.getLsbD_ofNat, sum,
    Nat.testBit_two_pow_mul_add _ hr]
  by_cases low : i < 16
  · simp [low, hi, show i < 32 by omega]
  · by_cases mid : i < 32 <;> simp [low, mid, hi]

theorem testBit_ctlFlight (w : Word) (i : Nat) :
    (ctlFlight w).testBit i = (decide (i < 16) && w.getLsbD (16 + i)) := by
  rw [ctlFlight, field, Nat.testBit_mod_two_pow, Nat.testBit_div_two_pow, Nat.add_comm i 16]
  rfl

/-- New references leave every other bit of a control word. -/
theorem getLsbD_setCounts_flight (w : Word) {refs i : Nat} (hr : refs < 65536) (hi : 16 ≤ i) :
    (setCounts w refs (ctlFlight w)).getLsbD i = w.getLsbD i := by
  by_cases inside : i < 64
  · rw [getLsbD_setCounts w hr inside, testBit_ctlFlight, show 16 + (i - 16) = i by omega, if_neg (by omega)]
    by_cases mid : i < 32
    · rw [if_pos mid]
      simp [show i - 16 < 16 by omega]
    · simp [mid, show ¬ i - 16 < 16 by omega]
  · rw [BitVec.getLsbD_of_ge _ _ (by omega), BitVec.getLsbD_of_ge _ _ (by omega)]

theorem ctlRefs_setCounts (w : Word) {refs : Nat} (hr : refs < 65536) (flight : Nat) :
    ctlRefs (setCounts w refs flight) = refs := by
  refine Nat.eq_of_testBit_eq fun i => ?_
  rw [ctlRefs, field, Nat.pow_zero, Nat.div_one, Nat.testBit_mod_two_pow]
  by_cases low : i < 16
  · have bit : (setCounts w refs flight).toNat.testBit i = refs.testBit i := by
      have h := getLsbD_setCounts w (flight := flight) hr (show i < 64 by omega)
      rwa [if_pos low] at h
    rw [bit, decide_eq_true low, Bool.true_and]
  · have beyond : refs < 2 ^ i :=
      Nat.lt_of_lt_of_le (show refs < 2 ^ 16 from hr) (Nat.pow_le_pow_right (by decide) (Nat.le_of_not_lt low))
    rw [decide_eq_false low, Bool.false_and, Nat.testBit_lt_two_pow beyond]

theorem ctlRefs_lt (w : Word) : ctlRefs w < 65536 := Nat.mod_lt _ (by decide)

/-! ### The forwarding entries passed (R260) -/

/-- Where the frame is not marked MOVED no entry is passed. -/
theorem Mach.touch_of_not_moved {m : Mach} {h : Handle} {a : Nat} (still : m.movedAt a h = false) :
    m.touch h a = m := by
  simp [Mach.touch, Mach.touchFrom, still]

/-- Passing entries changes the cores only. -/
theorem Mach.touchFrom_cores (m : Mach) (h : Handle) (n c : Nat) :
    m.touchFrom h n c = { m with cores := (m.touchFrom h n c).cores } := by
  induction n generalizing m c with
  | zero => rfl
  | succ n ih =>
    rw [Mach.touchFrom]
    split
    · split
      · rename_i f _
        exact ih (m.modCore c fun r =>
          { r with forwards := r.forwards.map fun g => if g = f then { g with used := m.now } else g }) f.dest
      · rfl
    · rfl

/-- Passing entries changes nothing of a core but its entries. -/
theorem Mach.touchFrom_core (m : Mach) (h : Handle) (n c x : Nat) :
    { (m.touchFrom h n c).core x with forwards := [] } = { m.core x with forwards := [] } := by
  induction n generalizing m c with
  | zero => rfl
  | succ n ih =>
    rw [Mach.touchFrom]
    split
    · split
      · rename_i f _
        rw [ih]
        by_cases here : x = c
        · rw [here, Mach.core_modCore_self]
        · rw [Mach.core_modCore_ne _ _ here]
      · rfl
    · rfl

/-! ### The reference taken -/

/-- The frame found is one that is not marked MOVED, at its core's place for the handle. -/
theorem Mach.frameOf_ok {m : Mach} {h : Handle} {n a c k : Nat} (found : m.frameOf h n a = .ok (c, k)) :
    k = m.envKey c (hIndex h) ∧ ctlMoved (m.ctl k) = false := by
  induction n generalizing a with
  | zero => cases found
  | succ n ih =>
    rw [Mach.frameOf] at found
    split at found
    · cases found
    split at found
    · cases found
    simp only at found
    split at found
    · cases found
    split at found
    · split at found
      · exact ih found
      · cases found
    rename_i still
    split at found
    · cases found
    · cases found
      exact ⟨rfl, Bool.eq_false_iff.mpr still⟩

theorem Mach.live_ok {m : Mach} {p : Nat} {h : Handle} {a c k : Nat} (found : m.live p h a = .ok (c, k)) :
    k = m.envKey c (hIndex h) ∧ ctlMoved (m.ctl k) = false := by
  rw [Mach.live] at found
  split at found
  · cases found
  · exact Mach.frameOf_ok found

/-- New counts that free no frame write the control word only. -/
theorem Mach.putCounts_of_refs (m : Mach) (c k flight : Nat) {refs : Nat} (some : refs ≠ 0) :
    m.putCounts c k refs flight = m.write (k + 8) 8 (setCounts (m.ctl k) refs flight).toNat := by
  simp [Mach.putCounts, some]

/-- What DUPK does once its checks pass (R99, R365). -/
theorem Mach.dupRef_ok {m m1 : Mach} {p : Nat} {h : Handle} {a : Nat} (dup : m.dupRef p h a = .ok m1) :
    ∃ c k, m.live p h a = .ok (c, k) ∧ ctlRefs (m.ctl k) < 65535 ∧
      m1 = (m.write (k + 8) 8 (setCounts (m.ctl k) (ctlRefs (m.ctl k) + 1) (ctlFlight (m.ctl k))).toNat).touch h a := by
  rw [Mach.dupRef] at dup
  split at dup
  · cases dup
  rename_i c k found
  refine ⟨c, k, found, ?_⟩
  simp only at dup
  split at dup
  · cases dup
  split at dup
  · cases dup
  rename_i room
  have := ctlRefs_lt (m.ctl k)
  refine ⟨by omega, ?_⟩
  rw [← Mach.putCounts_of_refs m c k _ (Nat.succ_ne_zero _)]
  exact (Except.ok.inj dup).symm

end Sys2Proof.Machine
open Sys2Proof Sys2Proof.Machine

/-- Settles O30, from what DUPK does once its checks pass: the word written back has one reference more, and the
entries passed change the cores' lists of them only. -/
theorem dupAddsOneReference : Obligations.DupAddsOneReference := by
  intro m m1 p h dup
  obtain ⟨c, k, found, room, after⟩ := Mach.dupRef_ok dup
  obtain ⟨place, still⟩ := Mach.live_ok found
  have fits : ctlRefs (m.ctl k) + 1 < 65536 := by omega
  generalize counts : setCounts (m.ctl k) (ctlRefs (m.ctl k) + 1) (ctlFlight (m.ctl k)) = w at after
  have same := Mach.touchFrom_cores (m.write (k + 8) 8 w.toNat) h 1024 (hHome h)
  have cores := Mach.touchFrom_core (m.write (k + 8) 8 w.toNat) h 1024 (hHome h)
  change m1 = (m.write (k + 8) 8 w.toNat).touchFrom h 1024 (hHome h) at after
  rw [← after] at same cores
  have mem : m1.mem = Mem.write m.mem (k + 8) 8 w.toNat := by rw [same]; rfl
  have word : m1.ctl k = w := by
    have back := Mach.word_write_self m (k + 8) w
    rwa [Mach.word, Mach.read, show (m.write (k + 8) 8 w.toNat).mem = m1.mem from mem.symm] at back
  refine ⟨c, k, found, ?refs, ?bits, ?bytes, ?rest, ?home, cores⟩
  case refs => rw [word, ← counts, ctlRefs_setCounts _ fits]
  case bits =>
    intro i hi
    rw [word, ← counts, getLsbD_setCounts_flight _ fits hi]
  case bytes =>
    intro a out
    rw [mem]
    exact Mem.get_write_out _ _ _ _ a (by omega)
  case rest => rw [mem]; exact same
  case home =>
    intro own
    have unmoved : (m.write (k + 8) 8 w.toNat).movedAt (hHome h) h = false := by
      have moved : ctlMoved ((m.write (k + 8) 8 w.toNat).ctl k) = false := by
        rw [Mach.ctl, Mach.word_write_self, ← counts, ctlMoved, getLsbD_setCounts_flight _ fits (by omega)]
        exact still
      have key : (m.write (k + 8) 8 w.toNat).envKey (hHome h) (hIndex h) = k := by rw [place, own]; rfl
      rw [Mach.movedAt, key]
      simp [moved]
    rw [after]
    exact (congrArg Mach.cores (Mach.touch_of_not_moved unmoved) :)
end

section
/-!
PROOF. The end of a task (R63, R369): what it gives up leaves memory, contexts and frames; O35.
-/
namespace Sys2Proof.Machine

/-! ### Packets (R172 to R176) -/

/-- A packet entering its send slot changes the packets only. -/
theorem Mach.launch_eq (m : Mach) (src : Nat) (plane : Bool) :
    m.launch src plane = { m with packets := (m.launch src plane).packets } := by
  rw [Mach.launch]
  split <;> rfl

/-- A packet sent changes the packets and the identifiers only. -/
theorem Mach.inject_eq (m : Mach) (p : Packet) :
    m.inject p = { m with nextId := m.nextId + 1, packets := (m.inject p).packets } := by
  rw [Mach.inject]
  simp only
  split
  · rfl
  · exact Mach.launch_eq _ _ _

/-! ### What a task gives up (R63, R125, R187) -/

/-- A core apart from its channels and the stores that wait to be combined. -/
def Core.unsent (r : Core) : Core := { r with chans := [], combine := [] }

/-- Whether `n` is `m` but for packets, and the channels and combined stores of core `c`. -/
structure Mach.Sent (c : Nat) (m n : Mach) : Prop where
  mem : n.mem = m.mem
  empties : n.empties = m.empties
  ctxs : n.ctxs = m.ctxs
  core : (n.core c).unsent = (m.core c).unsent

theorem Mach.Sent.refl (c : Nat) (m : Mach) : Mach.Sent c m m := ⟨rfl, rfl, rfl, rfl⟩

theorem Mach.Sent.trans {c : Nat} {m n l : Mach} (h : Mach.Sent c m n) (g : Mach.Sent c n l) : Mach.Sent c m l :=
  ⟨g.mem.trans h.mem, g.empties.trans h.empties, g.ctxs.trans h.ctxs, g.core.trans h.core⟩

theorem Mach.sent_inject (c : Nat) (m : Mach) (p : Packet) : Mach.Sent c m (m.inject p) := by
  rw [Mach.inject_eq]
  exact ⟨rfl, rfl, rfl, rfl⟩

theorem Mach.sent_modCore (m : Mach) (c : Nat) {f : Core → Core} (keeps : ∀ r, (f r).unsent = r.unsent) :
    Mach.Sent c m (m.modCore c f) :=
  ⟨rfl, rfl, rfl, by rw [Mach.core_modCore_self, keeps]⟩

theorem Mach.sent_drainOne (m : Mach) (c : Nat) : Mach.Sent c m (m.drainOne c) := by
  rw [Mach.drainOne]
  split
  · exact .refl c m
  · rename_i e t _
    exact (m.sent_modCore c (f := fun r => { r with combine := t }) fun _ => rfl).trans (Mach.sent_inject c _ _)

theorem Mach.sent_drain (m : Mach) (c n : Nat) : Mach.Sent c m (m.drain c n) := by
  induction n generalizing m with
  | zero => exact .refl c m
  | succ n ih => exact (m.sent_drainOne c).trans (ih _)

theorem Mach.sent_sendUnpin (m : Mach) (c : Nat) (p : Nat × Nat) : Mach.Sent c m (m.sendUnpin c p) :=
  (m.sent_drain c _).trans (Mach.sent_inject c _ _)

theorem Mach.sent_giveUp (m : Mach) (c : Nat) (v : Ctx) : Mach.Sent c m (m.giveUp c v) := by
  have pin : Mach.Sent c m (match v.pin with | some p => m.sendUnpin c p | none => m) := by
    cases v.pin with
    | some p => exact m.sent_sendUnpin c p
    | none => exact .refl c m
  rw [Mach.giveUp]
  cases v.slot with
  | some ch => exact pin.trans (Mach.sent_modCore _ c fun _ => rfl)
  | none => exact pin

/-! ### The frame of a task that ended (R23, R104) -/

/-- Releasing a frame changes the core's list of frames in use, its pins and its generations. -/
theorem Mach.frameEnded_eq (m : Mach) (c i : Nat) :
    m.frameEnded c i = if Table.get (m.core c).pins i 0 = 0 then m.releaseFrame c i else m := rfl

/-- The machine of a task that has given up what it holds and whose context is free. -/
def Mach.freed (m : Mach) (c x : Nat) : Mach := (m.giveUp c (m.ctx c x)).setCtx c x (endedCtx x (m.ctx c x))

theorem Mach.core_freed (m : Mach) (c x : Nat) : ((m.freed c x).core c).unsent = (m.core c).unsent :=
  (m.sent_giveUp c (m.ctx c x)).core

theorem Mach.frames_freed (m : Mach) (c x : Nat) : ((m.freed c x).core c).pins = (m.core c).pins ∧
    ((m.freed c x).core c).gens = (m.core c).gens ∧ ((m.freed c x).core c).used = (m.core c).used :=
  ⟨(congrArg Core.pins (m.core_freed c x) :), (congrArg Core.gens (m.core_freed c x) :),
    (congrArg Core.used (m.core_freed c x) :)⟩

theorem Mach.endTask_eq (m : Mach) (c x : Nat) :
    m.endTask c x = if x = 11 then m.freed c x
      else match (m.core c).frameNo (m.ctx c x).wp with
        | some i => (m.freed c x).frameEnded c i
        | none => m.freed c x := by
  have same : ((m.freed c x).core c).frameNo = (m.core c).frameNo := by
    funext off
    exact (congrArg (fun r : Core => r.frameNo off) (m.core_freed c x) :)
  rw [← same]
  rfl

/-- Whichever frame is released, the end of a task leaves memory as it was and frees the context only. -/
theorem Mach.endTask_frame (m : Mach) (c x : Nat) :
    (m.endTask c x).mem = m.mem ∧ (m.endTask c x).empties = m.empties ∧
      (m.endTask c x).ctxs = (m.freed c x).ctxs := by
  have given := m.sent_giveUp c (m.ctx c x)
  have freed : (m.freed c x).mem = m.mem ∧ (m.freed c x).empties = m.empties ∧
    (m.freed c x).ctxs = (m.freed c x).ctxs := ⟨given.mem, given.empties, rfl⟩
  rw [Mach.endTask_eq]
  split
  · exact freed
  · split
    · rw [Mach.frameEnded]
      split
      · exact freed
      · exact freed
    · exact freed

theorem Mach.ctx_freed_ne (m : Mach) (c : Nat) {x y : Nat} (other : y ≠ x) : (m.freed c x).ctx c y = m.ctx c y := by
  rw [Mach.freed, Mach.ctx_setCtx_ne _ _ (by omega), Mach.ctx, (m.sent_giveUp c (m.ctx c x)).ctxs]
  rfl

theorem live_endedCtx {x : Nat} (v : Ctx) (helper : x ≠ 0) : (endedCtx x v).live = false := by
  show (freshCtx x).live = false
  rw [freshCtx, if_neg helper]

end Sys2Proof.Machine
open Sys2Proof Sys2Proof.Machine

/-- Settles O35, from the machine with the context free: the frame that WP names is then released unless it is
pinned. -/
theorem taskEnd : Obligations.TaskEnd := by
  intro s c x
  have ends : exec .endTask s = .next (s.on s.m.endMe) := s.onMach_eq rfl
  refine ⟨fun control => ?_, fun helper => ⟨s.on (s.m.endTask c x), ?runs, rfl, ?live, ?mem, ?empties, ?others, ?frame, ?shadow⟩⟩
  · rw [ends, Mach.endMe, if_pos control]
  case runs => rw [ends, Mach.endMe, if_neg helper]
  all_goals obtain ⟨mem, empties, ctxs⟩ := s.m.endTask_frame c x
  case live =>
    show ((s.m.endTask c x).ctx c x).live = false
    rw [Mach.ctx, ctxs]
    exact (congrArg Ctx.live (Mach.ctx_setCtx_self _ c x _)).trans (live_endedCtx _ helper)
  case mem => exact mem
  case empties => exact empties
  case others =>
    intro y _ other
    show (s.m.endTask c x).ctx c y = s.m.ctx c y
    rw [Mach.ctx, ctxs]
    exact s.m.ctx_freed_ne c other
  case frame =>
    intro i pool frame
    obtain ⟨pins, gens, used⟩ := s.m.frames_freed c x
    have after : s.m.endTask c x = (s.m.freed c x).frameEnded c i := by
      rw [Mach.endTask_eq, if_neg pool, show (s.m.core c).frameNo (s.m.ctx c x).wp = some i from frame]
    show (_ → Table.get ((s.m.endTask c x).core c).gens i 0 = _ ∧ ((s.m.endTask c x).core c).used = _) ∧
      (_ → ((s.m.endTask c x).core c).gens = _ ∧ ((s.m.endTask c x).core c).used = _)
    change ((s.m.freed c x).core c).pins = s.m.myCore.pins at pins
    change ((s.m.freed c x).core c).gens = s.m.myCore.gens at gens
    change ((s.m.freed c x).core c).used = s.m.myCore.used at used
    rw [after, Mach.frameEnded_eq, pins]
    constructor
    · intro unpinned
      rw [if_pos unpinned, Mach.releaseFrame, Mach.core_modCore_self]
      simp only [gens, used, Table.get_set_self]
      exact ⟨trivial, trivial⟩
    · intro pinned
      rw [if_neg pinned]
      exact ⟨gens, used⟩
  case shadow =>
    intro shadow
    show ((s.m.endTask c x).core c).gens = _ ∧ ((s.m.endTask c x).core c).used = _
    rw [Mach.endTask_eq, if_pos shadow]
    exact (s.m.frames_freed c x).2
end

section
/-!
PROOF. Loads (R383, R333): the value of a read, a load once its register is read, and O19.
-/
namespace Sys2Proof.Machine

/-! ### The value of a read -/

/-- A read of bytes is below the number that they can hold. -/
theorem Mem.read_lt (l : List Host.Cell) (k n : Nat) : Mem.read l k n < 2 ^ (8 * n) := by
  induction n generalizing k with
  | zero => exact Nat.one_pos
  | succ n ih =>
    have low := (Mem.get l k).isLt
    have high := ih (k + 1)
    rw [Mem.read, Nat.mul_succ, Nat.pow_add]
    omega

/-- A zero-extended value is written as it is. -/
theorem toNat_intOf_unsigned {w v : Nat} (fits : v < 2 ^ w) (width : w ≤ 64) :
    (intOf w false v % (2 ^ 64 : Nat)).toNat = v := by
  have below : v < 2 ^ 64 := Nat.lt_of_lt_of_le fits (Nat.pow_le_pow_right (by decide) width)
  rw [intOf, Nat.mod_eq_of_lt fits]
  exact_mod_cast Nat.mod_eq_of_lt below

/-- A sign-extended value, written modulo 2^64. -/
theorem toNat_intOf_signed {w v : Nat} (fits : v < 2 ^ w) (width : w ≤ 64) :
    (intOf w true v % (2 ^ 64 : Nat)).toNat = if v < 2 ^ (w - 1) then v else v + 2 ^ 64 - 2 ^ w := by
  have wide : 2 ^ w ≤ 2 ^ 64 := Nat.pow_le_pow_right (by decide) width
  rw [intOf, Nat.mod_eq_of_lt fits]
  generalize 2 ^ w = u at fits wide
  by_cases neg : v < 2 ^ (w - 1)
  · rw [if_pos neg, if_neg (by simpa using neg)]
    omega
  · rw [if_neg neg, if_pos (by simpa using neg)]
    omega

/-- The widths of an access. -/
theorem size_le (z : BitVec 2) : 8 * 2 ^ z.toNat ≤ 64 := by
  rcases size_cases z with rfl | rfl | rfl | rfl <;> decide

/-! ### LD (R383) -/

/-- What a load does with what its access gave: the value known at issue, or the reply of the packet sent. -/
def Mach.loaded (d : BitVec 5) (n : Nat) (sg : Bool) (x : Word) (p : Place) : Got × Mach → Mach
  | (.value v, m) => (m.late (m.lateW d) (.value (intOf (8 * n) sg v % (2 ^ 64 : Nat)).toNat 0) true).done
  | (.packet id fill, m) =>
    (m.late (m.lateW d) (.parts { wait := [(0, n, id)], size := n, signed := sg, fill := fill }) true).issuedAt p m.nextId x

/-- A load once its register is read: the check, the access, and the late result. -/
theorem exec_ld (s : State) {d a : BitVec 5} (z : BitVec 2) (imm : BitVec 11) (sg : Bool) (ha : s.m.canReadW a)
    {n : Nat} (hn : n = 2 ^ z.toNat) {x : Word} (hx : x = s.m.w a + BitVec.ofInt 64 (imm.toInt * n)) :
    exec (if sg then .ldI d a z imm else .ldN d a z imm) s = .next (s.on (s.m.settle
      (s.m.memCheck x n .load >>= fun r => r.2.fetchData x n r.1 true >>= fun g =>
        .ok (Mach.loaded d n sg x r.1 g)))) := by
  have runs : exec (if sg then .ldI d a z imm else .ldN d a z imm) s = s.onMach (fun m => m.load d a z imm sg) := by
    cases sg <;> rfl
  rw [runs]
  refine s.onMach_eq ?_
  rw [Mach.load, s.m.readW_ok ha, hx, ← signExtend_mul11, hn]
  show s.m.settle (s.m.memCheck _ _ .load >>= _) = _
  refine congrArg (fun f => s.m.settle (s.m.memCheck _ _ .load >>= f)) (funext fun r => ?_)
  refine congrArg (fun f => r.2.fetchData _ _ r.1 true >>= f) (funext fun g => ?_)
  rcases g with ⟨_ | _, m⟩ <;> rfl

end Sys2Proof.Machine
open Sys2Proof Sys2Proof.Machine

/-- Settles O19: by the check of the address and the access, which in the own window reads at issue. -/
theorem loads : Obligations.Loads := by
  unfold Obligations.Loads
  refine ⟨fun s d a z imm => ?own, fun s d a z imm sg i => ?forms⟩
  case own =>
    intro n x k m ha window good v out
    have got : m.fetchData x n (.local k) true = .ok (.value v, m) := by
      rw [Mach.fetchData, any_bad m _ good]
      rfl
    have runs : ∀ sg : Bool, exec (if sg then .ldI d a z imm else .ldN d a z imm) s =
        .next (s.on (Mach.loaded d n sg x (.local k) (.value v, m))) := fun sg => by
      have ld := exec_ld s (d := d) z imm sg ha (n := n) (x := x) rfl rfl
      rw [s.m.memCheck_own .load window] at ld
      refine ld.trans ?_
      show Host.Outcome.next (s.on (s.m.settle (m.fetchData x n (.local k) true >>= _))) = _
      rw [got]
      rfl
    have fits : v < 2 ^ (8 * n) := Mem.read_lt _ _ _
    have narrow := runs false
    have wide := runs true
    rw [Mach.loaded, toNat_intOf_unsigned fits (size_le z)] at narrow
    rw [Mach.loaded, toNat_intOf_signed fits (size_le z)] at wide
    exact ⟨narrow, wide⟩
  case forms =>
    intro n x form ha
    have runs := exec_ld s (d := d) z imm sg ha (n := n) (x := x) rfl rfl
    rw [← form] at runs
    refine ⟨fun t refused => ?_, fun p m1 checked => ?_⟩
    · rw [refused] at runs
      exact runs
    rw [checked] at runs
    replace runs : exec i s = .next (s.on (s.m.settle (m1.fetchData x n p true >>= fun g =>
      .ok (Mach.loaded d n sg x p g)))) := runs
    refine ⟨fun t bad => ?_, fun v m2 known => ?_, fun id fill m2 sent => ?_⟩
    · rw [bad] at runs
      exact runs
    · rw [known] at runs
      exact runs
    · rw [sent] at runs
      exact runs
end

section
/-!
PROOF. Synchronising accesses (R385, R411, R418, R341): what they do at a word of the own window, and O21.
-/
namespace Sys2Proof.Machine

/-- A scaled displacement of any width. -/
theorem signExtend_mul {w : Nat} (i : BitVec w) (n : Nat) :
    signExtend w i * BitVec.ofNat 64 n = BitVec.ofInt 64 (i.toInt * n) := by
  rw [BitVec.ofInt_mul, signExtend]
  rfl

/-- A scaled displacement with the scale first. -/
theorem signExtend_mul' {w : Nat} (i : BitVec w) (n : Nat) :
    signExtend w i * BitVec.ofNat 64 n = BitVec.ofInt 64 (n * i.toInt) := by
  rw [signExtend_mul, Int.mul_comm]

/-! ### A word of the own window -/

/-- A word of the own window is aligned. -/
theorem Mach.ownWindow_aligned {m : Mach} {x : Word} (window : m.ownWindow x 8) (c : Nat) :
    scratchKey c (offOf x) % 8 = 0 := by
  simp only [Mach.ownWindow, Bool.and_eq_true, beq_iff_eq] at window
  have aligned : x.toNat % 8 = 0 := window.1.2
  rw [scratchKey, offOf, field]
  omega

/-- What an operation does with what its word answers: one of an uncorrectable word traps, and one that finds its word's
count at 0 is reported. -/
def Mach.syncTaken (m : Mach) (x : Word) : Option (Body × Mach) → Res Mach
  | some (.failed .fullEmptyMisuse _, m) => .ok (m.errorEntry m.cur.core .fullEmptyMisuse x m.me.pc (some m.cur.ctx)).done
  | some (.failed e _, _) => .error { cause := e, bad := x }
  | some (_, m) => .ok m.done
  | none => .ok m.done

section
variable {m : Mach} {x : Word} {op : MemOp}

/-- The word of an access to the own window, and the device once the core's stores there are performed. -/
def Mach.ownWord (m : Mach) (x : Word) : Nat := scratchKey m.cur.core (offOf x)
def Mach.settled (m : Mach) : Mach := m.settleOwn m.cur.core

theorem Mach.syncOp_own (window : m.ownWindow x 8) :
    m.syncOp x op = m.syncTaken x (m.settled.performScratch op (m.ownWord x)) := by
  rw [Mach.syncOp, m.syncCheck_own .store window]
  rfl

end

/-! ### ARRIVE at its word (R341) -/

section
variable (m : Mach) {k : Nat} (aligned : k % 8 = 0)
include aligned

theorem Mach.word_bad : ((wordsOf k 8).any fun w => m.scratchBad.contains w) = m.scratchBad.contains k := by
  rw [wordsOf_aligned k aligned, List.any_cons, List.any_nil, Bool.or_false]

theorem Mach.performScratch_arrive (good : k ∉ m.scratchBad) (count : field (m.word k) 0 63 ≠ 0) :
    m.performScratch .arrive k = some (.ack,
      if field (m.word k - 1) 0 63 = 0 then (m.write k 8 (m.word k - 1).toNat).fill k
      else m.write k 8 (m.word k - 1).toNat) := by
  simp only [Mach.performScratch, m.word_bad aligned]
  simp [good, arriveWord, count]

theorem Mach.performScratch_arrive_zero (good : k ∉ m.scratchBad) (count : field (m.word k) 0 63 = 0) :
    m.performScratch .arrive k = some (.failed .fullEmptyMisuse false, m) := by
  simp only [Mach.performScratch, m.word_bad aligned]
  simp [good, arriveWord, count]

theorem Mach.performScratch_arrive_bad (bad : k ∈ m.scratchBad) :
    m.performScratch .arrive k = some (.failed .scratchUncorrectable false, m) := by
  simp only [Mach.performScratch, m.word_bad aligned]
  simp [bad]

/-! ### LDS at its word (R385) -/

theorem Mach.performScratch_sync (take : Bool) (full : m.full k = true) (good : k ∉ m.scratchBad) :
    m.performScratch (.sync take) k = some (.data (m.read k 8), if take then m.empty k else m) := by
  simp only [Mach.performScratch, m.word_bad aligned]
  simp [full, good]

theorem Mach.performScratch_sync_bad (take : Bool) (full : m.full k = true) (bad : k ∈ m.scratchBad) :
    m.performScratch (.sync take) k = some (.failed .scratchUncorrectable false, m) := by
  simp only [Mach.performScratch, m.word_bad aligned]
  simp [full, bad]

end

theorem Mach.performScratch_sync_empty (m : Mach) {k : Nat} (take : Bool) (empty : m.full k = false) :
    m.performScratch (.sync take) k = none := by
  simp [Mach.performScratch, empty]

/-! ### The instructions, their registers read -/

section
variable (s : State) {t a : BitVec 5} (ha : s.m.canReadW a)
include ha

theorem exec_stf (imm : BitVec 11) (ht : s.m.canReadW t) :
    exec (.stf t a imm) s = .next (s.on (s.m.settle
      (s.m.syncOp (s.m.w a + BitVec.ofInt 64 (imm.toInt * 8)) (.setFull (s.m.w t))))) := by
  show execStf t a imm s = _
  refine s.onMach_eq ?_
  have off : signExtend 11 imm * 8 = BitVec.ofInt 64 (imm.toInt * 8) := signExtend_mul imm 8
  rw [s.m.readW_ok ha, s.m.readW_ok ht, ← off]
  rfl

theorem exec_sete (imm : BitVec 11) :
    exec (.sete a imm) s = .next (s.on (s.m.settle
      (s.m.syncOp (s.m.w a + BitVec.ofInt 64 (imm.toInt * 8)) .setEmpty))) := by
  show execSete a imm s = _
  refine s.onMach_eq ?_
  have off : signExtend 11 imm * 8 = BitVec.ofInt 64 (imm.toInt * 8) := signExtend_mul imm 8
  rw [s.m.readW_ok ha, ← off]
  rfl

theorem exec_arrive : exec (.arrive a) s = .next (s.on (s.m.settle (s.m.syncOp (s.m.w a) .arrive))) := by
  show execArrive a s = _
  refine s.onMach_eq ?_
  rw [s.m.readW_ok ha]
  rfl

end

/-- The two forms of LDS. -/
def ldsForm (t a : BitVec 5) (imm : BitVec 11) (take : Bool) : Instr := if take then .ldsC t a imm else .lds t a imm

/-- What an LDS of a word of the own window does with what its word answers. -/
def Mach.syncWaits (m : Mach) (x : Word) (id k : Nat) (take : Bool) : Option (Body × Mach) → Res Mach
  | some (.failed e _, _) => .error { cause := e, bad := x }
  | some (.data v, m) => .ok ((m.setLate id (.value v 0)).awaitSync id)
  | some (_, m) => .ok m.done
  | none =>
    if m.myCore.waiters.length < 64 then
      .ok ((m.modCore m.cur.core (fun r => { r with waiters := r.waiters ++ [(id, k, take)] })).awaitSync id)
    else .ok (((m.request m.cur.core (.mem (.sync take) k x false)).setLate id
      (.parts { wait := [(0, 8, m.nextId)], size := 8 })).awaitSync id)

/-- What an LDS does once its address is checked. -/
def Mach.syncFrom (d : BitVec 5) (x : Word) (take : Bool) : Place × Mach → Res Mach
  | (.local k, m) =>
    let t := m.late (m.lateW d) (.token true)
    t.syncWaits x m.nextId k take (t.performScratch (.sync take) k)
  | (.remote h k, m) =>
    let t := m.request h (.mem (.sync take) k x false)
    .ok ((t.late (t.lateW d) (.parts { wait := [(0, 8, m.nextId)], size := 8 }) true).awaitSync (m.nextId + 1))
  | _ => .error { cause := .addressClass, bad := x }

/-- An LDS once its register is read: the check, and then its word. -/
theorem exec_lds (s : State) {t a : BitVec 5} (imm : BitVec 11) (take : Bool) (ha : s.m.canReadW a) {x : Word}
    (hx : x = s.m.w a + BitVec.ofInt 64 (imm.toInt * 8)) :
    exec (ldsForm t a imm take) s = .next (s.on (s.m.settle (s.m.syncCheck x .load >>= Mach.syncFrom t x take))) := by
  have runs : exec (ldsForm t a imm take) s = s.onMach (fun m => m.loadSync t a imm take) := by cases take <;> rfl
  rw [runs]
  refine s.onMach_eq ?_
  have off : signExtend 11 imm * 8 = BitVec.ofInt 64 (imm.toInt * 8) := signExtend_mul imm 8
  rw [Mach.loadSync, s.m.readW_ok ha, hx, ← off]
  show s.m.settle (s.m.syncCheck _ .load >>= _) = _
  refine congrArg (fun f => s.m.settle (s.m.syncCheck _ .load >>= f)) (funext fun r => ?_)
  obtain ⟨⟨k⟩ | ⟨h, k⟩ | ⟨pa, pte⟩ | _, m⟩ := r <;> rfl

/-- A synchronising access that is refused, or that its word's home serves. -/
theorem Mach.syncOp_refused {m : Mach} {x : Word} {op : MemOp} {e : Trap} (refused : m.syncCheck x .store = .error e) :
    m.syncOp x op = .error e := by
  rw [Mach.syncOp, refused]
  rfl

theorem Mach.syncOp_remote {m m1 : Mach} {x : Word} {op : MemOp} {h k : Nat}
    (checked : m.syncCheck x .store = .ok (.remote h k, m1)) :
    m.syncOp x op = .ok (m1.request h (.mem op k x false)).done := by
  rw [Mach.syncOp, checked]
  rfl

end Sys2Proof.Machine
open Sys2Proof Sys2Proof.Machine

/-- Settles O21: in the own window by what the word answers once the core's stores are performed, elsewhere by the
check of the address. -/
theorem localSynchronisation : Obligations.LocalSynchronisation := by
  unfold Obligations.LocalSynchronisation
  refine ⟨fun s t a imm => ?own, fun s t a imm i op => ?elsewhere, fun s a => ?misuse⟩
  case own =>
    intro x k m0 ha window
    have aligned : k % 8 = 0 := Mach.ownWindow_aligned window s.m.cur.core
    refine ⟨fun ht => ?stf, ?sete, fun still => ?arrive, ?lds⟩
    case stf =>
      rw [exec_stf s ha imm ht, Mach.syncOp_own window]
      rfl
    case sete =>
      rw [exec_sete s ha imm, Mach.syncOp_own window]
      rfl
    case arrive =>
      intro m
      have here : s.m.w a = x := by
        show s.m.w a = s.m.w a + BitVec.ofInt 64 (imm.toInt * 8)
        rw [still]
        exact (BitVec.add_zero _).symm
      have runs := exec_arrive s ha
      rw [here, Mach.syncOp_own window] at runs
      refine ⟨fun good count => ?_, fun bad => ?_⟩
      · have word : s.m.settled.performScratch .arrive (s.m.ownWord x) = _ := m0.performScratch_arrive aligned good count
        rw [word] at runs
        exact runs
      · have word : s.m.settled.performScratch .arrive (s.m.ownWord x) = _ := m0.performScratch_arrive_bad aligned bad
        rw [word] at runs
        exact runs
    case lds =>
      intro id m v lds
      have cores : m.myCore = s.m.myCore := by
        rw [Mach.myCore, Mach.core, Mach.late_cores, Mach.late_cur, s.m.settleOwn_cores, s.m.settleOwn_cur]
        rfl
      have cur : m.cur = s.m.cur := by rw [Mach.late_cur, s.m.settleOwn_cur]
      have words : m0.lateW t = s.m.lateW t := by
        rw [Mach.lateW, Mach.lateW, Mach.wKey, Mach.regKey, Mach.me_settleOwn, s.m.settleOwn_cur]
        rfl
      have old : m.read k 8 = v := by
        show Mem.read m.mem k 8 = Mem.read m0.mem k 8
        rw [Mach.late_mem]
      have runs : ∀ c, exec (ldsForm t a imm c) s = .next (s.on (s.m.settle
          (m.syncWaits x id k c (m.performScratch (.sync c) k)))) := fun c => by
        rw [exec_lds s imm c ha rfl, s.m.syncCheck_own .load window]
        rfl
      refine ⟨?_, fun full good => ⟨?_, ?_⟩, fun full bad c => ?_, fun empty room c => ?_, fun empty none c => ?_⟩
      · rw [Mach.late_full, s.m.settleOwn_full, words]
      · have lds := runs false
        rw [m.performScratch_sync aligned false full good, old] at lds
        exact lds
      · have lds := runs true
        rw [m.performScratch_sync aligned true full good, old] at lds
        exact lds
      · have lds := runs c
        rw [m.performScratch_sync_bad aligned c full bad] at lds
        exact lds
      · have lds := runs c
        rw [m.performScratch_sync_empty c empty, Mach.syncWaits, cores, if_pos room, cur] at lds
        exact lds
      · have lds := runs c
        rw [m.performScratch_sync_empty c empty, Mach.syncWaits, cores, if_neg (Nat.not_lt.mpr none), cur] at lds
        exact lds
  case elsewhere =>
    intro x ha
    refine ⟨fun form ht hi => ?_, fun c form => ?_⟩
    · have runs : exec i s = .next (s.on (s.m.settle (s.m.syncOp x op))) := by
        simp only [List.mem_cons, Prod.mk.injEq, List.not_mem_nil, or_false] at form
        obtain ⟨rfl, rfl⟩ | ⟨rfl, rfl⟩ | ⟨rfl, rfl⟩ := form
        · exact exec_stf s ha imm (ht rfl)
        · exact exec_sete s ha imm
        · have here : s.m.w a = x := by
            show s.m.w a = s.m.w a + BitVec.ofInt 64 (imm.toInt * 8)
            rw [hi rfl]
            exact (BitVec.add_zero _).symm
          rw [exec_arrive s ha, here]
      refine ⟨fun e refused => ?_, fun h k m1 checked => ?_⟩
      · rw [runs, Mach.syncOp_refused refused]
        rfl
      · rw [runs, Mach.syncOp_remote checked]
        rfl
    · have runs : exec i s = .next (s.on (s.m.settle (s.m.syncCheck x .load >>= Mach.syncFrom t x c))) :=
        (congrArg (fun i => exec i s) form).trans (exec_lds s imm c ha rfl)
      refine ⟨fun e refused => ?_, fun h k m1 checked => ?_⟩
      · rw [refused] at runs
        exact runs
      · rw [checked] at runs
        exact runs
  case misuse =>
    intro x k m ha window good count
    have runs := exec_arrive s ha
    have word : s.m.settled.performScratch .arrive (s.m.ownWord x) = _ :=
      m.performScratch_arrive_zero (Mach.ownWindow_aligned window s.m.cur.core) good count
    rw [Mach.syncOp_own window, word] at runs
    exact runs
end

section
/-!
PROOF. Atomics (R336, R357): the number of a value, an atomic once its address is checked, and O22.
-/
namespace Sys2Proof.Machine

/-! ### The operations -/

/-- The number of an `n`-byte value, signed where `g` is 1. -/
def amoNum (n : Nat) (g : BitVec 1) (v : Nat) : Int :=
  if g = 1 ∧ 2 ^ (8 * n - 1) ≤ v then (v : Int) - 2 ^ (8 * n) else v

theorem intOf_amoNum {n v : Nat} (g : BitVec 1) (fits : v < 2 ^ (8 * n)) : intOf (8 * n) (g == 1) v = amoNum n g v := by
  rw [intOf, amoNum, Nat.mod_eq_of_lt fits]
  simp

theorem amoLess_num {n a b : Nat} (g : BitVec 1) (ha : a < 2 ^ (8 * n)) (hb : b < 2 ^ (8 * n)) :
    amoLess n (g == 1) a b = decide (amoNum n g a < amoNum n g b) := by
  rw [amoLess, intOf_amoNum g ha, intOf_amoNum g hb]

theorem field_low (w : Word) (n : Nat) : field w 0 n = w.toNat % 2 ^ n := by
  rw [field, Nat.pow_zero, Nat.div_one]

/-! ### An atomic once its registers are read -/

/-- The request of an atomic to its word's home, and its late result. -/
def Mach.sendAtomic (d : BitVec 5) (n : Nat) (g : BitVec 1) (m : Mach) (dst : Nat) (op : MemOp) (k : Nat) (x : Word)
    (pk : Bool) : Mach :=
  let m' := m.request dst (.mem op k x pk)
  m'.late (m'.lateW d) (.parts { wait := [(0, n, m.nextId)], size := n, signed := g == 1 }) true

/-- What an atomic does with what its word in the own window answers. -/
def Mach.atomicTaken (m : Mach) (d : BitVec 5) (n : Nat) (g : BitVec 1) (x : Word) : Option (Body × Mach) → Res Mach
  | some (.failed e _, _) => .error { cause := e, bad := x }
  | some (.data v, m) => .ok (m.late (m.lateW d) (.value (intOf (8 * n) (g == 1) v % (2 ^ 64 : Nat)).toNat 0) true).done
  | _ => .ok m.done

/-- What an atomic does once its address is checked. -/
def Mach.atomicFrom (c : Nat) (d : BitVec 5) (n : Nat) (g : BitVec 1) (x : Word) (op : MemOp) : Place × Mach → Res Mach
  | (.local k, m) => m.atomicTaken d n g x (m.performScratch op k)
  | (.remote h k, m) => .ok (m.sendAtomic d n g h op k x false).done
  | (.failed, m) => .ok (m.late (m.lateW d) (.value 0 0) true).done
  | (.global pa pte, m) =>
    let m2 := (m.dropL1 c (lineOf pa)).drainAll c
    .ok ((m2.sendAtomic d n g (m2.homeEnd c pa (hashUnit pte)) op pa x (ptePk pte)).issuedAt (.global pa pte) (m2.nextId + 1) x)

theorem Mach.atomicAt_eq (m : Mach) (d : BitVec 5) (x : Word) (n : Nat) (g : BitVec 1) (op : MemOp) :
    m.atomicAt d x n (g == 1) op = (m.memCheck x n .atomic >>= Mach.atomicFrom m.cur.core d n g x op) := by
  rw [Mach.atomicAt]
  refine congrArg (fun f => m.memCheck x n .atomic >>= f) (funext fun r => ?_)
  obtain ⟨⟨k⟩ | ⟨h, k⟩ | ⟨pa, pte⟩ | _, m⟩ := r <;> rfl

section
variable (s : State) {d a b : BitVec 5} (z : BitVec 2) (g : BitVec 1) (ha : s.m.canReadW a) (hd : s.m.canReadW d)
include ha hd

theorem Mach.amo_eq (f : Nat) (imm : BitVec 8) {n : Nat} (hn : n = 2 ^ z.toNat) :
    s.m.amo f d a z g imm = s.m.settle (s.m.atomicAt d (s.m.w a + BitVec.ofInt 64 (imm.toInt * n)) n (g == 1)
      (.amo f n (g == 1) ((s.m.w d).toNat % 2 ^ (8 * n)))) := by
  rw [Mach.amo, s.m.readW_ok ha, s.m.readW_ok hd, ← field_low, ← signExtend_mul imm n, hn]
  rfl

theorem exec_cas (hb : s.m.canReadW b) {n : Nat} (hn : n = 2 ^ z.toNat) :
    exec (.cas d a z g b) s = .next (s.on (s.m.settle (s.m.atomicAt d (s.m.w a) n (g == 1)
      (.cas n ((s.m.w d).toNat % 2 ^ (8 * n)) ((s.m.w b).toNat % 2 ^ (8 * n)))))) := by
  show execCas d a z g b s = _
  refine s.onMach_eq ?_
  rw [s.m.readW_ok ha, s.m.readW_ok hd, s.m.readW_ok hb, ← field_low, ← field_low, hn]
  rfl

end

/-- The AMO instructions and the numbers of their operations. -/
def amoForms (d a : BitVec 5) (z : BitVec 2) (g : BitVec 1) (imm : BitVec 8) : List (Instr × Nat) :=
  [(.amoAdd d a z g imm, 0), (.amoAnd d a z g imm, 1), (.amoOr d a z g imm, 2), (.amoXor d a z g imm, 3),
   (.amoMin d a z g imm, 4), (.amoMax d a z g imm, 5), (.amoSwap d a z g imm, 6)]

theorem exec_amo (s : State) {d a : BitVec 5} (z : BitVec 2) (g : BitVec 1) (imm : BitVec 8) {i : Instr} {f : Nat}
    (form : (i, f) ∈ amoForms d a z g imm) (ha : s.m.canReadW a) (hd : s.m.canReadW d) {n : Nat} (hn : n = 2 ^ z.toNat) :
    exec i s = .next (s.on (s.m.settle (s.m.atomicAt d (s.m.w a + BitVec.ofInt 64 (imm.toInt * n)) n (g == 1)
      (.amo f n (g == 1) ((s.m.w d).toNat % 2 ^ (8 * n)))))) := by
  rw [← Mach.amo_eq s z g ha hd f imm hn]
  simp only [amoForms, List.mem_cons, Prod.mk.injEq, List.not_mem_nil, or_false] at form
  obtain ⟨rfl, rfl⟩ | ⟨rfl, rfl⟩ | ⟨rfl, rfl⟩ | ⟨rfl, rfl⟩ | ⟨rfl, rfl⟩ | ⟨rfl, rfl⟩ | ⟨rfl, rfl⟩ := form <;> rfl

/-! ### The own window -/

/-- An atomic on the own window, its word good: the old value is a late result. -/
theorem Mach.atomicAt_own (m : Mach) (d : BitVec 5) {x : Word} {n old : Nat} (g : BitVec 1) {op : MemOp} {t : Mach}
    (window : m.ownWindow x n)
    (taken : m.settled.performScratch op (m.ownWord x) = some (.data old, t)) (fits : old < 2 ^ (8 * n)) :
    m.atomicAt d x n (g == 1) op = .ok (t.late (t.lateW d) (.value (amoNum n g old % (2 ^ 64 : Nat)).toNat 0) true).done := by
  rw [m.atomicAt_eq, m.memCheck_own .atomic window]
  show m.settled.atomicTaken d n g x (m.settled.performScratch op (m.ownWord x)) = _
  rw [taken, Mach.atomicTaken, intOf_amoNum g fits]

section
variable (m : Mach) {k n : Nat} (good : ∀ w ∈ wordsOf k n, w ∉ m.scratchBad)
include good

theorem Mach.performScratch_amo (f : Nat) (sg : Bool) (x : Nat) :
    m.performScratch (.amo f n sg x) k = some (.data (m.read k n), m.write k n (amoNew f n sg (m.read k n) x)) := by
  simp only [Mach.performScratch, any_bad m _ good]
  rfl

theorem Mach.performScratch_cas (x y : Nat) :
    m.performScratch (.cas n x y) k = some (.data (m.read k n), if m.read k n = x then m.write k n y else m) := by
  simp only [Mach.performScratch, any_bad m _ good]
  rfl

end

end Sys2Proof.Machine
open Sys2Proof Sys2Proof.Machine

/-- Settles O22: in the own window by what the word answers once the core's stores are performed, elsewhere by the
check of the address. -/
theorem atomics : Obligations.Atomics := by
  unfold Obligations.Atomics
  refine ⟨fun s d a b z g imm i new => ?own, fun s d a b z g imm i f => ?elsewhere⟩
  case own =>
    intro n num form ha hd hb m0 late
    have operand : (s.m.w d).toNat % 2 ^ (8 * n) < 2 ^ (8 * n) := Nat.mod_lt _ (Nat.two_pow_pos _)
    refine ⟨?amo, ?cas⟩
    case amo =>
      intro x k old window good
      have fits : old < 2 ^ (8 * n) := Mem.read_lt _ _ _
      obtain ⟨f, op, result⟩ : ∃ f, (i, f) ∈ amoForms d a z g imm ∧
          amoNew f n (g == 1) old ((s.m.w d).toNat % 2 ^ (8 * n)) = new old ((s.m.w d).toNat % 2 ^ (8 * n)) := by
        have less := amoLess_num g operand fits
        have more := amoLess_num g fits operand
        simp only [List.mem_cons, Prod.mk.injEq, List.not_mem_nil, or_false] at form
        obtain ⟨rfl, rfl⟩ | ⟨rfl, rfl⟩ | ⟨rfl, rfl⟩ | ⟨rfl, rfl⟩ | ⟨rfl, rfl⟩ | ⟨rfl, rfl⟩ | ⟨rfl, rfl⟩ := form
        · exact ⟨0, by simp [amoForms], rfl⟩
        · exact ⟨1, by simp [amoForms], rfl⟩
        · exact ⟨2, by simp [amoForms], rfl⟩
        · exact ⟨3, by simp [amoForms], rfl⟩
        · exact ⟨4, by simp [amoForms], by simp only [amoNew, less, decide_eq_true_eq]; rfl⟩
        · exact ⟨5, by simp [amoForms], by simp only [amoNew, more, decide_eq_true_eq]; rfl⟩
        · exact ⟨6, by simp [amoForms], rfl⟩
      have runs := exec_amo s z g imm op ha hd rfl
      rw [s.m.atomicAt_own d g window (m0.performScratch_amo good f (g == 1) _) fits] at runs
      show exec i s = .next (late (m0.write k n _) old)
      rw [← result]
      exact runs
    case cas =>
      intro k old window good
      have fits : old < 2 ^ (8 * n) := Mem.read_lt _ _ _
      have runs := exec_cas s z g ha hd hb rfl
      rw [s.m.atomicAt_own d g window (m0.performScratch_cas good _ _) fits] at runs
      exact runs
  case elsewhere =>
    intro n form ha hd hb v send here
    have served : ∀ x op i, exec i s = .next (s.on (s.m.settle (s.m.atomicAt d x n (g == 1) op))) → here x op i := by
      intro x op i runs
      rw [s.m.atomicAt_eq] at runs
      refine ⟨fun t refused => ?_, fun h k m1 checked => ?_, fun m1 checked => ?_, fun pa pte m1 checked => ?_⟩
      · rw [refused] at runs
        exact runs
      all_goals
        rw [checked] at runs
        exact runs
    exact ⟨served _ _ _ (exec_amo s z g imm form ha hd rfl), served _ _ _ (exec_cas s z g ha hd hb rfl)⟩
end

section
/-!
PROOF. Vector loads and stores (R434), gathers and scatters (R433, R436), fences and PREF (R156, R402); O23, O24 and
O25.
-/
namespace Sys2Proof.Machine

/-- The address of a block. -/
theorem blockAddr_eq (x : Word) (i : BitVec 12) : blockAddr x i = x + BitVec.ofInt 64 (64 * i.toInt) := by
  have off : 64 * signExtend 12 i = BitVec.ofInt 64 (64 * i.toInt) :=
    (BitVec.mul_comm _ _).trans (signExtend_mul' i 64)
  rw [blockAddr, off]

/-! ### VLD and VST (R434) -/

section
variable {s : State} {v : BitVec 4} {a : BitVec 5} {k : BitVec 3} {m0 : Mach} {mask : BitVec 16} {val : BitVec 4 → V}

/-- Reads with no vector source pop nothing. -/
theorem vecReads_none {m : Mach} {dest : Option (BitVec 4)} {ws : List (BitVec 5)}
    (h : m.vecReads dest [] k ws = some (m0, mask, val)) :
    m.needOperands [] k ws = .ok () ∧ m.portsReady dest [] ∧ m.readM k = .ok mask := by
  unfold Mach.vecReads at h
  by_cases ready : m.operandsFull [] k ws && m.portsReady dest []
  · rw [if_pos ready] at h
    rw [Bool.and_eq_true] at ready
    refine ⟨m.operandsFull_ok ready.1, ready.2, ?_⟩
    cases bits : m.readM k with
    | error e => simp [Mach.readVs, bits] at h
    | ok b =>
      simp only [Mach.readVs, bits, Option.some.injEq, Prod.mk.injEq] at h
      rw [h.2.1]
  · rw [if_neg ready] at h
    exact absurd h (by simp)

/-- What VLD does with what its access gave: the active lanes come late. -/
def Mach.vloaded (m : Mach) (v : BitVec 4) (mask : BitVec 16) (x : Word) (p : Place) : Got × Mach → Mach
  | (.value y, m2) => (m2.lateV v (.value (blend mask (BitVec.ofNat 512 y) (m.vimage v)).toNat 0) true).done
  | (.packet id fill, m2) =>
    (m2.lateV v (.parts { wait := [(0, 64, id)], size := 64, old := m.vimage v, mask := mask, fill := fill }) true).issuedAt
      p m2.nextId x (m.undoOf [v])

/-- VLD once its reads are made: the check, and the access where a lane is active. -/
theorem exec_vld (imm : BitVec 12) (h : s.m.vecReads (some v) [] k [a] = some (m0, mask, val)) (ha : s.m.canReadW a)
    {x : Word} (hx : x = s.m.w a + BitVec.ofInt 64 (64 * imm.toInt)) :
    exec (.vld v a k imm) s = .next (s.on (s.m.settle (s.m.memCheck x 64 .load >>= fun r =>
      if mask = 0 then .ok r.2.done else r.2.fetchData x 64 r.1 true >>= fun g =>
        .ok (s.m.vloaded v mask x r.1 g)))) := by
  obtain ⟨operands, ports, bits⟩ := vecReads_none h
  show execVld v a k imm s = _
  refine s.onMach_eq ?_
  rw [operands, s.m.popping_ok _ ports, s.m.readW_ok ha, bits, hx, ← blockAddr_eq]
  show s.m.settle (s.m.memCheck _ _ .load >>= _) = _
  refine congrArg (fun f => s.m.settle (s.m.memCheck _ _ .load >>= f)) (funext fun r => ?_)
  obtain ⟨p, k1⟩ := r
  by_cases none : mask = 0
  · simp only [none]
    rfl
  · simp only [none]
    refine congrArg (fun f => k1.fetchData _ _ p true >>= f) (funext fun g => ?_)
    obtain ⟨_ | _, k2⟩ := g <;> rfl

/-- VST once its reads are made. -/
theorem exec_vst (imm : BitVec 12) (h : s.m.vecReads none [v] k [a] = some (m0, mask, val)) (ha : m0.canReadW a)
    {x : Word} (hx : x = m0.w a + BitVec.ofInt 64 (64 * imm.toInt)) :
    exec (.vst v a k imm) s = .next (s.on (s.m.settle (m0.memCheck x 64 .store >>= fun r =>
      if mask = 0 then .ok r.2.done else .ok (r.2.storeAt x (laneBytes mask (val v)) r.1 (s.m.undoOf [v]))))) := by
  show execVst v a k imm s = _
  refine s.onMach_eq ?_
  rw [s.m.vecOp_ok _ h, m0.readW_ok ha, hx, ← blockAddr_eq]
  rfl

/-! ### VGATH and VSCAT (R433, R436) -/

/-- VGATH once its reads are made: the lanes' checks, and their accesses. -/
theorem exec_vgath {x : BitVec 4} (h : BitVec 2) (reads : s.m.vecReads (some v) [x] k [a] = some (m0, mask, val))
    (ha : m0.canReadW a) :
    exec (.vgath v a x k h) s = .next (s.on (s.m.settle
      (m0.checkLanes (m0.w a) (val x) h.toNat .load (activeLanes mask) >>= fun r =>
        if mask = 0 then .ok r.2.done else r.2.gatherLanes r.1 >>= fun g =>
          let m3 := g.2.2.lateV v
            (.parts { wait := g.1, got := g.2.1, size := 64, old := r.2.vimage v, mask := mask, gather := true }) true
          .ok (if r.1.any (fun p => p.2.2.parkable)
            then m3.await (.access g.2.2.nextId (m0.w a) none [] (s.m.undoOf [v, x])) else m3.done)))) := by
  show execVgath v a x k h s = _
  refine s.onMach_eq ?_
  rw [s.m.vecOp_ok _ reads, m0.readW_ok ha]
  rfl

/-- VSCAT once its reads are made: the lanes' checks, and their stores. -/
theorem exec_vscat {x : BitVec 4} (h : BitVec 2) (reads : s.m.vecReads none [v, x] k [a] = some (m0, mask, val))
    (ha : m0.canReadW a) :
    exec (.vscat v a x k h) s = .next (s.on (s.m.settle
      (m0.checkLanes (m0.w a) (val x) h.toNat .store (activeLanes mask) >>= fun r =>
        if r.1.any (fun p => p.2.2.parkable) then
          let m2 := r.2.drainAll r.2.cur.core
          .ok (m2.done.scatterNext r.2.cur.core m2.cur.ctx m2.me.task m2.me.pc (s.m.undoOf [v, x])
            (r.1.filterMap (fun p => (m2.homeOf p.2.2).map (fun h =>
              (p.1, p.2.1, (lane (val v) p.1).toNat, h.1, h.2, p.2.2.parkable)))))
        else .ok (r.1.foldl (fun m p => m.storeData p.2.1 (bytesAt 0 4 (lane (val v) p.1).toNat) p.2.2) r.2).done))) := by
  show execVscat v a x k h s = _
  refine s.onMach_eq ?_
  rw [s.m.vecOp_ok _ reads, m0.readW_ok ha]
  rfl

end

end Sys2Proof.Machine
open Sys2Proof Sys2Proof.Machine

/-- Settles O23, by the check of the address and, for VLD, what its access gave. -/
theorem vectorLoadsStores : Obligations.VectorLoadsStores := by
  intro s v a k imm off
  refine ⟨fun m0 mask val reads ha => ?load, fun m0 mask val reads ha => ?store⟩
  case load =>
    intro x
    have runs := exec_vld imm reads ha (x := x) rfl
    refine ⟨fun t refused => ?_, fun p m1 checked => ⟨fun none => ?_, fun some => ⟨fun t bad => ?_, fun y m2 known => ?_,
      fun id fill m2 sent => ?_⟩⟩⟩
    · rw [refused] at runs
      exact runs
    all_goals rw [checked] at runs
    · rw [runs, none]
      rfl
    all_goals
      replace runs : exec (.vld v a k imm) s = .next (s.on (s.m.settle (if mask = 0 then .ok m1.done
        else m1.fetchData x 64 p true >>= fun g => .ok (s.m.vloaded v mask x p g)))) := runs
      rw [if_neg some] at runs
    · rw [bad] at runs
      exact runs
    · rw [known] at runs
      exact runs
    · rw [sent] at runs
      exact runs
  case store =>
    intro x
    have runs := exec_vst imm reads ha (x := x) rfl
    refine ⟨fun t refused => ?_, fun p m1 checked => ⟨fun none => ?_, fun some => ?_⟩⟩
    · rw [refused] at runs
      exact runs
    all_goals
      rw [checked] at runs
      replace runs : exec (.vst v a k imm) s = .next (s.on (s.m.settle (if mask = 0 then .ok m1.done
        else .ok (m1.storeAt x (laneBytes mask (val v)) p (s.m.undoOf [v]))))) := runs
    · rw [if_pos none] at runs
      exact runs
    · rw [if_neg some] at runs
      exact runs

/-- Settles O24, by the checks of the lanes and, for VGATH, what their accesses gave. -/
theorem gatherScatter : Obligations.GatherScatter := by
  intro s v x a k h m0 mask val ha
  refine ⟨fun reads => ?gather, fun reads => ?scatter⟩
  case gather =>
    have runs := exec_vgath h reads ha
    refine ⟨fun t refused => ?_, fun ps m1 checked => ⟨fun none => ?_, fun t some bad => ?_,
      fun wait got m2 some gathered => ?_⟩⟩
    · rw [refused] at runs
      exact runs
    all_goals rw [checked] at runs
    · rw [runs, none]
      rfl
    all_goals
      simp only [bind, Except.bind] at runs
      rw [if_neg some] at runs
    · rw [bad] at runs
      exact runs
    · rw [gathered] at runs
      exact runs
  case scatter =>
    have runs := exec_vscat h reads ha
    refine ⟨fun t refused => ?_, fun ps m1 checked => ⟨fun plain => ?_, fun parks => ?_⟩⟩
    · rw [refused] at runs
      exact runs
    all_goals
      rw [checked] at runs
      simp only [bind, Except.bind] at runs
    · rw [if_neg (Bool.eq_false_iff.mp plain)] at runs
      exact runs
    · rw [if_pos parks] at runs
      exact runs

/-- Settles O25: a fence by what is outstanding, and PREF by its read of the register. -/
theorem fenceAndPrefetch : Obligations.FenceAndPrefetch := by
  intro s k sc c a imm acq rel sys core x t m free
  have fence : exec (.fence k sc) s = .next (s.on (if free then (if acq then m.acquire sc.toNat else m).done
      else m.stay (.fence acq rel sys))) := by
    show execFence k sc s = _
    exact s.onMach_eq rfl
  refine ⟨fun done => ?_, fun waits => ?_, fun ha => ?_⟩
  · rw [fence, if_pos done]
  · rw [fence, if_neg (Bool.eq_false_iff.mp waits)]
  · show execPref c a imm s = _
    refine s.onMach_eq ?_
    have off : signExtend 11 imm * 128 = BitVec.ofInt 64 (128 * imm.toInt) := signExtend_mul' imm 128
    rw [s.m.readW_ok ha, ← off]
    rfl
end

section
/-!
PROOF. Stream ports (R408, R415), handles at their homes (R365, R382, R393) and START (R417); O26, O29 and O31.
-/
namespace Sys2Proof.Machine

/-! ### Ports -/

/-- The vector register of port `p`. -/
theorem portReg_eq (p : BitVec 2) : (12 : BitVec 4) + p.setWidth 4 = BitVec.ofNat 4 (12 + p.toNat) := by
  revert p
  decide

/-! ### Handles -/

section
variable {s : State} {k : BitVec 3} (hk : s.m.canReadK k)
include hk

/-- A count at a home outside the partition. -/
theorem Mach.countRef_outside (op : HandleOp) (f : Mach → Nat → Handle → Except Cause Mach)
    (outside : s.m.inPart s.m.myPart (hHome (s.m.k k)) = false) :
    s.m.countRef k op f = s.m.trapMe (handleTrap .partitionViolation (s.m.k k)) := by
  rw [Mach.countRef, s.m.readK_ok hk]
  simp only [bind, Except.bind, outside]
  rfl

/-- A count at the own home. -/
theorem Mach.countRef_here (op : HandleOp) (f : Mach → Nat → Handle → Except Cause Mach)
    (inside : s.m.inPart s.m.myPart (hHome (s.m.k k)) = true) (home : hHome (s.m.k k) = s.m.cur.core) :
    (∀ m1, f s.m s.m.myPart (s.m.k k) = .ok m1 → s.m.countRef k op f = m1.done) ∧
      ∀ e, f s.m s.m.myPart (s.m.k k) = .error e → s.m.countRef k op f = s.m.trapMe (handleTrap e (s.m.k k)) := by
  rw [Mach.countRef, s.m.readK_ok hk]
  simp only [bind, Except.bind, inside]
  refine ⟨fun m1 ok => ?_, fun e bad => ?_⟩
  · simp only [if_pos home, ok]
    rfl
  · simp only [if_pos home, bad]
    rfl

/-- A count at another home. -/
theorem Mach.countRef_there (op : HandleOp) (f : Mach → Nat → Handle → Except Cause Mach)
    (inside : s.m.inPart s.m.myPart (hHome (s.m.k k)) = true) (away : hHome (s.m.k k) ≠ s.m.cur.core) :
    s.m.countRef k op f = (s.m.request (hHome (s.m.k k)) (.handle op (s.m.k k) s.m.me.rt)).await .counted := by
  rw [Mach.countRef, s.m.readK_ok hk]
  simp only [bind, Except.bind, inside, if_neg away]
  rfl

/-- KINFO once its register is read. -/
theorem exec_kinfo (w : BitVec 5) :
    exec (.kinfo k w) s = .next (s.on (s.m.settle (if !s.m.inPart s.m.myPart (hHome (s.m.k k)) then
        .error (handleTrap .partitionViolation (s.m.k k))
      else if hHome (s.m.k k) = s.m.cur.core || hGen (s.m.k k) = 0 then
        .ok (s.m.late (s.m.lateW w) (.value (s.m.handleInfo s.m.myPart (s.m.k k)) 0)).done
      else
        let m := s.m.request (hHome (s.m.k k)) (.handle .info (s.m.k k) s.m.me.rt)
        .ok (m.late (m.lateW w) (.parts { wait := [(0, 8, s.m.nextId)], size := 8 })).done))) := by
  show execKinfo k w s = _
  refine s.onMach_eq ?_
  rw [s.m.readK_ok hk]
  simp only [bind, Except.bind]

end

end Sys2Proof.Machine
open Sys2Proof Sys2Proof.Machine

/-- Settles O26, by the record's check once the earlier binding has ended. -/
theorem streamPorts : Obligations.StreamPorts := by
  intro s p h ws record v m
  have reg : (12 : BitVec 4) + p.setWidth 4 = v := portReg_eq p
  have bind : exec (.sbind p h) s = .next (s.on (match m.bindCause (recOf ws) with
      | some e => m.trapMe { cause := .streamUnbound, bad := BitVec.ofNat 64 e.code }
      | none => (if recCount (recOf ws) = 0 then m
          else m.setPort v (.stream ws (recDir (recOf ws)) 0)).done)) := by
    show execSbind p h s = _
    refine s.onMach_eq ?_
    rw [record, reg] <;> rfl
  have release : exec (.srel p) s = .next (s.on (s.m.settle (if s.m.port v = .unbound
      then .error { cause := .streamUnbound } else .ok m.done))) := by
    show execSrel p s = _
    refine s.onMach_eq ?_
    rw [reg]
  refine ⟨fun passes some => ?_, fun passes none => ?_, fun e refused => ?_, fun bound => ?_, fun unbound => ?_⟩
  · rw [bind, passes]
    simp only [if_neg some]
  · rw [bind, passes]
    simp only [if_pos none]
  · rw [bind, refused]
  · rw [release, if_neg bound]
    rfl
  · rw [release, if_pos unbound]
    rfl

/-- Settles O29, by the home of the handle. -/
theorem handleInstructions : Obligations.HandleInstructions := by
  intro s k w hk c h
  have dup : exec (.dupk k) s = .next (s.on (s.m.countRef k .dup Mach.dupRef)) :=
    (s.onMach_eq rfl : execDupk k s = _)
  have drop : exec (.dropk k) s = .next (s.on (s.m.countRef k .drop Mach.dropRef)) :=
    (s.onMach_eq rfl : execDropk k s = _)
  have info := exec_kinfo hk w
  refine ⟨fun outside => ?outside, fun inside => ?inside, ?out, fun hw => ?into⟩
  case outside =>
    simp only [List.forall_mem_cons, List.not_mem_nil, false_implies, implies_true, and_true]
    and_intros
    · rw [dup, Mach.countRef_outside hk _ _ outside]
    · rw [drop, Mach.countRef_outside hk _ _ outside]
    · rw [info, outside]
      rfl
  case inside =>
    rw [inside] at info
    refine ⟨fun m1 home ok => ?_, fun m1 home ok => ?_, fun e home bad => ?_, fun e home bad => ?_, fun away => ⟨?_, ?_⟩,
      fun here => ?_, fun away gen => ?_⟩
    · rw [dup, (Mach.countRef_here hk .dup _ inside home).1 m1 ok]
    · rw [drop, (Mach.countRef_here hk .drop _ inside home).1 m1 ok]
    · rw [dup, (Mach.countRef_here hk .dup _ inside home).2 e bad]
    · rw [drop, (Mach.countRef_here hk .drop _ inside home).2 e bad]
    · rw [dup, Mach.countRef_there hk _ _ inside away]
    · rw [drop, Mach.countRef_there hk _ _ inside away]
    · have known : (decide (hHome (s.m.k k) = s.m.cur.core) || decide (hGen (s.m.k k) = 0)) = true := by
        simpa using here
      rw [known] at info
      exact info
    · have asked : (decide (hHome (s.m.k k) = s.m.cur.core) || decide (hGen (s.m.k k) = 0)) = false := by
        simpa using ⟨away, gen⟩
      rw [asked] at info
      exact info
  case out =>
    show execMovkW k w s = _
    refine s.onMach_eq ?_
    rw [s.m.readK_ok hk]
    rfl
  case into =>
    show execMovk k w s = _
    refine s.onMach_eq ?_
    rw [s.m.readW_ok hw]
    rfl

/-- Settles O31, by the helper, the frame and the home of the handle. -/
theorem startDispatches : Obligations.StartDispatches := by
  intro s k a args x i c h hk hargs
  have runs : exec (.start k a) s = .next (s.on (s.m.settle (s.m.startNow s.now k a))) :=
    (s.onMach_eq rfl : execStart k a s = _)
  have reads := runs
  simp only [Mach.startNow, s.m.readK_ok hk, hargs, bind, Except.bind] at reads
  refine ⟨fun none => ?zeros, fun helper => ?_, fun control high => ?_, fun control low inside free frame => ?_,
    fun control low none => ?_⟩
  case zeros =>
    rw [none, Mach.readArgs, if_pos rfl] at hargs
    exact (Except.ok.inj hargs).symm
  · rw [if_pos helper] at reads
    exact reads
  all_goals rw [if_neg (not_not.mpr control)] at reads
  · rw [if_pos high] at reads
    exact reads
  all_goals rw [if_neg (Nat.not_lt.mpr low)] at reads
  · rw [show s.m.freeHelper s.m.cur.core = some x from free, show s.m.freeFrame s.m.cur.core = some i from frame] at reads
    simp only [show s.m.inPart s.m.myPart (hHome (s.m.k k)) = true from inside] at reads
    refine ⟨fun m1 home taken => ?_, fun away => ?_⟩
    · rw [reads, if_neg (by decide), if_pos (show hHome (s.m.k k) = s.m.cur.core from home),
        show s.m.takeApp s.m.myPart (s.m.k k) s.m.me.rt = .ok m1 from taken]
      rfl
    · rw [reads, if_neg (by decide), if_neg (show ¬ hHome (s.m.k k) = s.m.cur.core from away)]
      rfl
  · rcases none with helper | frame
    · rw [show s.m.freeHelper s.m.cur.core = Option.none from helper] at reads
      exact reads
    · rw [show s.m.freeFrame s.m.cur.core = Option.none from frame] at reads
      cases helper : s.m.freeHelper s.m.cur.core with
      | none =>
        rw [helper] at reads
        exact reads
      | some y =>
        rw [helper] at reads
        exact reads
end

section
/-!
PROOF. Capture (R97, R98): the words of a fresh closure frame, its checks in their order, and O27.
-/
namespace Sys2Proof.Machine

/-! ### The checks of a capture, in their order -/

/-- The workspace frame of the issuing context. -/
def Mach.workFrame (m : Mach) : Option Nat := m.myCore.frameNo m.me.wp

/-- The pin that CAPTR takes of the workspace frame, if that is a pool frame. -/
def Mach.pinFor (m : Mach) (c : Nat) : Bool → Option Nat → Mach
  | true, some j => m.modCore c (fun r => { r with pins := Table.set r.pins j (Table.get r.pins j 0 + 1) })
  | _, _ => m

theorem Mach.pinFor_plain (m : Mach) (c : Nat) (frame : Option Nat) : m.pinFor c false frame = m := by
  cases frame <;> rfl

/-- What CAPT and CAPTR do with the lowest free frame `i`. -/
def Mach.captured (m : Mach) (k : BitVec 3) (once byref : Bool) (f : BitVec 13) (caps : List Word) (i : Nat) : Mach :=
  let c := m.cur.core
  let ogen := if byref then (m.workFrame.map (fun j => Table.get m.myCore.gens j 0)).getD 0 else 0
  let outer := if byref then BitVec.ofNat 64 m.me.wp else 0
  let r := m.newClosure c i (m.captEntry f) once byref m.me.rt outer ogen caps
  ((r.2.pinFor c byref m.workFrame).writeK k r.1).done

section
variable (m : Mach) (k : BitVec 3) {b : BitVec 5} {n : BitVec 3} (once byref : Bool) (f : BitVec 13)

theorem Mach.capture_range (beyond : 32 < b.toNat + n.toNat + 1) :
    m.capture k b n once byref f = .error { cause := .captureRange } := by
  simp only [Mach.capture, bind, Except.bind]
  rw [if_pos beyond]

variable {caps : List Word} (inRange : b.toNat + n.toNat + 1 ≤ 32) (reads : m.readRange b.toNat (n.toNat + 1) = .ok caps)
include inRange reads

/-- A capture whose words are read: the workspace, its pins, the control words and the store are looked at in turn. -/
theorem Mach.capture_eq : m.capture k b n once byref f =
    if byref && m.cur.ctx == 11 then .error { cause := .workspaceBounds }
    else if byref && m.workFrame.any (fun j => Table.get m.myCore.pins j 0 == 65535) then
      .error { cause := .refcountOverflow }
    else match m.badEnv m.cur.core with
      | some key => .error { cause := .scratchUncorrectable, bad := lwOf key }
      | none => match m.freeEnv m.cur.core with
        | none => .error { cause := .envStoreFull }
        | some i => .ok (m.captured k once byref f caps i) := by
  simp only [Mach.capture, bind, Except.bind]
  rw [if_neg (by omega), reads]
  refine ite_congr rfl (fun _ => rfl) fun _ => ite_congr rfl (fun _ => rfl) fun _ => ?_
  cases m.badEnv m.cur.core with
  | some key => rfl
  | none => cases m.freeEnv m.cur.core <;> rfl

end

/-- The checks of the workspace that CAPTR makes pass. -/
theorem captr_checks {m : Mach} (level0 : m.cur.ctx ≠ 11)
    (room : ∀ j, m.workFrame = some j → Table.get m.myCore.pins j 0 ≠ 65535) :
    ¬ (true && m.cur.ctx == 11) = true ∧
      ¬ (true && m.workFrame.any (fun j => Table.get m.myCore.pins j 0 == 65535)) = true := by
  refine ⟨by simpa using level0, ?_⟩
  cases frame : m.workFrame with
  | none => simp
  | some j => simpa using room j frame

/-! ### The frame that a capture writes -/

theorem length_readRange {m : Mach} {b n : Nat} {caps : List Word} (reads : m.readRange b n = .ok caps) :
    caps.length = n := by
  induction n generalizing b caps with
  | zero => rw [← Except.ok.inj reads, List.length_nil]
  | succ n ih =>
    rw [Mach.readRange] at reads
    cases first : m.readW (BitVec.ofNat 5 b) with
    | error e =>
      rw [first] at reads
      cases reads
    | ok x =>
      cases rest : m.readRange (b + 1) n with
      | error e =>
        rw [first, rest] at reads
        cases reads
      | ok l =>
        rw [first, rest] at reads
        rw [← Except.ok.inj reads, List.length_cons, ih rest]

/-- The generation with which a free frame is captured, and the handle of the closure. -/
def Mach.captGen (m : Mach) (i : Nat) : BitVec 8 :=
  if ctlGen (m.ctl (m.envKey m.cur.core i)) = 0 then 1 else ctlGen (m.ctl (m.envKey m.cur.core i))
def Mach.captHandle (m : Mach) (i : Nat) : Handle := mkHandle m.cur.core i (m.captGen i)

/-- The bytes of a closure of `n + 1` words captured into a free frame. -/
def Mach.captBytes (m : Mach) (i : Nat) (once : Bool) (n : Nat) (f : BitVec 13) (caps : List Word) (byref : Bool)
    (outer : Word) (ogen : BitVec 8) : List (Nat × Byte) :=
  wordBytes (m.envKey m.cur.core i) ([m.me.pc + BitVec.ofInt 64 (4 * f.toInt),
    mkCtl 1 (m.captGen i) once byref m.me.rt n ogen, outer] ++ caps ++ List.replicate (7 - n) 0)

theorem Mach.captEntry_eq (m : Mach) (f : BitVec 13) : m.captEntry f = m.me.pc + BitVec.ofInt 64 (4 * f.toInt) := by
  have off : 4 * signExtend 13 f = BitVec.ofInt 64 (4 * f.toInt) := (BitVec.mul_comm _ _).trans (signExtend_mul' f 4)
  rw [Mach.captEntry, off]

section
variable (m : Mach) (i : Nat) (once : Bool) (f : BitVec 13) {caps : List Word} {n : Nat} (count : caps.length = n + 1)
include count

theorem Mach.newClosure_eq (byref : Bool) (outer : Word) (ogen : BitVec 8) :
    m.newClosure m.cur.core i (m.captEntry f) once byref m.me.rt outer ogen caps =
      (m.captHandle i, m.storeScratch (m.captBytes i once n f caps byref outer ogen)) := by
  have rest : 8 - caps.length = 7 - n := by omega
  have nm1 : caps.length - 1 = n := by omega
  rw [Mach.newClosure, frameWords, rest, nm1, m.captEntry_eq]
  rfl

theorem Mach.captured_plain (k : BitVec 3) : m.captured k once false f caps i =
    ((m.storeScratch (m.captBytes i once n f caps false 0 0)).writeK k (m.captHandle i)).done := by
  rw [Mach.captured]
  simp only [Bool.false_eq_true, if_false, Mach.pinFor_plain]
  rw [m.newClosure_eq i once f count]

theorem Mach.captured_ref (k : BitVec 3) {j : Nat} (work : m.workFrame = some j) : m.captured k once true f caps i =
    (((m.storeScratch (m.captBytes i once n f caps true (BitVec.ofNat 64 m.me.wp) (Table.get m.myCore.gens j 0))).modCore
      m.cur.core (fun r => { r with pins := Table.set r.pins j (Table.get r.pins j 0 + 1) })).writeK k (m.captHandle i)).done := by
  rw [Mach.captured]
  simp only [if_true, work, Option.map_some, Option.getD_some]
  rw [m.newClosure_eq i once f count]
  rfl

theorem Mach.captured_ref_none (k : BitVec 3) (work : m.workFrame = none) : m.captured k once true f caps i =
    ((m.storeScratch (m.captBytes i once n f caps true (BitVec.ofNat 64 m.me.wp) 0)).writeK k (m.captHandle i)).done := by
  rw [Mach.captured]
  simp only [if_true, work, Option.map_none, Option.getD_none]
  rw [m.newClosure_eq i once f count]
  rfl

end

end Sys2Proof.Machine
open Sys2Proof Sys2Proof.Machine

/-- Settles O27, by the checks of a capture in their order and the frame that it writes. -/
theorem captureResults : Obligations.CaptureResults := by
  intro s k b n o f c frame trap entry
  have capt : exec (.capt k b n o f) s = .next (s.on (s.m.settle (s.m.capture k b n (o == 1) false f))) :=
    (s.onMach_eq rfl : execCapt k b n o f s = _)
  have captr : exec (.captr k b n o f) s = .next (s.on (s.m.settle (s.m.capture k b n (o == 1) true f))) :=
    (s.onMach_eq rfl : execCaptr k b n o f s = _)
  refine ⟨fun beyond => ⟨?_, ?_⟩, fun caps inRange reads => ?checks⟩
  · rw [capt, s.m.capture_range k _ _ f beyond]
    rfl
  · rw [captr, s.m.capture_range k _ _ f beyond]
    rfl
  case checks =>
    rw [s.m.capture_eq k _ _ f inRange reads] at capt captr
    have count : caps.length = n.toNat + 1 := length_readRange reads
    have passes : s.m.cur.ctx ≠ 11 → (∀ j, frame = some j → Table.get s.m.myCore.pins j 0 ≠ 65535) →
        exec (.captr k b n o f) s = .next (s.on (s.m.settle (match s.m.badEnv s.m.cur.core with
          | some key => .error { cause := .scratchUncorrectable, bad := lwOf key }
          | none => match s.m.freeEnv s.m.cur.core with
            | none => .error { cause := .envStoreFull }
            | some i => .ok (s.m.captured k (o == 1) true f caps i)))) := fun level0 room => by
      obtain ⟨workspace, pins⟩ := captr_checks level0 room
      rw [captr, if_neg workspace, if_neg pins]
    refine ⟨fun level1 => ?_, fun j level0 work full => ?_, fun key bad => ⟨?_, fun level0 room => ?_⟩,
      fun good none => ⟨?_, fun level0 room => ?_⟩, fun i good free => ?captured⟩
    · rw [captr, if_pos (by simpa using level1)]
      rfl
    · have pinned : (true && s.m.workFrame.any (fun j => Table.get s.m.myCore.pins j 0 == 65535)) = true := by
        rw [show s.m.workFrame = some j from work]
        simpa using full
      rw [captr, if_neg (by simpa using level0), if_pos pinned]
      rfl
    · rw [capt, show s.m.badEnv s.m.cur.core = some key from bad]
      rfl
    · rw [passes level0 room, show s.m.badEnv s.m.cur.core = some key from bad]
      rfl
    · rw [capt, show s.m.badEnv s.m.cur.core = Option.none from good,
        show s.m.freeEnv s.m.cur.core = Option.none from none]
      rfl
    · rw [passes level0 room, show s.m.badEnv s.m.cur.core = Option.none from good,
        show s.m.freeEnv s.m.cur.core = Option.none from none]
      rfl
    case captured =>
      intro key gen out
      have where_ : s.m.badEnv s.m.cur.core = none ∧ s.m.freeEnv s.m.cur.core = some i := ⟨good, free⟩
      refine ⟨?_, fun j level0 work room => ?_, fun level0 none => ?_⟩
      · rw [capt, where_.1, where_.2, if_neg (by simp), if_neg (by simp)]
        simp only [Mach.settle_ok]
        rw [s.m.captured_plain i (o == 1) f count k]
        rfl
      · rw [passes level0 (fun j' h => by rwa [← Option.some.inj (work.symm.trans h)]), where_.1, where_.2]
        simp only [Mach.settle_ok]
        rw [s.m.captured_ref i (o == 1) f count k work]
        rfl
      · rw [passes level0 (fun j' h => nomatch none.symm.trans h), where_.1, where_.2]
        simp only [Mach.settle_ok]
        rw [s.m.captured_ref_none i (o == 1) f count k none]
        rfl
end

section
/-!
PROOF. Applications (R339, R340, R414): the application taken, the deque's ends, the lanes of APPLYV, and O28.
-/
namespace Sys2Proof.Machine

/-! ### The application taken (R92, R99, R103) and the deque's ends (R79, R80) -/

/-- The references left where an application is taken. -/
def refsTaken (w : Word) : Nat := if ctlOnce w then ctlRefs w - 1 else ctlRefs w

theorem Mach.takeApp_ok {m : Mach} {p : Nat} {h : Handle} {rt : Bool} {a c key : Nat} (live : m.live p h a = .ok (c, key))
    (rights : ctlRt (m.ctl key) = true → rt = true) (refs : ctlRefs (m.ctl key) ≠ 0)
    (flight : ctlFlight (m.ctl key) ≠ 65535) :
    m.takeApp p h rt a = .ok (m.putAt h c key (refsTaken (m.ctl key)) (ctlFlight (m.ctl key) + 1) a) := by
  have privilege : ¬ (ctlRt (m.ctl key) && !rt) = true := by
    rw [Bool.and_eq_true, Bool.not_eq_true']
    exact fun ⟨needs, task⟩ => by simp [rights needs] at task
  rw [Mach.takeApp, live]
  simp only
  rw [if_neg privilege, if_neg refs, if_neg flight]
  rfl

theorem Mach.pushOldest_room {m : Mach} {c : Nat} (e : Entry) (spill : (m.core c).spill = [])
    (room : (m.core c).deque.length < 64) :
    m.pushOldest c e = some (m.modCore c (fun r => { r with deque := e :: r.deque })) := by
  rw [Mach.pushOldest, spill]
  exact if_pos room

theorem Mach.pushNewest_room {m : Mach} {c : Nat} (e : Entry) (room : (m.core c).deque.length < 64) :
    m.pushNewest c e = some (m.modCore c (fun r => { r with deque := r.deque ++ [e] })) := by
  rw [Mach.pushNewest]
  exact if_pos room

/-! ### APPLY (R339) -/

section
variable {m : Mach} {k : BitVec 3} {a : BitVec 5} {args : Args} (after : Mach → Mach) (hk : m.canReadK k)
  (hargs : m.applyArgs a = .ok args)
include hk hargs

theorem Mach.applyOne_range (high : 29 < a.toNat) : m.applyOne k a after = m.trapMe { cause := .captureRange } := by
  simp only [Mach.applyOne, m.readK_ok hk, hargs, bind, Except.bind]
  rw [if_pos high]

variable (low : a.toNat ≤ 29)
include low

theorem Mach.applyOne_outside (outside : m.inPart m.myPart (hHome (m.k k)) = false) :
    m.applyOne k a after = m.trapMe (handleTrap .partitionViolation (m.k k)) := by
  simp only [Mach.applyOne, m.readK_ok hk, hargs, bind, Except.bind]
  rw [if_neg (Nat.not_lt.mpr low), outside]
  rfl

variable (inside : m.inPart m.myPart (hHome (m.k k)) = true)
include inside

theorem Mach.applyOne_eq : m.applyOne k a after =
    if hHome (m.k k) = m.cur.core then
      m.settle ((m.applyHere m.cur.core (m.k k) args m.me.rt m.me.tag (fun e => handleTrap e (m.k k))).map after)
    else if 16 ≤ m.myCore.sendq then m.stay .sendSlot
    else after (m.applyThere (m.k k) args) := by
  simp only [Mach.applyOne, m.readK_ok hk, hargs, bind, Except.bind]
  rw [if_neg (Nat.not_lt.mpr low), inside]
  rfl

end

/-- An application of the issuing context at the own home: the check, and then the oldest end of the deque. -/
theorem Mach.applyHere_refused {m : Mach} {c : Nat} {h : Handle} (args : Args) {rt : Bool} (tag : Option Nat)
    (t : Cause → Trap) {e : Cause} (refused : m.takeApp ((m.partOf c).getD 0) h rt = .error e) :
    m.applyHere c h args rt tag t = .error (t e) := by
  rw [Mach.applyHere, refused]

theorem Mach.applyHere_taken {m m1 : Mach} {c : Nat} {h : Handle} (args : Args) {rt : Bool} (tag : Option Nat)
    (t : Cause → Trap) (taken : m.takeApp ((m.partOf c).getD 0) h rt = .ok m1) :
    (∀ m2, m1.pushOldest c { h := h, args := args, tag := tag } = some m2 → m.applyHere c h args rt tag t = .ok m2) ∧
      (m1.pushOldest c { h := h, args := args, tag := tag } = none →
        m.applyHere c h args rt tag t = .error { cause := .helperExhausted }) := by
  refine ⟨fun m2 some => ?_, fun none => ?_⟩
  · simp only [Mach.applyHere, taken, some]
  · simp only [Mach.applyHere, taken, none]

/-! ### APPLYV (R340) -/

/-- An apply message leaves every core's state but the entry of the send queue that it takes. -/
theorem Mach.core_sendApply (m : Mach) (c x : Nat) (pc : Word) (h : Handle) (args : Args) :
    (m.sendApply c x pc h args).core c = { m.core c with sendq := (m.core c).sendq + 1 } := by
  rw [Mach.sendApply, Mach.inject_eq, Mach.core_modCore_self]
  rfl

/-- Lanes that all are remote take no application. -/
theorem Mach.takeLocal_away {m : Mach} (v : V) {lanes : List Nat} (away : ∀ i ∈ lanes, hHome (lane v i) ≠ m.cur.core) :
    m.takeLocal v lanes = .ok m := by
  induction lanes with
  | nil => rfl
  | cons i t ih =>
    rw [Mach.takeLocal, if_neg (away i List.mem_cons_self)]
    exact ih fun j hj => away j (List.mem_cons_of_mem _ hj)

/-- The message of lane `i` of an APPLYV. -/
def Mach.sendLane (c x : Nat) (pc : Word) (v : V) (m : Mach) (i : Nat) : Mach :=
  m.sendApply c x pc (lane v i) (laneArgs c i)

/-- Lanes that all are remote leave as messages while the send queue has room. -/
theorem Mach.pushLanes_away (c x : Nat) (pc : Word) (v : V) {lanes : List Nat} (away : ∀ i ∈ lanes, hHome (lane v i) ≠ c)
    {m : Mach} (room : (m.core c).sendq + lanes.length ≤ 16) :
    m.pushLanes c x pc (lanes.map (fun i => (lane v i, laneArgs c i))) = (lanes.foldl (Mach.sendLane c x pc v) m, []) := by
  induction lanes generalizing m with
  | nil => rfl
  | cons i t ih =>
    rw [List.length_cons] at room
    have sent : ((m.sendLane c x pc v i).core c).sendq = (m.core c).sendq + 1 := by
      rw [Mach.sendLane, Mach.core_sendApply]
    rw [List.map_cons, Mach.pushLanes, if_neg (away i List.mem_cons_self), if_neg (by omega), List.foldl_cons]
    exact ih (fun j hj => away j (List.mem_cons_of_mem _ hj)) (m := m.sendLane c x pc v i) (by omega)

/-- The lanes of an APPLYV, once their local applications are taken. -/
theorem Mach.applyLanes_taken {m m2 : Mach} {v : V} {lanes : List Nat} (taken : m.takeLocal v lanes = .ok m2) :
    let c := m.cur.core
    let todo := lanes.map (fun i => (lane v i, laneArgs c i))
    let own := (m2.pushLanes c m.cur.ctx m2.me.pc (todo.filter (fun l => hHome l.1 == c))).2
    let r := m2.pushLanes c m.cur.ctx m2.me.pc todo
    (own ≠ [] → m.applyLanes v lanes = .error { cause := .helperExhausted }) ∧
      (own = [] → r.2 = [] → m.applyLanes v lanes = .ok r.1.done) ∧
      (own = [] → r.2 ≠ [] → m.applyLanes v lanes = .ok (r.1.await (.lanes r.2))) := by
  intro c todo own r
  have lanes_eq : m.applyLanes v lanes = if !own.isEmpty then .error { cause := .helperExhausted }
      else match r with
        | (t, []) => .ok t.done
        | (t, left) => .ok (t.await (.lanes left)) := by
    rw [Mach.applyLanes, taken] <;> rfl
  rw [lanes_eq]
  clear_value own r
  refine ⟨fun none => if_pos (by simpa using none), fun fits all => ?_, fun fits left => ?_⟩
  · obtain ⟨t, rest⟩ := r
    obtain rfl : rest = [] := all
    rw [fits]
    rfl
  · obtain ⟨t, rest⟩ := r
    rw [fits]
    cases rest with
    | nil => exact absurd rfl left
    | cons l rest => rfl

/-- APPLYV once its reads are made: the partition's check of every lane, and then the lanes. -/
theorem exec_applyv {s : State} {v : BitVec 4} {k : BitVec 3} {m1 : Mach} {mask : BitVec 16} {val : BitVec 4 → V}
    (reads : s.m.vecReads none [v] k = some (m1, mask, val)) :
    exec (.applyv v k) s = .next (s.on (s.m.settle
      (match (activeLanes mask).find? (fun i => !m1.inPart m1.myPart (hHome (lane (val v) i))) with
        | some i => .error (laneHandleTrap i (lane (val v) i) .partitionViolation)
        | none => m1.applyLanes (val v) (activeLanes mask)))) := by
  show execApplyv v k s = _
  refine s.onMach_eq ?_
  rw [s.m.vecOp_ok _ reads] <;> rfl

/-! ### SPAWN (R414) -/

/-- SPAWN once its registers are read. -/
theorem exec_spawn {s : State} {k : BitVec 3} {a : BitVec 5} {args : Args} (hk : s.m.canReadK k)
    (hargs : s.m.readArgs a = .ok args) :
    exec (.spawn k a) s = .next (s.on (s.m.settle (
      if 29 < a.toNat then .error { cause := .captureRange }
      else if s.m.spawnFull s.m.cur.core then .error { cause := .helperExhausted }
      else if !s.m.inPart s.m.myPart (hHome (s.m.k k)) then .error (handleTrap .partitionViolation (s.m.k k))
      else if hHome (s.m.k k) = s.m.cur.core then
        match s.m.takeApp s.m.myPart (s.m.k k) s.m.me.rt with
        | .error e => .error (handleTrap e (s.m.k k))
        | .ok m =>
          match m.pushNewest s.m.cur.core { h := s.m.k k, args := args, tag := m.me.tag } with
          | some m => .ok m.done
          | none => .error { cause := .helperExhausted }
      else .ok ((s.m.request (hHome (s.m.k k)) (.handle .take (s.m.k k) s.m.me.rt)).await (.spawn (s.m.k k) args))))) := by
  show execSpawn k a s = _
  refine s.onMach_eq ?_
  simp only [s.m.readK_ok hk, hargs, bind, Except.bind] <;> rfl

end Sys2Proof.Machine
open Sys2Proof Sys2Proof.Machine

/-- Settles O28: by the home of the closure and the room of the deque, and for APPLYV by what its lanes find. -/
theorem applySpawnResults : Obligations.ApplySpawnResults := by
  unfold Obligations.ApplySpawnResults
  refine ⟨fun s k a args => ?apply, fun s k a args => ?spawn, fun s v k m1 mask val reads => ?lanes⟩
  case apply =>
    intro c h p both finish hk hargs
    have plain : exec (.apply k a) s = .next (s.on (s.m.applyOne k a Mach.done)) :=
      (s.onMach_eq rfl : execApply k a s = _)
    have tail : exec (.applyTail k a) s = .next (s.on (s.m.applyOne k a Mach.endMe)) :=
      (s.onMach_eq rfl : execApplyTail k a s = _)
    have same : ∀ m, (∀ after, s.m.applyOne k a after = m) → both (s.on m) := fun m all =>
      ⟨by rw [plain, all], by rw [tail, all]⟩
    have ends : ∀ m, (∀ after, s.m.applyOne k a after = after m) → finish m := fun m all =>
      ⟨by rw [plain, all], by rw [tail, all, Mach.endMe]⟩
    refine ⟨fun high => same _ fun after => Mach.applyOne_range after hk hargs high,
      fun low outside => same _ fun after => Mach.applyOne_outside after hk hargs low outside, fun low inside => ?_⟩
    have runs := fun after => Mach.applyOne_eq (m := s.m) after hk hargs low inside
    refine ⟨fun home => ?here, fun away => ?there⟩
    case here =>
      have local_ : ∀ after, s.m.applyOne k a after = s.m.settle
          ((s.m.applyHere c h args s.m.me.rt s.m.me.tag (fun e => handleTrap e h)).map after) := fun after =>
        (runs after).trans (if_pos home)
      refine ⟨fun e refused => same _ fun after => ?_, fun home key live rights refs flight => ?_⟩
      · rw [local_, Mach.applyHere_refused args _ _ refused]
        rfl
      intro left m1 e
      have taken : s.m.takeApp p h s.m.me.rt = .ok m1 := Mach.takeApp_ok live rights refs flight
      obtain ⟨joins, full⟩ := Mach.applyHere_taken args s.m.me.tag (fun e => handleTrap e h) taken
      have joined : ∀ m2, m1.pushOldest c e = some m2 → finish m2 := fun m2 pushed => ends _ fun after => by
        rw [local_, joins m2 pushed]
        rfl
      refine ⟨fun spill room => joined _ (Mach.pushOldest_room e spill room), joined, fun none => same _ fun after => ?_⟩
      rw [local_, full none]
      rfl
    case there =>
      have remote : ∀ after, s.m.applyOne k a after = if 16 ≤ s.m.myCore.sendq then s.m.stay .sendSlot
          else after (s.m.applyThere h args) := fun after => (runs after).trans (if_neg away)
      refine ⟨fun room => ends _ fun after => ?_, fun full => same _ fun after => ?_⟩
      · rw [remote, if_neg (Nat.not_le.mpr room)]
        rfl
      · rw [remote, if_pos full]
  case spawn =>
    intro c h p trap hk hargs
    have runs := exec_spawn hk hargs
    refine ⟨fun none => ?zeros, fun high => ?_, fun low full => ?_, fun low room => ⟨fun outside => ?_, fun inside =>
      ⟨fun away => ?_, fun home => ⟨fun e refused => ?_, fun home' key live rights refs flight => ?taken⟩⟩⟩⟩
    case zeros =>
      rw [none, Mach.readArgs, if_pos rfl] at hargs
      exact (Except.ok.inj hargs).symm
    · exact runs.trans (by rw [if_pos high]; rfl)
    all_goals rw [if_neg (Nat.not_lt.mpr low)] at runs
    · exact runs.trans (by rw [if_pos full]; rfl)
    all_goals rw [if_neg (Bool.eq_false_iff.mp room)] at runs
    · exact runs.trans (by rw [if_pos (by simpa using outside)]; rfl)
    all_goals rw [if_neg (by simpa using inside)] at runs
    · exact runs.trans (by rw [if_neg away]; rfl)
    all_goals rw [if_pos home] at runs
    · exact runs.trans (by rw [refused]; rfl)
    case taken =>
      intro left m1 e
      have taken : s.m.takeApp p h s.m.me.rt = .ok m1 := Mach.takeApp_ok live rights refs flight
      have joined : ∀ m2, m1.pushNewest c e = some m2 → exec (.spawn k a) s = .next (s.on m2.done) := fun m2 pushed => by
        rw [runs, show s.m.takeApp s.m.myPart (s.m.k k) s.m.me.rt = .ok m1 from taken]
        simp only
        rw [show m1.pushNewest s.m.cur.core { h := s.m.k k, args := args, tag := m1.me.tag } = some m2 from pushed]
        rfl
      exact ⟨fun room => joined _ (Mach.pushNewest_room e room), joined⟩
  case lanes =>
    intro c x lanes h todo
    have runs := exec_applyv reads
    refine ⟨fun i outside => ?_, fun inside => ?_⟩
    · exact runs.trans (by rw [show (activeLanes mask).find? _ = some i from outside]; rfl)
    have none : (activeLanes mask).find? (fun i => !m1.inPart m1.myPart (hHome (lane (val v) i))) = none :=
      List.find?_eq_none.mpr fun i hi => by simpa using inside i hi
    rw [none] at runs
    replace runs : exec (.applyv v k) s = .next (s.on (s.m.settle (m1.applyLanes (val v) lanes))) := runs
    refine ⟨fun idle => ?_, fun away room => ?_, fun e refused => ?_, fun m2 taken => ?_⟩
    · have taken : m1.takeLocal (val v) lanes = .ok m1 := by rw [idle]; rfl
      rw [runs, idle, (Mach.applyLanes_taken (idle ▸ taken)).2.1 rfl rfl]
      rfl
    · have sent := Mach.pushLanes_away c x m1.me.pc (val v) away room
      have own : todo.filter (fun l => hHome l.1 == c) = [] := List.filter_eq_nil_iff.mpr fun l hl => by
        obtain ⟨i, hi, rfl⟩ := List.mem_map.mp hl
        simpa using away i hi
      have done := (Mach.applyLanes_taken (Mach.takeLocal_away (val v) away)).2.1 (by rw [own]; rfl) (by rw [sent])
      rw [runs, done, sent]
      rfl
    · rw [runs, Mach.applyLanes, refused]
      rfl
    · obtain ⟨full, all, left⟩ := Mach.applyLanes_taken taken
      refine ⟨fun none => ?_, fun fits none => ?_, fun fits some => ?_⟩
      · rw [runs, full none]
        rfl
      · rw [runs, all fits none]
        rfl
      · rw [runs, left fits some]
        rfl
end

section
/-!
PROOF. Messages at issue (R183, R405) and the receiver's instructions (R190, R191, R192); O32 and O33.
-/
namespace Sys2Proof.Machine

/-! ### SEND and REPLY (R183, R405) -/

/-- A message that finds a send-queue entry: it leaves with its token empty. -/
def Mach.messageSent (m : Mach) (plane : Bool) (o : BitVec 2) (t : BitVec 5) (desc : Word) (bytes : List Byte) : Mach :=
  let m1 := (m.late (m.lateW t) (.token false)).modCore m.cur.core (fun r => { r with sendq := r.sendq + 1 })
  let g : Msg := { src := m.cur.core, tag := descTag desc, chan := descChan desc, len := descLen desc,
                   payload := bytes.take (descLen desc), qtag := m.me.tag, rt := m.me.rt }
  let m2 := m1.inject { id := 0, src := m.cur.core, dst := descDest desc, reply := plane,
                        body := .message g m.nextId, core := m.cur.core, task := m.me.task, ctxs := [m.cur.ctx], pc := m.me.pc }
  if o = 2 then m2.await (.message m.nextId desc) else m2.done

theorem Mach.sendMessage_eq (m : Mach) (plane : Bool) (o : BitVec 2) (t : BitVec 5) (desc : Word) (bytes : List Byte) :
    m.sendMessage plane o t desc bytes = if m.myCore.sendq < 16 then .ok (m.messageSent plane o t desc bytes)
      else if o = 1 then .ok (m.writeW t 4).done else .error { cause := .sendqFull } := by
  rw [Mach.sendMessage, Mach.messageSent]
  by_cases room : m.myCore.sendq < 16
  · have here : ((m.late (m.lateW t) (.token false)).modCore m.cur.core (fun r => { r with sendq := r.sendq + 1 })).cur =
        m.cur := m.late_cur (m.lateW t) (.token false) false
    rw [if_neg (Nat.not_le.mpr room), if_pos room]
    simp only [here]
  · rw [if_pos (Nat.le_of_not_lt room), if_neg room]

/-- The machine of a SEND or REPLY whose checks pass, at `s` before its reads. -/
def Mach.messageOut (s m : Mach) (plane : Bool) (o : BitVec 2) (t : BitVec 5) (desc : Word) (bytes : List Byte) : Mach :=
  if m.myCore.sendq < 16 then m.messageSent plane o t desc bytes
  else if o = 1 then (m.writeW t 4).done else s.trapMe { cause := .sendqFull }

theorem Mach.settle_sendMessage (s m : Mach) (plane : Bool) (o : BitVec 2) (t : BitVec 5) (desc : Word)
    (bytes : List Byte) : s.settle (m.sendMessage plane o t desc bytes) = s.messageOut m plane o t desc bytes := by
  rw [Mach.sendMessage_eq, Mach.messageOut]
  split
  · rfl
  · split <;> rfl

theorem Mach.checkDesc_ok {m : Mach} {desc : Word} (low : 1 ≤ descLen desc) (high : descLen desc ≤ 64)
    (inside : m.inPart m.myPart (descDest desc) = true) : m.checkDesc desc = .ok () := by
  have len : ¬ (decide (descLen desc = 0) || decide (64 < descLen desc)) = true := by
    rw [Bool.or_eq_true, decide_eq_true_eq, decide_eq_true_eq]
    omega
  rw [Mach.checkDesc, if_neg len, inside]
  rfl

/-- The reads of one vector source. -/
theorem vecReads_one {m m0 : Mach} {v : BitVec 4} {mk : BitVec 3} {ws : List (BitVec 5)} {mask : BitVec 16}
    {val : BitVec 4 → V} (h : m.vecReads none [v] mk ws = some (m0, mask, val)) :
    m.needOperands [v] mk ws = .ok () ∧ m.portsReady none [v] ∧ m.readV v = .ok (val v, m0) := by
  unfold Mach.vecReads at h
  by_cases ready : m.operandsFull [v] mk ws && m.portsReady none [v]
  · rw [if_pos ready] at h
    rw [Bool.and_eq_true] at ready
    refine ⟨m.operandsFull_ok ready.1, ready.2, ?_⟩
    cases one : m.readV v with
    | error e => simp [Mach.readVs, one] at h
    | ok r =>
      cases bits : m.readM mk with
      | error e => simp [Mach.readVs, one, bits] at h
      | ok b =>
        simp [Mach.readVs, one, bits] at h
        obtain ⟨rfl, -, rfl⟩ := h
        simp [valOf]
  · rw [if_neg ready] at h
    exact absurd h (by simp)

section
variable {s : State} (plane : Bool) (o : BitVec 2) (t : BitVec 5) {a b : BitVec 5} {v : BitVec 4} (ha : s.m.canReadW a)
  (low : 1 ≤ descLen (s.m.w a)) (high : descLen (s.m.w a) ≤ 64)
include ha low high

theorem Mach.sendVector_eq {m0 : Mach} {mask : BitVec 16} {val : BitVec 4 → V}
    (reads : s.m.vecReads none [v] 0 [a] = some (m0, mask, val))
    (inside : m0.inPart m0.myPart (descDest (s.m.w a)) = true) :
    s.m.sendVector plane o t a v = s.m.messageOut m0 plane o t (s.m.w a) (toBytes 64 (val v).toNat) := by
  obtain ⟨operands, ports, one⟩ := vecReads_one reads
  rw [Mach.sendVector, operands, s.m.popping_ok _ ports, s.m.readW_ok ha, one, ← Mach.settle_sendMessage]
  simp only [bind, Except.bind, Mach.checkDesc_ok low high inside]

theorem Mach.sendBuffer_eq {k : Nat} (hb : s.m.canReadW b) (inside : s.m.inPart s.m.myPart (descDest (s.m.w a)) = true)
    (buffer : s.m.checkBuffer (s.m.w b) (descLen (s.m.w a)) = .ok k)
    (good : ∀ w ∈ wordsOf k (descLen (s.m.w a)), w ∉ s.m.scratchBad) :
    s.m.sendBuffer plane o t a b = s.m.messageOut s.m plane o t (s.m.w a)
      (toBytes (descLen (s.m.w a)) (Mem.read s.m.mem k (descLen (s.m.w a)))) := by
  rw [Mach.sendBuffer, s.m.readW_ok ha, s.m.readW_ok hb, ← Mach.settle_sendMessage]
  simp only [bind, Except.bind, Mach.checkDesc_ok low high inside, buffer]
  rw [any_bad s.m _ good]
  rfl

end

/-! ### POST (R190) -/

theorem Mach.chan_late (m : Mach) (ws : List Nat) (l : Late) (access : Bool) (c n : Nat) :
    (m.late ws l access).chan c n = m.chan c n := by
  rw [Mach.chan, Mach.core, m.late_cores]
  rfl

section
variable {m : Mach} (t : BitVec 5) {d b : Word} {k : Nat} (low : 1 ≤ descLen d) (high : descLen d ≤ 64)
  (buffer : m.checkBuffer b (descLen d) = .ok k) (mode : (m.chan m.cur.core (Post.chan d)).mode = 2)
  (room : (m.chan m.cur.core (Post.chan d)).posts.length < 32)
include low high buffer mode room

/-- A POST whose checks pass: the first overflow entry that matches, or the list of posts. -/
theorem Mach.postReceive_ok :
    let p : Post := { desc := d, buf := k, token := m.nextId }
    let m1 := m.late (wordsOf k (descLen d) ++ m.lateW t) (.token false)
    m.postReceive t d b = match if Post.rsv d then none else takeOverflow d (m.chan m.cur.core (Post.chan d)).overflow with
      | some (g, rest) => .ok ((m1.modChan m.cur.core (Post.chan d) (fun q => { q with overflow := rest })).deliver p g).done
      | none => .ok (m1.modChan m.cur.core (Post.chan d) (fun q => { q with posts := q.posts ++ [p] })).done := by
  have len : ¬ (decide (descLen d = 0) || decide (64 < descLen d)) = true := by
    rw [Bool.or_eq_true, decide_eq_true_eq, decide_eq_true_eq]
    omega
  intro p m1
  simp only [Mach.postReceive, bind, Except.bind]
  rw [if_neg len]
  simp only [buffer]
  rw [if_neg (not_not.mpr mode), if_neg (Nat.not_le.mpr room), Mach.chan_late] <;> rfl

end

end Sys2Proof.Machine
open Sys2Proof Sys2Proof.Machine

/-- Settles O32, by the checks of the descriptor and the room of the send queue. -/
theorem sendAndReply : Obligations.SendAndReply := by
  intro s o t a b v k plane desc ha hb low high inside send out
  refine ⟨fun m0 mask val reads inside0 => ?_, fun buffer good => ?_⟩
  · have runs : exec (if plane then .reply o t a v else .send o t a v) s = .next (s.on (s.m.sendVector plane o t a v)) := by
      cases plane
      · exact (s.onMach_eq rfl : execSend o t a v s = _)
      · exact (s.onMach_eq rfl : execReply o t a v s = _)
    rw [runs, Mach.sendVector_eq plane o t ha low high reads inside0]
    rfl
  · have runs : exec (if plane then .replyBuf o t a b else .sendBuf o t a b) s =
        .next (s.on (s.m.sendBuffer plane o t a b)) := by
      cases plane
      · exact (s.onMach_eq rfl : execSendBuf o t a b s = _)
      · exact (s.onMach_eq rfl : execReplyBuf o t a b s = _)
    rw [runs, Mach.sendBuffer_eq plane o t ha low high hb inside buffer good]
    rfl

/-- Settles O33, by the checks of POST and CHBIND in their order. -/
theorem receiveInstructions : Obligations.ReceiveInstructions := by
  unfold Obligations.ReceiveInstructions
  refine ⟨fun s t a b d ch k => ?receive, fun s ch k pr l hk => ?bind⟩
  case receive =>
    intro c desc n
    refine ⟨fun ha hb low high buffer mode room => ?post, (s.onMach_eq rfl : execQcnt d ch s = _)⟩
    intro p m1
    have runs : exec (.post t a b) s = .next (s.on (s.m.settle (s.m.postReceive t desc (s.m.w b)))) := by
      show execPost t a b s = _
      refine s.onMach_eq ?_
      rw [s.m.readW_ok ha, s.m.readW_ok hb]
      rfl
    rw [Mach.postReceive_ok t low high buffer mode room] at runs
    refine ⟨fun g rest match_ found => ?_, fun none => ?_⟩
    · rw [match_, if_neg (by decide), show takeOverflow desc (s.m.chan s.m.cur.core (Post.chan desc)).overflow =
        some (g, rest) from found] at runs
      exact runs
    · have none : (if Post.rsv desc then Option.none else
          takeOverflow desc (s.m.chan s.m.cur.core (Post.chan desc)).overflow) = Option.none := by
        rcases none with reserved | none
        · rw [if_pos reserved]
        · split
          · rfl
          · exact none
      rw [none] at runs
      exact runs
  case bind =>
    intro c h
    have runs : exec (.chbind ch k l pr) s = .next (s.on (s.m.settle (s.m.chbind ch.toNat h (l == 1) pr.toNat))) := by
      show execChbind ch k l pr s = _
      refine s.onMach_eq ?_
      rw [s.m.readK_ok hk]
      rfl
    rw [Mach.chbind] at runs
    refine ⟨fun interjection task => ?_, fun rights => ?_⟩
    · rw [if_pos (by rw [interjection, task]; rfl)] at runs
      exact runs
    have allowed : ¬ ((l == 1) && !s.m.me.rt) = true := by
      rw [Bool.and_eq_true, Bool.not_eq_true', beq_iff_eq]
      rintro ⟨one, task⟩
      rcases rights with zero | rt
      · exact absurd (one.symm.trans zero) (by decide)
      · exact absurd (rt.symm.trans task) (by decide)
    rw [if_neg allowed] at runs
    refine ⟨fun conflict => ?_, fun free outside => ?_, fun free inside => ⟨fun e home refused => ?_, fun m1 home taken => ?_,
      fun away => ?_⟩⟩
    · rw [show s.m.canBind s.m.cur.core ch.toNat = false from conflict] at runs
      exact runs
    all_goals rw [show s.m.canBind s.m.cur.core ch.toNat = true from free, if_neg (by decide)] at runs
    · rw [outside] at runs
      exact runs
    all_goals rw [inside, if_neg (by decide)] at runs
    · rw [if_pos home, refused] at runs
      exact runs
    · rw [if_pos home, taken] at runs
      exact runs
    · rw [if_neg away] at runs
      exact runs
end

section
/-!
PROOF. Parking at issue (R118, R119, R120): no trap and no completion waits at the marker of an AWAIT; O34.
-/
namespace Sys2Proof.Machine

/-! ### Contexts that have not gone on to a park -/

theorem Mach.parking_done (m : Mach) : m.done.me.parking = false := by
  rw [Mach.done, Mach.doneAt, Mach.me_modMe]
  rfl

/-- An entry of the fault queue changes no context. -/
theorem Mach.post_ctxs (m : Mach) (d p : Nat) (e : FqEntry) : (m.post d p e).ctxs = m.ctxs := by
  rw [Mach.post]
  dsimp only
  split
  · split <;> rfl
  · rfl

/-- An entry of the fault queue is about no other instruction. -/
theorem Mach.post_cur (m : Mach) (d p : Nat) (e : FqEntry) : (m.post d p e).cur = m.cur := by
  rw [Mach.post]
  dsimp only
  split
  · split <;> rfl
  · rfl

theorem Mach.hold_cur (m : Mach) (c x : Nat) (t : Trap) (pc : Word) : (m.hold c x t pc).cur = m.cur := by
  rw [Mach.hold]
  exact Mach.post_cur _ _ _ _

theorem Mach.parking_hold (m : Mach) (c x : Nat) (t : Trap) (pc : Word) :
    ((m.hold c x t pc).ctx c x).parking = false := by
  rw [Mach.hold, Mach.ctx, Mach.post_ctxs]
  refine (congrArg Ctx.parking (Mach.ctx_setCtx_self _ c x (freshCtx x))).trans ?_
  rw [freshCtx]
  split <;> rfl

/-- Whether it waits for a walk, enters the runtime or is held, a context that traps has not gone on to a park. -/
theorem Mach.parking_trapMe (m : Mach) (t : Trap) : (m.trapMe t).me.parking = false := by
  rw [Mach.trapMe]
  split
  · rw [Mach.stay, Mach.me_modMe]
    rfl
  · rw [Mach.raise]
    split
    · rw [Mach.me, Mach.hold_cur]
      exact Mach.parking_hold _ _ _ _ _
    · show ((m.lastHere.enterTrap m.cur.core m.cur.ctx t m.me.pc).ctx m.cur.core m.cur.ctx).parking = false
      rw [Mach.enterTrap, Mach.ctx_setCtx_self]
      rfl

theorem Mach.parksAfter_eq {m t : Mach} (none : t.me.parking = false) : m.parksAfter t = t := by
  rw [Mach.parksAfter, none]
  rfl

theorem Mach.parksAfter_trapMe (m : Mach) (t : Trap) : m.parksAfter (m.trapMe t) = m.trapMe t :=
  Mach.parksAfter_eq (m.parking_trapMe t)

theorem Mach.parksAfter_done (m n : Mach) : m.parksAfter n.done = n.done := Mach.parksAfter_eq n.parking_done

/-! ### AWAIT and BPROBE once their registers are read -/

section
variable {s : State} {a : BitVec 5} (ha : s.m.canReadW a)
include ha

theorem exec_await {k : BitVec 3} (hk : s.m.canReadK k) :
    exec (.await k a) s = .next (s.on (s.m.parksAfter (s.m.settle (s.m.parkXlate (s.m.w a) >>= fun r => match r with
      | (none, m) => .ok m.done
      | (some (pa, pte), m) => needPk (s.m.w a) pte >>= fun _ =>
        m.parkLanes false [(0, s.m.k k, s.m.w a, m.blockOf pa pte)])))) := by
  show execAwait k a s = _
  refine s.onMach_eq ?_
  rw [s.m.readW_ok ha, s.m.readK_ok hk] <;> rfl

theorem exec_bprobe (d : BitVec 5) :
    exec (.bprobe d a) s = .next (s.on (s.m.settle (s.m.parkXlate (s.m.w a) >>= fun r => match r with
      | (none, m) => .ok (m.late (m.lateW d) (.value 0 0)).done
      | (some (pa, pte), m) => needPk (s.m.w a) pte >>= fun _ =>
        let m2 := m.drainAll m.cur.core
        let q := m2.request (sliceEnd (m.blockOf pa pte).2.2) (.probe (m.blockOf pa pte).1 (m.blockOf pa pte).2.1 m2.myPart)
        .ok (q.late (q.lateW d) (.parts { wait := [(0, 8, m2.nextId)], size := 8 })).done))) := by
  show execBprobe d a s = _
  refine s.onMach_eq ?_
  rw [s.m.readW_ok ha] <;> rfl

end

theorem needPk_no {va pte : Word} (no : ptePk pte = false) :
    needPk va pte = .error { cause := .pageAttrConflict, bad := va } := by
  rw [needPk, no]
  rfl

theorem needPk_yes {va pte : Word} (yes : ptePk pte = true) : needPk va pte = .ok () := by
  rw [needPk, yes]
  rfl

/-- Lanes applied and parked, once the applications at the own core are taken. -/
theorem Mach.parkLanes_ok {m m2 : Mach} {lane : Bool} {ls rest : List ParkLane}
    (taken : m.takeLanes m.cur.core m.me.rt lane ls = .ok (m2, rest)) :
    m.parkLanes lane ls =
      .ok ((m2.drainAll m.cur.core).done.takeNext m.cur.core m2.cur.ctx m2.me.task m.me.pc lane rest ls) := by
  rw [Mach.parkLanes, taken]

theorem Mach.parkLanes_error {m : Mach} {lane : Bool} {ls : List ParkLane} {t : Trap}
    (refused : m.takeLanes m.cur.core m.me.rt lane ls = .error t) : m.parkLanes lane ls = .error t := by
  rw [Mach.parkLanes, refused]

/-! ### The one lane of an AWAIT -/

section
variable {m : Mach} {c : Nat} (rt : Bool) {l : ParkLane}

theorem Mach.takeLanes_outside (outside : m.inPart ((m.partOf c).getD 0) (hHome l.2.1) = false) :
    m.takeLanes c rt false [l] = .error (handleTrap .partitionViolation l.2.1) := by
  rw [Mach.takeLanes]
  simp only [outside]
  rfl

variable (inside : m.inPart ((m.partOf c).getD 0) (hHome l.2.1) = true)
include inside

theorem Mach.takeLanes_here {m2 : Mach} (home : hHome l.2.1 = c) (taken : m.takeApp ((m.partOf c).getD 0) l.2.1 rt = .ok m2) :
    m.takeLanes c rt false [l] = .ok (m2, []) := by
  rw [Mach.takeLanes]
  simp only [inside, if_pos home, taken]
  rfl

theorem Mach.takeLanes_refused {e : Cause} (home : hHome l.2.1 = c)
    (refused : m.takeApp ((m.partOf c).getD 0) l.2.1 rt = .error e) :
    m.takeLanes c rt false [l] = .error (handleTrap e l.2.1) := by
  rw [Mach.takeLanes]
  simp only [inside, if_pos home, refused]
  rfl

theorem Mach.takeLanes_away (away : hHome l.2.1 ≠ c) : m.takeLanes c rt false [l] = .ok (m, [l]) := by
  rw [Mach.takeLanes]
  simp only [inside, if_neg away]
  rfl

end

/-- AWAITV once its reads are made. -/
theorem exec_awaitv {s : State} {v b : BitVec 4} {a : BitVec 5} {k : BitVec 3} {m0 : Mach} {mask : BitVec 16}
    {val : BitVec 4 → V} (reads : s.m.vecReads none [v, b] k [a] = some (m0, mask, val)) (ha : m0.canReadW a) :
    exec (.awaitv v a b k) s = .next (s.on (s.m.parksAfter (s.m.settle
      (m0.xlateLanes (m0.w a) (val v) (val b) (activeLanes mask) >>= fun r =>
        match r.1.find? (fun x => !ptePk x.2) with
        | some x => .error { cause := .pageAttrConflict, bad := x.1.2.2.1 }
        | none => if mask = 0 then .ok r.2.done else r.2.parkLanes true (r.1.map (·.1)))))) := by
  show execAwaitv v a b k s = _
  refine s.onMach_eq ?_
  rw [s.m.vecOp_ok _ reads, m0.readW_ok ha] <;> rfl

end Sys2Proof.Machine
open Sys2Proof Sys2Proof.Machine

/-- Settles O34, by the translation, the page and the application, none of which goes on to a park when it refuses. -/
theorem awaitingBlocks : Obligations.AwaitingBlocks := by
  intro s k d a v b pa pte m1 c h p l park
  refine ⟨fun t => ?marker, fun t ha refused => ?refused, fun ha failed => ?failed, fun ha found => ?found,
    fun m0 mask val ls reads ha => ?lanes⟩
  case marker =>
    rw [Mach.parksAfter]
    simp only [Bool.and_eq_true]
  case refused =>
    refine ⟨?_, fun hk => ?_⟩
    · rw [exec_bprobe ha, refused]
      rfl
    · rw [exec_await ha hk, refused]
      exact congrArg (fun m => Host.Outcome.next (s.on m)) (s.m.parksAfter_trapMe t)
  case failed =>
    refine ⟨?_, fun hk => ?_⟩
    · rw [exec_bprobe ha, failed]
      rfl
    · rw [exec_await ha hk, failed]
      exact congrArg (fun m => Host.Outcome.next (s.on m)) (s.m.parksAfter_done m1)
  case found =>
    have probe := exec_bprobe ha d
    rw [found] at probe
    have await : s.m.canReadK k → exec (.await k a) s = .next (s.on (s.m.parksAfter (s.m.settle
        (needPk (s.m.w a) pte >>= fun _ => m1.parkLanes false [l])))) := fun hk => by
      rw [exec_await ha hk, found]
      rfl
    have traps : ∀ t, s.m.canReadK k → needPk (s.m.w a) pte = .ok () → m1.takeLanes c m1.me.rt false [l] = .error t →
        exec (.await k a) s = .next (s.on (s.m.trapMe t)) := fun t hk yes refused => by
      rw [await hk, yes]
      show Host.Outcome.next (s.on (s.m.parksAfter (s.m.settle (m1.parkLanes false [l])))) = _
      rw [Mach.parkLanes_error refused]
      exact congrArg (fun m => Host.Outcome.next (s.on m)) (s.m.parksAfter_trapMe t)
    have parks : ∀ m2 rest, s.m.canReadK k → needPk (s.m.w a) pte = .ok () →
        m1.takeLanes c m1.me.rt false [l] = .ok (m2, rest) →
        exec (.await k a) s = .next (park m2 m2.me.task false rest [l]) := fun m2 rest hk yes taken => by
      rw [await hk, yes]
      show Host.Outcome.next (s.on (s.m.parksAfter (s.m.settle (m1.parkLanes false [l])))) = _
      rw [Mach.parkLanes_ok taken]
      rfl
    intro t
    refine ⟨fun no => ⟨?_, fun hk => ?_⟩, fun yes => ⟨?_, fun hk => ⟨fun outside => ?_, fun inside =>
      ⟨fun m2 home taken => ?_, fun e home refused => ?_, fun away => ?_⟩⟩⟩⟩
    · rw [probe]
      simp only [bind, Except.bind, needPk_no no]
      rfl
    · rw [await hk]
      simp only [bind, Except.bind, needPk_no no]
      exact congrArg (fun m => Host.Outcome.next (s.on m)) (s.m.parksAfter_trapMe _)
    · intro m2 q
      rw [probe]
      simp only [bind, Except.bind, needPk_yes yes]
      rfl
    · exact traps _ hk (needPk_yes yes) (Mach.takeLanes_outside (l := l) m1.me.rt outside)
    · exact parks _ _ hk (needPk_yes yes) (Mach.takeLanes_here (l := l) m1.me.rt inside home taken)
    · exact traps _ hk (needPk_yes yes) (Mach.takeLanes_refused (l := l) m1.me.rt inside home refused)
    · exact parks _ _ hk (needPk_yes yes) (Mach.takeLanes_away (l := l) m1.me.rt inside away)
  case lanes =>
    have runs := exec_awaitv reads ha
    refine ⟨fun t refused => ?_, fun found => ?_⟩
    · rw [runs, refused]
      exact congrArg (fun m => Host.Outcome.next (s.on m)) (s.m.parksAfter_trapMe t)
    rw [found] at runs
    replace runs : exec (.awaitv v a b k) s = .next (s.on (s.m.parksAfter (s.m.settle (
      match ls.find? (fun x => !ptePk x.2) with
      | some x => .error { cause := .pageAttrConflict, bad := x.1.2.2.1 }
      | none => if mask = 0 then .ok m1.done else m1.parkLanes true (ls.map (·.1)))))) := runs
    refine ⟨fun none => ?_, fun x plain => ?_, fun some pages => ⟨fun t refused => ?_, fun m2 rest taken => ?_⟩⟩
    · have idle : ls = [] := by
        rw [none] at found
        exact (Prod.mk.inj (Except.ok.inj found)).1.symm
      rw [runs, idle]
      simp only [List.find?_nil, if_pos none]
      exact congrArg (fun m => Host.Outcome.next (s.on m)) (s.m.parksAfter_done m1)
    · rw [runs, plain]
      exact congrArg (fun m => Host.Outcome.next (s.on m)) (s.m.parksAfter_trapMe _)
    all_goals
      rw [pages] at runs
      simp only [if_neg some] at runs
    · rw [runs, Mach.parkLanes_error refused]
      exact congrArg (fun m => Host.Outcome.next (s.on m)) (s.m.parksAfter_trapMe t)
    · rw [runs, Mach.parkLanes_ok taken]
      rfl
end

section
/-!
PROOF. Barriers (R85 to R88, R344, R345) and masked windows (R388); O36.
-/
namespace Sys2Proof.Machine

/-! ### Fences of one kind (R156) -/

/-- A release that does not wait for the peers' homes: the core's stores leave and are performed first. -/
theorem Mach.fenced_release (m : Mach) (f : Mach → Mach) :
    m.fenced false true false f =
      if ((m.drainAll m.cur.core).settleOwn m.cur.core).releasedAll m.cur.core m.cur.ctx m.me.task
      then f ((m.drainAll m.cur.core).settleOwn m.cur.core)
      else ((m.drainAll m.cur.core).settleOwn m.cur.core).stay (.fence false true false) := by
  simp [Mach.fenced]

theorem Mach.fenced_acquire (m : Mach) (f : Mach → Mach) :
    m.fenced true false false f =
      if m.acquiredAll m.cur.core m.cur.ctx m.me.task then f m else m.stay (.fence true false false) := by
  simp [Mach.fenced]

/-! ### BARA and BARW (R344, R345) -/

theorem Mach.emptyAll_cur (m : Mach) (ws : List Nat) : (m.emptyAll ws).cur = m.cur := by
  rw [m.emptyAll_eq]

theorem Mach.teamCheck_none {m : Mach} (none : field m.myCore.teamid 0 16 = 0) :
    m.teamCheck = .error { cause := .barrierTeamInvalid } := by
  rw [Mach.teamCheck]
  exact if_pos none

section
variable {s : State}

/-- BARA and BARW of an interjection (R344, R345). -/
theorem exec_bara_interjection (d : BitVec 5) (cr : BitVec 3) (level1 : s.m.cur.ctx = 11) :
    exec (.bara d cr) s = .next (s.on (s.m.trapMe { cause := .barrierTeamInvalid })) := by
  show execBara d cr s = _
  refine s.onMach_eq ?_
  rw [if_pos level1]

/-- The check of BARW. -/
def Mach.barwCheck (m : Mach) : Res (Nat × Team × List Nat) :=
  if m.cur.ctx = 11 then .error { cause := .barrierTeamInvalid } else m.teamCheck

theorem exec_barw_refused {a : BitVec 5} {t : Trap} (ha : s.m.canReadW a) (refused : s.m.barwCheck = .error t) :
    exec (.barw a) s = .next (s.on (s.m.trapMe t)) := by
  rw [Mach.barwCheck] at refused
  show execBarw a s = _
  refine s.onMach_eq ?_
  rw [s.m.readW_ok ha, refused]

/-- What BARW does with the phase it waits for, `ahead` phases before the team's. -/
def Mach.barrierWait (m : Mach) (tm : Team) (ms : List Nat) (ahead : Nat) : Mach :=
  if ahead = 0 then
    if tm.arrived.any (fun x => x.1 == m.cur.core) then m.stay (.barrier tm.phase)
    else m.trapMe { cause := .barrierTeamInvalid }
  else if ahead < 2 ^ 31 then m.fenced true false false (fun m => (m.acquire (teamScope ms)).done)
  else m.trapMe { cause := .barrierTeamInvalid }

theorem exec_barw {a : BitVec 5} {t : Nat} {tm : Team} {ms : List Nat} (ha : s.m.canReadW a)
    (checked : s.m.barwCheck = .ok (t, tm, ms)) :
    exec (.barw a) s = .next (s.on (s.m.barrierWait tm ms
      ((tm.phase % 2 ^ 32 + 2 ^ 32 - field (s.m.w a) 0 32) % 2 ^ 32))) := by
  rw [Mach.barwCheck] at checked
  show execBarw a s = _
  refine s.onMach_eq ?_
  rw [s.m.readW_ok ha, checked] <;> rfl

variable (level0 : s.m.cur.ctx ≠ 11)
include level0

theorem exec_bara_refused (d : BitVec 5) (cr : BitVec 3) {t : Trap} (refused : s.m.teamCheck = .error t) :
    exec (.bara d cr) s = .next (s.on (s.m.trapMe t)) := by
  show execBara d cr s = _
  refine s.onMach_eq ?_
  rw [if_neg level0, refused]

theorem exec_bara (d : BitVec 5) (cr : BitVec 3) {t : Nat} {tm : Team} {ms : List Nat}
    (checked : s.m.teamCheck = .ok (t, tm, ms)) :
    exec (.bara d cr) s = .next (s.on ((s.m.emptyAll (s.m.lateW d)).fenced false true false
      (fun m => m.arriveTeam t tm d cr.toNat))) := by
  show execBara d cr s = _
  refine s.onMach_eq ?_
  rw [if_neg level0, checked]

theorem exec_maskw (n : BitVec 6) : exec (.maskw n) s = .next (s.on (
    if s.m.me.window ≠ 0 then s.m.trapMe { cause := .maskWindowLimit }
    else s.m.done.modMe (fun x => { x with window := n.toNat + 1 }))) := by
  show execMaskw n s = _
  refine s.onMach_eq ?_
  rw [if_neg level0]

theorem Mach.barwCheck_level0 : s.m.barwCheck = s.m.teamCheck := if_neg level0

end

/-! ### The completion of a phase (R86, R88) -/

/-- What PHASE_COMPLETE does with a phase that every member has reached. -/
def Mach.nextPhase (m : Mach) (p t : Nat) (tm : Team) (ms : List Nat) : Mach :=
  let m := match carveAsked tm.arrived with | some v => m.carveTeam ms v | none => m
  let q := splitNext tm.next []
  q.1.foldl (fun m x => m.resolve x.2.2 (phaseWord (tm.phase + 1)))
    (m.modTeam p t (fun x => { x with phase := x.phase + 1, arrived := q.1.map (fun x => (x.1, x.2.1)), next := q.2 }))

theorem exec_phaseComplete {s : State} {p t : Nat} {tm : Team} {g : Group} (team : Table.find (s.m.part p).teams t = some tm)
    (group : s.m.groupOf p tm.group = some g) :
    exec (.phaseComplete p t) s = .next (s.on (
      if g.members.all (fun c => s.m.isFenced c || tm.arrived.any (fun x => x.1 == c)) && !tm.arrived.isEmpty
      then s.m.nextPhase p t tm g.members else s.m)) := by
  show execPhaseComplete p t s = _
  refine s.onMach_eq ?_
  simp only [team, group]
  rfl

end Sys2Proof.Machine
open Sys2Proof Sys2Proof.Machine

/-- Settles O36, by the checks of the team, the fence that BARA and BARW make, and the members that have arrived. -/
theorem barriersAndWindows : Obligations.BarriersAndWindows := by
  intro s d a cr n c bad
  refine ⟨fun level1 => ⟨exec_bara_interjection d cr level1, fun ha => exec_barw_refused ha (if_pos level1), ?_⟩,
    fun level0 => ⟨fun closed => ?_, fun open_ => ?_, fun none => ?_, fun e refused => ?_, fun t tm ms checked =>
      ⟨?bara, fun ha => ?barw⟩⟩, fun p t tm g team group => ?phase⟩
  · show execMaskw n s = _
    refine s.onMach_eq ?_
    rw [if_pos level1]
  · rw [exec_maskw level0, if_neg (not_not.mpr closed)]
  · rw [exec_maskw level0, if_pos open_]
  · have refused := Mach.teamCheck_none none
    exact ⟨exec_bara_refused level0 d cr refused,
      fun ha => exec_barw_refused ha ((Mach.barwCheck_level0 level0).trans refused)⟩
  · exact ⟨exec_bara_refused level0 d cr refused,
      fun ha => exec_barw_refused ha ((Mach.barwCheck_level0 level0).trans refused)⟩
  case bara =>
    intro m0 m
    have runs := exec_bara level0 d cr checked
    rw [Mach.fenced_release, s.m.emptyAll_cur] at runs
    refine ⟨fun waits => ?_, fun done => ?_⟩
    · rw [runs, if_neg (Bool.eq_false_iff.mp waits)]
    · rw [runs, if_pos done]
  case barw =>
    intro ahead
    have runs := exec_barw ha ((Mach.barwCheck_level0 level0).trans checked)
    replace runs : exec (.barw a) s = .next (s.on (s.m.barrierWait tm ms ahead)) := runs
    clear_value ahead
    rw [Mach.barrierWait] at runs
    refine ⟨fun now arrived => ?_, fun wrong => ?_, fun some near => ?_⟩
    · rw [runs, if_pos now, if_pos arrived]
    · rcases wrong with ⟨now, absent⟩ | far
      · rw [runs, if_pos now, if_neg (Bool.eq_false_iff.mp absent)]
      · rw [runs, if_neg (by omega), if_neg (Nat.not_lt.mpr far)]
    · rw [if_neg (Nat.ne_of_gt some), if_pos near, Mach.fenced_acquire] at runs
      refine ⟨fun done => ?_, fun waits => ?_⟩
      · rw [runs, if_pos done]
      · rw [runs, if_neg (Bool.eq_false_iff.mp waits)]
  case phase =>
    intro all m q
    have runs := exec_phaseComplete team group
    replace runs : exec (.phaseComplete p t) s = .next (s.on (if all && !tm.arrived.isEmpty
      then s.m.nextPhase p t tm g.members else s.m)) := runs
    refine ⟨fun open_ => ?_, fun reached some => ?_⟩
    · have stays : ¬ (all && !tm.arrived.isEmpty) = true := by
        rcases open_ with missing | none
        · simp [missing]
        · simp [none]
      rw [runs, if_neg stays]
    · rw [runs, if_pos (by simp [reached, some])]
      rfl
end

section
/-!
PROOF. Engine commands at issue (R229, R230, R232, R233, R366): the lease's requests, tickets and join words; O37.
-/
namespace Sys2Proof.Machine

/-! ### The lease (R232, R233) -/

/-- Renewing a lease leaves its requests. -/
theorem Mach.fifo_renewLease (m : Mach) (cl : Nat) : ((m.renewLease cl).cluster cl).fifo = (m.cluster cl).fifo := by
  rw [Mach.renewLease]
  split
  · rfl
  · dsimp only
    split
    · rfl
    · split
      · rw [Mach.modCluster, Mach.cluster_setCluster_self]
      · split
        · rw [Mach.modCluster, Mach.cluster_setCluster_self]
        · rfl

theorem Mach.cluster_late (m : Mach) (ws : List Nat) (l : Late) (access : Bool) (cl : Nat) :
    (m.late ws l access).cluster cl = m.cluster cl := by
  show (m.emptyAll ws).cluster cl = m.cluster cl
  rw [m.emptyAll_eq]
  rfl

/-- A request for the lease: behind those of its core, or behind the others. -/
def askLease (c id : Nat) (asked : Bool) (x : Cluster) : Cluster :=
  { x with fifo := if asked then x.fifo.map (fun e => if e.1 = c then (e.1, e.2 ++ [id]) else e) else x.fifo ++ [(c, [id])] }

theorem exec_mlease (s : State) (t : BitVec 5) :
    exec (.mlease t) s = .next (s.on (
      let c := s.m.cur.core
      let cl := clusterOf c
      if (s.m.cluster cl).holder = some c then (s.m.writeW t 0).done
      else (((s.m.renewLease cl).late (s.m.lateW t) (.token false)).modCluster cl
        (askLease c s.m.nextId ((s.m.cluster cl).fifo.any (fun e => e.1 == c)))).done)) := by
  have asked := congrArg (fun l => l.any (fun e => e.1 == s.m.cur.core)) ((congrArg Cluster.fifo
    ((s.m.renewLease (clusterOf s.m.cur.core)).cluster_late (s.m.lateW t) (.token false) false
      (clusterOf s.m.cur.core))).trans (s.m.fifo_renewLease (clusterOf s.m.cur.core)))
  show execMlease t s = _
  refine s.onMach_eq ?_
  simp only [← asked]
  rfl

theorem exec_mrel (s : State) :
    exec .mrel s = .next (s.on (s.m.settle (
      let c := s.m.cur.core
      let cl := clusterOf c
      if (s.m.cluster cl).holder ≠ some c then .error { cause := .leaseNotHeld }
      else .ok (s.m.modCluster cl (fun k => { k with holder := none, leaving := some c })).done))) :=
  (s.onMach_eq rfl : execMrel s = _)

/-! ### ECAN and ERES (R366) -/

theorem Mach.needRuntime_ok {m : Mach} (rt : m.me.rt = true) : m.needRuntime = .ok () := by
  rw [Mach.needRuntime, if_pos rt]

section
variable {m : Mach} {a : BitVec 5} (op : HandleOp) (f : Mach → Nat → Mach) (rt : m.me.rt = true) (ha : m.canReadW a)
  (clean : field (m.w a) 13 51 = 0) (inside : m.inPart m.myPart ((m.w a).toNat % 1024) = true)
include rt ha clean inside

theorem Mach.ticketOp_here (home : (m.w a).toNat % 1024 = m.cur.core) :
    let t := f (m.settleOwn m.cur.core) (m.w a).toNat
    m.ticketOp a op f =
      if op = .cancel && t.cancelling (m.w a).toNat then t.await (.cancelled (m.w a).toNat) else t.done := by
  intro t
  rw [Mach.ticketOp, Mach.needRuntime_ok rt, m.readW_ok ha]
  simp only [bind, Except.bind]
  rw [if_neg (not_not.mpr clean), if_neg (by simp [inside]), if_pos home]
  rfl

theorem Mach.ticketOp_there (away : (m.w a).toNat % 1024 ≠ m.cur.core) :
    m.ticketOp a op f =
      (m.request ((m.w a).toNat % 1024) (.handle op ((m.w a).setWidth 32) true)).await .counted := by
  rw [Mach.ticketOp, Mach.needRuntime_ok rt, m.readW_ok ha]
  simp only [bind, Except.bind]
  rw [if_neg (not_not.mpr clean), if_neg (by simp [inside]), if_neg away]
  rfl

end

/-! ### CPY (R230) and EFORK (R229) -/

/-- A join word changes no context, and the instruction stays the same. -/
theorem Mach.joinWord_ctxs (m : Mach) (c x j n : Nat) :
    (m.joinWord c x j n).2.ctxs = m.ctxs ∧ (m.joinWord c x j n).2.cur = m.cur := by
  rw [Mach.joinWord]
  split
  · exact ⟨rfl, rfl⟩
  · dsimp only
    split <;> exact ⟨rfl, rfl⟩

theorem exec_cpy {s : State} {t : BitVec 5} {p q : BitVec 2} {x y : List Word} (hx : s.m.readSh p = .ok x)
    (hy : s.m.readSh q = .ok y) :
    exec (.cpy t p q) s = .next (s.on (
      if s.m.seqRoom s.m.cur.core false then
        ((s.m.joinWord s.m.cur.core s.m.cur.ctx t.toNat 1).2.queueSeq s.m.cur.core s.m.cur.ctx false s.m.me.pc none (x ++ y)
          (s.m.joinWord s.m.cur.core s.m.cur.ctx t.toNat 1).1 s.m.nextId).done
      else s.m.stay (.seqSlot true false false))) := by
  show execCpy t p q s = _
  refine s.onMach_eq ?_
  simp only [hx, hy, bind, Except.bind, pure, Except.pure]

/-- What EFORK does once each of its checks has answered. -/
def Mach.forked (m : Mach) (j : Nat) (copy mtx : Word) : Forked → Mach
  | .ready =>
    if mtx ≠ 0 && !m.holdsLease m.cur.core then m.trapMe { cause := .leaseNotHeld }
    else if m.forkRoom m.cur.core copy mtx then (m.fork m.cur.core m.cur.ctx m.me.pc j copy mtx).done
    else m.stay (.seqSlot (copy != 0) (mtx != 0) false)
  | .ask z rest => (m.request (hHome (rest.headD 0)) (.handle .peek (rest.headD 0) false)).await
      (.efork (j + if z then 32 else 0) copy mtx rest)

theorem exec_efork {s : State} {j c k : BitVec 5} {hs : List Handle} {f : Forked} (hc : s.m.canReadW c) (hk : s.m.canReadW k)
    (list : s.m.checkList s.m.cur.core false (s.m.w c) = .ok hs)
    (handles : s.m.forkFrom s.m.cur.core s.m.me.rt false (s.m.w k) hs = .ok f) :
    exec (.efork j c k) s = .next (s.on (s.m.forked j.toNat (s.m.w c) (s.m.w k) f)) := by
  show execEfork j c k s = _
  refine s.onMach_eq ?_
  simp only [s.m.readW_ok hc, s.m.readW_ok hk, list, handles, bind, Except.bind, pure, Except.pure]
  cases f with
  | ready =>
    simp only [Mach.forked, decide_true, Bool.true_and]
    by_cases held : (decide (s.m.w k ≠ 0) && !s.m.holdsLease s.m.cur.core) = true
    · simp only [if_pos held]
    · simp only [if_neg held]
  | ask z rest => rfl

end Sys2Proof.Machine
open Sys2Proof Sys2Proof.Machine

/-- Settles O37, by the holder of the lease, the core of the ticket, and the checks of the lists. -/
theorem engineCommands : Obligations.EngineCommands := by
  intro s t a j c k p q core cl
  refine ⟨fun held => ⟨?_, ?_⟩, fun other => ⟨?_, fun first => ?_, fun again => ?_⟩, fun rt ha clean inside => ?tickets,
    fun x y hx hy => ?copy, fun hs hc hk list => ⟨fun ready => ?ready, fun z h rest asks => ?_⟩⟩
  · rw [exec_mlease]
    exact congrArg (fun m => Host.Outcome.next (s.on m)) (if_pos held)
  · rw [exec_mrel]
    simp only
    rw [if_neg (not_not.mpr held)]
    rfl
  · rw [exec_mrel]
    simp only
    rw [if_pos other]
    rfl
  · have runs := exec_mlease s t
    simp only at runs
    rw [if_neg other, first] at runs
    exact runs
  · have runs := exec_mlease s t
    simp only at runs
    rw [if_neg other, again] at runs
    exact runs
  case tickets =>
    intro n
    have cancel : exec (.ecan a) s = .next (s.on (s.m.ticketOp a .cancel Mach.cancelTicket)) :=
      (s.onMach_eq rfl : execEcan a s = _)
    have resume : exec (.eres a) s = .next (s.on (s.m.ticketOp a .restart Mach.resumeTicket)) :=
      (s.onMach_eq rfl : execEres a s = _)
    refine ⟨fun home => ⟨?_, ?_⟩, fun away => ⟨?_, ?_⟩⟩
    · rw [cancel, Mach.ticketOp_here .cancel Mach.cancelTicket rt ha clean inside home]
      simp only [decide_true, Bool.true_and]
      rfl
    · rw [resume, Mach.ticketOp_here .restart Mach.resumeTicket rt ha clean inside home]
      rfl
    · rw [cancel, Mach.ticketOp_there _ _ rt ha clean inside away]
    · rw [resume, Mach.ticketOp_there _ _ rt ha clean inside away]
  case copy =>
    intro n m
    obtain ⟨ctxs, cur⟩ := s.m.joinWord_ctxs core s.m.cur.ctx t.toNat 1
    have me : m.me = s.m.me := by rw [Mach.me, Mach.ctx, ctxs, cur]; rfl
    have runs := exec_cpy (t := t) hx hy
    refine ⟨fun room => ?_, fun full => ?_⟩
    · rw [runs, if_pos (show s.m.seqRoom core false = true from decide_eq_true room), show m.cur = s.m.cur from cur, me]
    · rw [runs, if_neg (show ¬ s.m.seqRoom core false = true from by
        rw [show s.m.seqRoom core false = false from decide_eq_false (Nat.not_lt.mpr full)]; decide)]
  case ready =>
    have runs := exec_efork (j := j) hc hk list ready
    refine ⟨fun named other => ?_, fun allowed => ⟨fun room => ?_, fun full => ?_⟩⟩
    · have refused : (decide (s.m.w k ≠ 0) && !s.m.holdsLease core) = true := by
        rw [Mach.holdsLease, Bool.and_eq_true, Bool.not_eq_true', decide_eq_true_eq, beq_eq_false_iff_ne]
        exact ⟨named, other⟩
      rw [runs, Mach.forked, if_pos refused]
    all_goals
      have passes : ¬ (decide (s.m.w k ≠ 0) && !s.m.holdsLease core) = true := by
        rw [Mach.holdsLease, Bool.and_eq_true, Bool.not_eq_true', decide_eq_true_eq, beq_eq_false_iff_ne]
        exact fun ⟨named, other⟩ => allowed.elim named other
    · rw [runs, Mach.forked, if_neg passes, if_pos room]
    · rw [runs, Mach.forked, if_neg passes, if_neg (Bool.eq_false_iff.mp full)]
  · rw [exec_efork hc hk list asks]
    rfl
end

section
/-!
PROOF. What raises a trap by its own effect (R66, R250, R331, R422): O40.
-/
namespace Sys2Proof.Machine

/-! ### TRAP and refused words (R331, R422) -/

theorem exec_trap (s : State) (code : BitVec 16) :
    exec (.trap code) s = .next (s.on (s.m.trapMe { cause := .trapInstruction, bad := some (code.setWidth 64) })) :=
  (s.onMach_eq rfl : execTrap code s = _)

theorem exec_trapBrk (s : State) (code : BitVec 16) :
    exec (.trapBrk code) s = .next (s.on (s.m.trapMe { cause := .breakpoint, bad := some (code.setWidth 64) })) :=
  (s.onMach_eq rfl : execTrapBrk code s = _)

theorem exec_illegalEncoding (s : State) (w : IWord) :
    exec (.illegalEncoding w) s =
      .next (s.on (s.m.trapMe { cause := refusedCause w s.m.me.rt, bad := some (w.setWidth 64) })) :=
  (s.onMach_eq rfl : execIllegalEncoding w s = _)

/-- No cause of a refused word is a translation fault. -/
theorem recoverable_refusedCause (w : IWord) (rt : Bool) : recoverable (refusedCause w rt) = false := by
  rw [refusedCause]
  split
  · have two (denied : Bool) : recoverable (if denied then .privileged else .reservedField) = false := by
      cases denied <;> rfl
    exact two _
  · rfl

/-! ### Fetch faults (R250) -/

theorem exec_fetchFault (s : State) (cause : Cause) (addr : Word) :
    exec (.fetchFault cause addr) s = .next (s.on (s.m.raise s.m.cur.core s.m.cur.ctx
      { cause := cause, bad := some addr, brsrc := s.m.me.last } s.m.me.pc)) :=
  (s.onMach_eq rfl : execFetchFault cause addr s = _)

/-- What cannot be held is a trap entry (R248, R253). -/
theorem Mach.raise_entry (m : Mach) (c : Nat) {x : Nat} {t : Trap} (pc : Word)
    (kept : recoverable t.cause = false ∨ x = 0 ∨ 10 < x) : m.raise c x t pc = m.enterTrap c x t pc := by
  refine if_neg ?_
  simp only [Bool.and_eq_true, decide_eq_true_eq]
  rintro ⟨⟨⟨held, low⟩, high⟩, -⟩
  rcases kept with h | h | h
  · exact absurd held (by rw [h]; decide)
  · omega
  · omega

/-- A recoverable fault of a helper, with a hold record free, is held (R253). -/
theorem Mach.raise_hold (m : Mach) {c x : Nat} {t : Trap} (pc : Word) (h : recoverable t.cause = true) (low : 0 < x)
    (high : x < 11) (room : (m.core c).holds.length + (m.core c).resumed.length < 16) :
    m.raise c x t pc = m.hold c x t pc := by
  refine if_pos ?_
  rw [h, decide_eq_true low, decide_eq_true high, decide_eq_true room]
  rfl

/-! ### TASKLIM (R66) -/

/-- The context of a task that has been told of its overrun. -/
def Mach.told (m : Mach) (c x : Nat) : Mach := m.modCtx c x (fun v => { v with overran := true, deferred := false })

theorem exec_taskOverrun {s : State} {c x : Nat} (due : s.m.overrunDue c x = true) :
    exec (.taskOverrun c x) s = .next (s.on (s.m.overrunNow c x)) :=
  (s.onMach_eq (if_pos due) : execTaskOverrun c x s = _)

section
variable {m : Mach} {c x : Nat}

/-- An overrun outside LDS, a reply and a trap entry. -/
theorem Mach.overrunNow_entry
    (wait : (m.ctx c x).wait = .none ∨ (m.ctx c x).wait = .marker ∨ ∃ p, (m.ctx c x).wait = .barrier p)
    (outside : ((m.ctx c x).rt && (m.ctx c x).trapped) = false) :
    m.overrunNow c x = (m.told c x).enterTrap c x { cause := .taskOverrun } (m.ctx c x).pc := by
  have entered : (if (m.ctx c x).rt && (m.ctx c x).trapped then m.modCtx c x (fun v => { v with deferred := true })
      else (m.told c x).enterTrap c x { cause := .taskOverrun } (m.ctx c x).pc) =
      (m.told c x).enterTrap c x { cause := .taskOverrun } (m.ctx c x).pc := if_neg (Bool.eq_false_iff.mp outside)
  rw [Mach.overrunNow]
  obtain h | h | ⟨p, h⟩ := wait
  all_goals rw [h]; exact entered

theorem Mach.overrunNow_sync {id : Nat} {m' : Mach} (wait : (m.ctx c x).wait = .sync id)
    (withdrawn : (m.told c x).withdraw id = (true, m')) :
    m.overrunNow c x = m'.enterTrap c x { cause := .syncLoadTimeout } (m.ctx c x).last := by
  rw [Mach.overrunNow]
  rw [wait]
  dsimp only
  rw [show (m.modCtx c x (fun v => { v with overran := true, deferred := false })).withdraw id = _ from withdrawn]

theorem Mach.overrunNow_reply {pc : Word} {k : Cont} (wait : (m.ctx c x).wait = .reply pc k) :
    m.overrunNow c x = m.modCtx c x (fun v => { v with deferred := true }) := by
  rw [Mach.overrunNow]
  rw [wait]

end

theorem exec_deferredTaskOverrun {s : State} {c x : Nat} (due : s.m.overrunDue c x = true)
    (deferred : (s.m.ctx c x).deferred = true) (answered : ∀ pc k, (s.m.ctx c x).wait ≠ .reply pc k)
    (outside : ((s.m.ctx c x).rt && (s.m.ctx c x).trapped) = false) :
    exec (.deferredTaskOverrun c x) s =
      .next (s.on ((s.m.told c x).enterTrap c x { cause := .taskOverrun } (s.m.ctx c x).pc)) := by
  have boundary : (s.m.ctx c x).defers = false := by
    rw [Ctx.defers, outside, Bool.or_false]
    split
    · rename_i pc k h
      exact absurd h (answered pc k)
    · rfl
  refine (s.onMach_eq (if_pos ?_) : execDeferredTaskOverrun c x s = _)
  rw [due, deferred, boundary]
  rfl

end Sys2Proof.Machine

open Sys2Proof Sys2Proof.Machine

/-- Settles O40, one trap after the other. -/
theorem trapInstructions : Obligations.TrapInstructions := by
  unfold Obligations.TrapInstructions
  intro s code cause addr w core x c enter
  refine ⟨?_, ?_, ?_, ?_, ?_, ?_⟩
  · rw [exec_trap, Mach.trapMe_entry _ rfl]
  · rw [exec_trapBrk, Mach.trapMe_entry _ rfl]
  · intro kept
    rw [exec_fetchFault, Mach.raise_entry _ _ _ kept]
  · intro held low high room
    rw [exec_fetchFault, Mach.raise_hold _ _ held low high room]
  · intro e _
    rw [exec_illegalEncoding, Mach.trapMe_entry _ (recoverable_refusedCause w s.m.me.rt)]
  · intro v told due
    refine ⟨?_, ?_, ?_, ?_⟩
    · intro wait outside
      rw [exec_taskOverrun due, Mach.overrunNow_entry wait outside]
      rfl
    · intro id m wait withdrawn
      rw [exec_taskOverrun due, Mach.overrunNow_sync wait withdrawn]
    · rintro ⟨pc, k, wait⟩
      rw [exec_taskOverrun due, Mach.overrunNow_reply wait]
    · intro deferred answered outside
      exact exec_deferredTaskOverrun due deferred answered outside

end

section
/-!
PROOF. The instructions of the runtime (R253, R258, R378, R390, R406, R421) and the privilege they need: O42.
-/
namespace Sys2Proof.Machine

section
variable {s : State}

/-! ### Privilege -/

theorem Mach.needRuntime_error {m : Mach} (rt : m.me.rt = false) :
    m.needRuntime = .error { cause := .privileged, bad := m.wordBad } := by
  rw [Mach.needRuntime, rt]
  rfl

/-- An instruction that first asks for runtime privilege traps at task privilege. -/
theorem State.onMach_privileged {f : Mach → Unit → Res Mach} (rt : s.m.me.rt = false) :
    s.onMach (fun m => m.settle (m.needRuntime >>= f m)) = .next (s.on (s.m.lastHere.enterTrap s.m.cur.core s.m.cur.ctx
      { cause := .privileged, bad := some (s.m.cur.word.setWidth 64) } s.m.me.pc)) := by
  refine s.onMach_eq ?_
  rw [Mach.needRuntime_error rt]
  exact Mach.trapMe_entry s.m rfl

/-- At runtime privilege it goes on. -/
theorem State.onMach_runtime {f : Mach → Unit → Res Mach} {m : Mach} (rt : s.m.me.rt = true)
    (runs : s.m.settle (f s.m ()) = m) : s.onMach (fun m => m.settle (m.needRuntime >>= f m)) = .next (s.on m) := by
  refine s.onMach_eq ?_
  rw [Mach.needRuntime_ok rt]
  exact runs

theorem exec_fqpop_privileged (v : BitVec 4) (rt : s.m.me.rt = false) :
    exec (.fqpop v) s = .next (s.on (s.m.lastHere.enterTrap s.m.cur.core s.m.cur.ctx
      { cause := .privileged, bad := some (s.m.cur.word.setWidth 64) } s.m.me.pc)) := by
  show execFqpop v s = _
  refine s.onMach_eq ?_
  dsimp only
  rw [Mach.needRuntime_error rt]
  exact Mach.trapMe_entry s.m rfl

/-! ### FQPOP (R254, R378) -/

theorem exec_fqpop_ready {v : BitVec 4} (rt : s.m.me.rt = true) (ready : s.m.portsReady (some v) []) :
    exec (.fqpop v) s = .next (s.on (match (s.m.diePart (dieOfCore s.m.cur.core) s.m.myPart).fq with
      | [] => (s.m.lateV v (.value 0 0)).done
      | (n, e) :: rest =>
        let m := (s.m.modDiePart (dieOfCore s.m.cur.core) s.m.myPart (fun q => { q with fq := rest })).lateV v
          (.value (e.image n) 0)
        ({ m with pends := m.pends.map (fun q => if q.id = s.m.nextId then { q with entry := true } else q) } : Mach).done)) := by
  show execFqpop v s = _
  refine s.onMach_eq ?_
  dsimp only
  rw [Mach.needRuntime_ok rt]
  dsimp only
  rw [s.m.popping_ok _ ready]
  cases (s.m.diePart (dieOfCore s.m.cur.core) s.m.myPart).fq with
  | nil => rfl
  | cons e rest => rfl

/-! ### RESUME (R253, R406) -/

theorem exec_resume {a : BitVec 5} (rt : s.m.me.rt = true) (ha : s.m.canReadW a) :
    exec (.resume a) s = .next (s.on (
      if field (s.m.w a) 17 47 ≠ 0 then s.m.trapMe { cause := .reservedField }
      else match s.m.holder (dieOfCore s.m.cur.core) s.m.myPart (field (s.m.w a) 0 16) with
        | none => s.m.done
        | some c =>
          if (s.m.w a).getLsbD 16 then (s.m.killHolds c (fun h => h.ticket == field (s.m.w a) 0 16)).done
          else (s.m.modCore c (fun r => { r with
            holds := r.holds.filter (fun h => !(h.ticket == field (s.m.w a) 0 16)),
            resumed := r.resumed ++ r.holds.filter (fun h => h.ticket == field (s.m.w a) 0 16) })).done)) := by
  show execResume a s = _
  refine State.onMach_runtime rt ?_
  simp only [s.m.readW_ok ha, bind, Except.bind]
  by_cases reserved : field (s.m.w a) 17 47 ≠ 0
  · rw [if_pos reserved, if_pos reserved]
    rfl
  · rw [if_neg reserved, if_neg reserved]
    cases s.m.holder (dieOfCore s.m.cur.core) s.m.myPart (field (s.m.w a) 0 16) with
    | none => rfl
    | some c =>
      dsimp only
      by_cases kill : (s.m.w a).getLsbD 16 = true
      · rw [if_pos kill, if_pos kill]
        rfl
      · rw [if_neg kill, if_neg kill]
        rfl

/-! ### TLBINV (R421) -/

theorem exec_tlbinv {a : BitVec 5} (rt : s.m.me.rt = true) (ha : s.m.canReadW a) :
    exec (.tlbinv a) s = .next (s.on (
      if isGv (s.m.w a) then s.m.sendInval (some (s.m.w a).toNat)
      else s.m.trapMe { cause := .addressClass, bad := some (s.m.w a) })) := by
  show execTlbinv a s = _
  refine State.onMach_runtime rt ?_
  simp only [s.m.readW_ok ha, bind, Except.bind]
  cases isGv (s.m.w a) with
  | true => rfl
  | false => rfl

theorem exec_tlbinvAll (a : BitVec 5) (rt : s.m.me.rt = true) :
    exec (.tlbinvAll a) s = .next (s.on (s.m.sendInval none)) :=
  (State.onMach_runtime rt rfl : execTlbinvAll a s = _)

/-! ### MIGR (R258, R390) -/

theorem exec_migr {a : BitVec 5} (t : BitVec 5) (rt : s.m.me.rt = true) (ha : s.m.canReadW a) :
    exec (.migr t a) s = .next (s.on (match s.m.readTcb (s.m.w a) with
      | .error e => s.m.trapMe e
      | .ok ws => match s.m.migrCause s.m.cur.core ws with
        | some e => s.m.trapMe { cause := e }
        | none => ((s.m.late (s.m.lateW t) (.token false)).modCore s.m.cur.core (fun r => { r with
            migrations := r.migrations ++
              [{ fwd := tcbForward ws s.m.now, team := (ws.getD 0 0).getLsbD 24, token := s.m.nextId }] })).done)) := by
  show execMigr t a s = _
  refine State.onMach_runtime rt ?_
  simp only [s.m.readW_ok ha, bind, Except.bind]
  cases s.m.readTcb (s.m.w a) with
  | error e => rfl
  | ok ws =>
    dsimp only
    cases s.m.migrCause s.m.cur.core ws with
    | none => rfl
    | some e => rfl

end

end Sys2Proof.Machine

open Sys2Proof Sys2Proof.Machine

/-- Settles O42: each asks for runtime privilege first, and then does its own work. -/
theorem runtimeInstructions : Obligations.RuntimeInstructions := by
  unfold Obligations.RuntimeInstructions
  constructor
  · intro s t a v i rt form
    simp only [List.mem_cons, List.not_mem_nil, or_false] at form
    obtain rfl | rfl | rfl | rfl | rfl | rfl | rfl | rfl := form
    · exact (State.onMach_privileged rt : execRte s = _)
    · exact exec_fqpop_privileged v rt
    · exact (State.onMach_privileged rt : execResume a s = _)
    · exact (State.onMach_privileged rt : execTlbinv a s = _)
    · exact (State.onMach_privileged rt : execTlbinvAll a s = _)
    · exact (State.onMach_privileged rt : execMigr t a s = _)
    · exact (State.onMach_privileged rt : execEcan a s = _)
    · exact (State.onMach_privileged rt : execEres a s = _)
  · intro s t a v rt c d p sent
    refine ⟨?_, ?_, exec_tlbinvAll a rt⟩
    · intro ready
      have runs := exec_fqpop_ready rt ready
      constructor
      · intro empty
        rw [show (s.m.diePart (dieOfCore s.m.cur.core) s.m.myPart).fq = [] from empty] at runs
        exact runs
      · intro n e rest queued m
        rw [show (s.m.diePart (dieOfCore s.m.cur.core) s.m.myPart).fq = (n, e) :: rest from queued] at runs
        exact runs
    · intro ha
      have resumes := exec_resume rt ha
      have invalidates := exec_tlbinv rt ha
      have migrates := exec_migr t rt ha
      refine ⟨?_, ?_, ?_, ?_, ?_, ?_⟩
      · intro reserved
        rw [resumes, if_pos reserved]
      · intro wellFormed n
        rw [if_neg (not_not.mpr wellFormed)] at resumes
        constructor
        · intro nobody
          rw [show s.m.holder (dieOfCore s.m.cur.core) s.m.myPart (field (s.m.w a) 0 16) = none from nobody] at resumes
          exact resumes
        · intro x held
          rw [show s.m.holder (dieOfCore s.m.cur.core) s.m.myPart (field (s.m.w a) 0 16) = some x from held] at resumes
          constructor
          · intro kill
            rw [resumes, kill]
            rfl
          · intro ready
            rw [resumes, ready]
            rfl
      · intro gv
        rw [invalidates, if_pos gv]
        rfl
      · intro other
        rw [invalidates, if_neg (Bool.eq_false_iff.mp other)]
      · intro e refused
        rw [migrates, refused]
      · intro ws read
        rw [read] at migrates
        dsimp only at migrates
        constructor
        · intro e stopped
          rw [show s.m.migrCause s.m.cur.core ws = some e from stopped] at migrates
          exact migrates
        · intro passed
          rw [show s.m.migrCause s.m.cur.core ws = none from passed] at migrates
          exact migrates

end

section
/-!
PROOF. Arrivals of messages (R71, R186 to R188) and the dispatcher (R72, R76, R77, R82): O50 and O47.
-/
namespace Sys2Proof.Machine

/-- An event that finds nothing to do. -/
theorem State.onMach_idle (s : State) {f : Mach → Mach} (h : f s.m = s.m) : s.onMach f = .next s := by
  rw [State.onMach, h]

/-! ### Messages at their channels -/

section
variable {s : State} {src dst : Nat} {p : Packet} {g : Msg}

theorem exec_handlerArrival (h : s.m.nextMessage src dst false = some (p, g)) :
    exec (.handlerArrival src dst) s = .next (s.on (
      if (s.m.chan dst g.chan).mode = 2 && !s.m.isFenced dst then s.m
      else (s.m.arriveHandler dst g).2.answer p (.status (s.m.arriveHandler dst g).1))) := by
  show execHandlerArrival src dst s = _
  refine s.onMach_eq ?_
  rw [h]

theorem exec_matchedArrival (h : s.m.nextMessage src dst false = some (p, g)) :
    exec (.matchedArrival src dst) s = .next (s.on (
      if (s.m.chan dst g.chan).mode = 2 && !s.m.isFenced dst then
        (s.m.arriveMatched dst g).2.answer p (.status (s.m.arriveMatched dst g).1)
      else s.m)) := by
  show execMatchedArrival src dst s = _
  refine s.onMach_eq ?_
  rw [h]

theorem exec_replyArrival (h : s.m.nextMessage src dst true = some (p, g)) :
    exec (.replyArrival src dst) s =
      .next (s.on ((s.m.arriveReply dst g).2.answer p (.status (s.m.arriveReply dst g).1))) := by
  show execReplyArrival src dst s = _
  refine s.onMach_eq ?_
  rw [h]

end

theorem Mach.matched_iff (m : Mach) (c ch : Nat) :
    (decide ((m.chan c ch).mode = 2) && !m.isFenced c) = true ↔ (m.chan c ch).mode = 2 ∧ m.isFenced c = false := by
  rw [Bool.and_eq_true, decide_eq_true_eq, Bool.not_eq_true']

/-! ### Dispatch and level-1 starts (R72, R76) -/

/-- Whether the oldest level-1 request of a core may start. -/
def Mach.level1May (m : Mach) (c : Nat) (e : Entry) : Prop :=
  m.running c = true ∧ (m.part ((m.partOf c).getD 0)).state = .running ∧ (m.ctx c 11).live = false ∧
    m.windowOpen c = false ∧ e.check = 0 ∧ m.homeReady c e = true

/-- The level-1 task of an entry is started on the shadow workspace. -/
def Mach.level1Started (m : Mach) (c ch : Nat) (e : Entry) (rest : List (Nat × Entry)) : Mach :=
  let m1 := (m.modCore c (fun r => { r with level1 := rest })).modChan c ch (fun k => { k with running := k.running + 1 })
  (m1.startTask m1.now c 11 ((m1.core c).frameAt ((m1.core c).poolCount - 1)) e).givePayload c 11 ch e

section
variable {s : State} {c : Nat}

theorem exec_dispatch : exec (.dispatch c) s = .next (s.on (
    if s.m.running c && (s.m.freeHelper c).isSome && (s.m.source c).isSome then
      (s.m.modCore c (fun r => { r with tried := 0 })).dispatchOne s.m.now c
    else s.m)) :=
  (s.onMach_eq rfl : execDispatch c s = _)

theorem exec_level1TaskStart : exec (.level1TaskStart c) s = .next (s.on (
    if s.m.running c && (s.m.part ((s.m.partOf c).getD 0)).state == .running && !(s.m.ctx c 11).live &&
        !s.m.windowOpen c then
      match (s.m.core c).level1 with
      | (ch, e) :: t => if e.check ≠ 0 || !s.m.homeReady c e then s.m else s.m.level1Started c ch e t
      | [] => s.m
    else s.m)) :=
  (s.onMach_eq rfl : execLevel1TaskStart c s = _)

theorem exec_level1TaskStart_none (none : (s.m.core c).level1 = []) : exec (.level1TaskStart c) s = .next s := by
  rw [exec_level1TaskStart, none]
  exact congrArg (fun m => Host.Outcome.next (s.on m)) (ite_self s.m)

theorem exec_level1TaskStart_may {ch : Nat} {e : Entry} {rest : List (Nat × Entry)}
    (asked : (s.m.core c).level1 = (ch, e) :: rest) (may : s.m.level1May c e) :
    exec (.level1TaskStart c) s = .next (s.on (s.m.level1Started c ch e rest)) := by
  obtain ⟨runs, partition, idle, closed, taken, ready⟩ := may
  rw [exec_level1TaskStart, asked, runs, partition, idle, closed]
  dsimp only
  rw [taken, ready]
  rfl

theorem exec_level1TaskStart_not {ch : Nat} {e : Entry} {rest : List (Nat × Entry)}
    (asked : (s.m.core c).level1 = (ch, e) :: rest) (may : ¬ s.m.level1May c e) :
    exec (.level1TaskStart c) s = .next s := by
  rw [exec_level1TaskStart, asked]
  dsimp only
  split
  · rename_i outer
    split
    · rfl
    · rename_i inner
      simp only [Bool.and_eq_true, Bool.not_eq_true', beq_iff_eq] at outer
      simp only [Bool.or_eq_true, decide_eq_true_eq, Bool.not_eq_true', not_or, ne_eq, not_not, Bool.not_eq_false] at inner
      obtain ⟨⟨⟨runs, partition⟩, idle⟩, closed⟩ := outer
      obtain ⟨taken, ready⟩ := inner
      exact absurd ⟨runs, partition, idle, closed, taken, ready⟩ may
  · rfl

/-! ### Steals (R82) -/

theorem exec_stealRequest : exec (.stealRequest c) s = .next (s.on (
    if s.m.maySteal c then
      match s.m.victims c ((s.m.core c).victim.getD c) with
      | v :: _ =>
        (s.m.modCore c (fun r => { r with victim := some v, tried := r.tried + 1, stealing := true })).inject
          { id := 0, src := c, dst := v, body := .stealAsk, core := c }
      | [] => s.m
    else s.m)) := by
  show execStealRequest c s = _
  refine s.onMach_eq ?_
  cases s.m.victims c ((s.m.core c).victim.getD c) with
  | nil => rfl
  | cons v l => rfl

theorem exec_stealGrant {d : Nat} {p : Packet} (next : s.m.next c d false = some p) (asks : p.body = .stealAsk) :
    exec (.stealGrant c d) s = .next (s.on (
      match if !s.m.isFenced d && s.m.inDomain d c then s.m.popOldest d else none with
      | some (e, m) => m.answer p (.stolen (some e))
      | none => s.m.answer p (.stolen none))) := by
  show execStealGrant c d s = _
  refine s.onMach_eq ?_
  rw [next]
  dsimp only
  rw [asks] <;> rfl

theorem exec_stealWaitExpiry {t : Nat} (waits : (s.m.core c).stealWait = some t) :
    exec (.stealWaitExpiry c) s = .next (s.on (
      if t + 256 ≤ (s.m.core c).cycles then s.m.modCore c (fun r => { r with stealWait := none }) else s.m)) := by
  show execStealWaitExpiry c s = _
  refine s.onMach_eq ?_
  rw [waits]

end

end Sys2Proof.Machine

open Sys2Proof Sys2Proof.Machine

/-- Settles O50, by the message next on its pair channel. -/
theorem messageArrivals : Obligations.MessageArrivals := by
  unfold Obligations.MessageArrivals
  intro s src dst p g m c matched
  have isMatched := m.matched_iff c g.chan
  refine ⟨?_, exec_replyArrival, ?_, ?_⟩
  · intro h
    have handler := exec_handlerArrival (s := s) h
    have matching := exec_matchedArrival (s := s) h
    constructor
    · intro other
      rw [if_neg (mt isMatched.mp other)] at handler matching
      exact ⟨handler, matching⟩
    · intro both
      rw [if_pos (isMatched.mpr both)] at handler matching
      exact ⟨handler, matching⟩
  · intro fenced
    exact ⟨if_pos fenced, if_pos fenced⟩
  · intro x rest _ _ taken
    rw [Mach.arriveMatched]
    rw [taken]

/-- Settles O47: each event is its guard and its action. -/
theorem dispatchAndSteal : Obligations.DispatchAndSteal := by
  unfold Obligations.DispatchAndSteal
  intro s c d m r may
  refine ⟨?_, ?_, ?_, exec_level1TaskStart_none, ?_, ?_, ?_, ?_⟩
  · rintro ⟨runs, helper, source⟩
    rw [exec_dispatch, if_pos]
    rw [show s.m.running c = true from runs, show (s.m.freeHelper c).isSome = true from helper,
      show (s.m.source c).isSome = true from source]
    rfl
  · intro not
    rw [exec_dispatch, if_neg]
    · rfl
    · rw [Bool.and_eq_true, Bool.and_eq_true, and_assoc]
      exact not
  · intro ch e rest asked mayStart m1
    exact ⟨exec_level1TaskStart_may asked, exec_level1TaskStart_not asked⟩
  · intro v l steals victims
    rw [exec_stealRequest, if_pos steals]
    rw [show s.m.victims c ((s.m.core c).victim.getD c) = v :: l from victims]
  · intro idle
    rw [exec_stealRequest]
    rcases idle with h | h
    · rw [if_neg (Bool.eq_false_iff.mp h)]
      rfl
    · rw [show s.m.victims c ((s.m.core c).victim.getD c) = [] from h]
      exact congrArg (fun m => Host.Outcome.next (s.on m)) (ite_self s.m)
  · intro p next asks
    have grants := exec_stealGrant next asks
    constructor
    · intro e m1 present domain popped
      have surrendered : (if !s.m.isFenced d && s.m.inDomain d c then s.m.popOldest d else none) = some (e, m1) := by
        rw [show s.m.isFenced d = false from present, show s.m.inDomain d c = true from domain]
        exact popped
      rw [surrendered] at grants
      exact grants
    · intro declines
      have nothing : (if !s.m.isFenced d && s.m.inDomain d c then s.m.popOldest d else none) = none := by
        obtain h | h | h := declines
        · rw [show s.m.isFenced d = true from h]
          rfl
        · rw [show s.m.inDomain d c = false from h, Bool.and_false]
          rfl
        · rw [show s.m.popOldest d = none from h]
          exact ite_self _
      rw [nothing] at grants
      exact grants
  · intro t waits
    rw [exec_stealWaitExpiry waits]
    constructor
    · intro due
      rw [if_pos due]
    · intro early
      rw [if_neg (Nat.not_le.mpr early)]
      rfl

end

section
/-!
PROOF. Packets in flight (R145, R174, R176, R177, R180): arrival, re-sends, the golden pair, links and draining; O51.
-/
namespace Sys2Proof.Machine

section
variable {s : State} {id : Nat} {p : Packet}

/-! ### A packet and its re-sends -/

theorem exec_packetArrival (found : s.m.packet id = some p) (f : Fate) :
    exec (.packetArrival id f) s = .next (s.on (
      if p.phase != .flying then s.m
      else if p.src = p.dst then s.m.accept p
      else match f with
        | .taken => s.m.accept p
        | .badCrc die =>
          (s.m.post (die % 4) ((s.m.partOf p.core).getD 0) { cause := Cause.networkCrc.code }).modPacket id
            (fun q => { q with phase := .lost })
        | .full =>
          if p.answers = 0 && !p.reply && !p.golden then
            s.m.modPacket id (fun q => { q with phase := .nacked, nackedLast := true })
          else s.m)) := by
  show execPacketArrival id f s = _
  refine s.onMach_eq ?_
  rw [found] <;> cases f <;> rfl

theorem exec_nackResend (found : s.m.packet id = some p) :
    exec (.nackResend id) s = .next (s.on (if p.phase == .nacked && !p.noticed then s.m.resend p else s.m)) := by
  show execNackResend id s = _
  refine s.onMach_eq ?_
  rw [found]

theorem exec_e2eTimerExpiry (found : s.m.packet id = some p) :
    exec (.e2eTimerExpiry id) s = .next (s.on (
      if p.answers = 0 ∧ p.noticed = false ∧ p.phase ≠ .waiting ∧ p.src ≠ p.dst then
        if p.sends = closedSends then s.m.exhaustOne p else s.m.resend p
      else s.m)) := by
  have guard : (p.answers ≠ 0 || p.noticed || p.phase == .waiting || p.src == p.dst) = true ↔
      ¬ (p.answers = 0 ∧ p.noticed = false ∧ p.phase ≠ .waiting ∧ p.src ≠ p.dst) := by
    simp only [Bool.or_eq_true, decide_eq_true_eq, beq_iff_eq, not_and_or, not_not, Bool.not_eq_false, ne_eq, or_assoc]
  show execE2eTimerExpiry id s = _
  refine s.onMach_eq ?_
  rw [found]
  dsimp only
  by_cases due : p.answers = 0 ∧ p.noticed = false ∧ p.phase ≠ .waiting ∧ p.src ≠ p.dst
  · rw [if_pos due, if_neg (mt guard.mp (not_not.mpr due))]
  · rw [if_neg due, if_pos (guard.mpr due)]

theorem exec_goldenTimeout (found : s.m.packet id = some p) :
    exec (.goldenTimeout id) s = .next (s.on (if s.m.goldenLate p then s.m.goldenTimeout p else s.m)) := by
  show execGoldenTimeout id s = _
  refine s.onMach_eq ?_
  rw [found]

theorem Mach.goldenLate_iff {m : Mach} :
    m.goldenLate p = true ↔ p.golden = true ∧ p.phase = .flying ∧ p.pair ≠ some (goldenAt m.now) := by
  rw [Mach.goldenLate, Bool.and_eq_true, Bool.and_eq_true, beq_iff_eq, bne_iff_ne, and_assoc]

/-- An event of a packet that stands no more does nothing. -/
theorem exec_packetGone (gone : s.m.packet id = none) :
    exec (.packetArrival id .taken) s = .next s ∧ exec (.nackResend id) s = .next s ∧
      exec (.e2eTimerExpiry id) s = .next s ∧ exec (.goldenTimeout id) s = .next s := by
  refine ⟨(s.onMach_idle ?_ : execPacketArrival id .taken s = _), (s.onMach_idle ?_ : execNackResend id s = _),
    (s.onMach_idle ?_ : execE2eTimerExpiry id s = _), (s.onMach_idle ?_ : execGoldenTimeout id s = _)⟩ <;> rw [gone]

theorem exec_holdNotice : exec (.holdNotice id) s =
    .next (s.on (s.m.modPacket id (fun q => if q.phase == .held then { q with noticed := true } else q))) :=
  (s.onMach_eq rfl : execHoldNotice id s = _)

/-! ### Links and combined stores -/

theorem exec_linkDown {die link : Nat} : exec (.linkDown die link none) s = .next (s.on (
    if (s.m.die die).down.contains link then s.m
    else (s.m.modDie die (fun d => { d with down := insertNat d.down link })).postDie die
      { cause := Cause.linkDown.code, aux0 := BitVec.ofNat 64 link })) :=
  (s.onMach_eq rfl : execLinkDown die link none s = _)

theorem exec_portDown {die link n : Nat} : exec (.linkDown die link (some n)) s = .next (s.on (
    if s.m.peersDown.contains n then s.m
    else ({ s.m with peersDown := insertNat s.m.peersDown n } : Mach).postDie die
      { cause := Cause.linkDown.code, aux0 := BitVec.ofNat 64 n })) :=
  (s.onMach_eq rfl : execLinkDown die link (some n) s = _)

theorem exec_wcDrain {c : Nat} {e : Combine} {rest : List Combine} (holds : (s.m.core c).combine = e :: rest) :
    exec (.wcDrain c) s = .next (s.on (if e.since + 64 ≤ (s.m.core c).cycles then s.m.drainOne c else s.m)) := by
  show execWcDrain c s = _
  refine s.onMach_eq ?_
  rw [holds]

theorem exec_wcDrain_nil {c : Nat} (empty : (s.m.core c).combine = []) : exec (.wcDrain c) s = .next s := by
  refine (s.onMach_idle ?_ : execWcDrain c s = _)
  rw [empty]

end

end Sys2Proof.Machine

open Sys2Proof Sys2Proof.Machine

/-- Settles O51: each event of a packet, a link or a combining entry is its guard and its action. -/
theorem networkEvents : Obligations.NetworkEvents := by
  unfold Obligations.NetworkEvents
  intro s id p die link c m
  refine ⟨?_, exec_packetGone, exec_holdNotice, rfl, ?_, ?_, ?_, ?_, exec_wcDrain_nil⟩
  · intro found
    have arrives := exec_packetArrival (s := s) found
    have nacked := exec_nackResend (s := s) found
    have expires := exec_e2eTimerExpiry (s := s) found
    have golden := exec_goldenTimeout (s := s) found
    refine ⟨?_, ?_, ?_, ?_, ?_, ?_, ?_, ?_⟩
    · intro other f
      rw [arrives f, if_pos (bne_iff_ne.mpr other)]
      rfl
    · intro flying home f
      rw [arrives f, flying, if_neg (by decide), if_pos home]
    · intro flying away
      have fates (f : Fate) := arrives f
      simp only [flying, bne_self_eq_false, Bool.false_eq_true, if_false, if_neg away] at fates
      refine ⟨fates .taken, fates (.badCrc die), ?_, ?_⟩
      · intro request plane plain
        refine (fates .full).trans ?_
        dsimp only
        rw [request, plane, plain]
        rfl
      · intro kept
        refine (fates .full).trans ?_
        dsimp only
        rw [if_neg]
        · rfl
        · rw [Bool.and_eq_true, Bool.and_eq_true, decide_eq_true_eq, Bool.not_eq_true', Bool.not_eq_true']
          rintro ⟨⟨request, plane⟩, plain⟩
          obtain h | h | h := kept
          · exact h request
          · exact Bool.false_ne_true (plane.symm.trans h)
          · exact Bool.false_ne_true (plain.symm.trans h)
    · intro phase unnoticed
      rw [nacked, phase, unnoticed]
      rfl
    · intro kept
      rw [nacked, if_neg]
      · rfl
      · rw [Bool.and_eq_true, beq_iff_eq, Bool.not_eq_true']
        rintro ⟨phase, unnoticed⟩
        exact kept.elim (fun h => h phase) fun h => Bool.false_ne_true (unnoticed.symm.trans h)
    · refine ⟨?_, ?_, ?_⟩
      · intro due closed
        rw [expires, if_pos due, if_pos closed]
      · intro due ahead
        rw [expires, if_pos due, if_neg ahead]
      · intro early
        rw [expires, if_neg early]
        rfl
    · intro gilded flying past
      rw [golden, if_pos (Mach.goldenLate_iff.mpr ⟨gilded, flying, past⟩)]
      rfl
    · intro kept
      rw [golden, if_neg]
      · rfl
      · rw [Mach.goldenLate_iff]
        rintro ⟨gilded, flying, past⟩
        obtain h | h | h := kept
        · exact Bool.false_ne_true (h.symm.trans gilded)
        · exact h flying
        · exact past h
  · intro up
    rw [exec_linkDown, if_neg (Bool.eq_false_iff.mp up)]
  · intro down
    rw [exec_linkDown, if_pos down]
    rfl
  · intro n
    constructor
    · intro up
      rw [exec_portDown, if_neg (Bool.eq_false_iff.mp up)]
    · intro down
      rw [exec_portDown, if_pos down]
      rfl
  · intro e rest holds
    have drains := exec_wcDrain (s := s) holds
    constructor
    · intro due
      rw [drains, if_pos due]
    · intro early
      rw [drains, if_neg (Nat.not_le.mpr early)]
      rfl

end

section
/-!
PROOF. Fold loads and stores (R195, R197, R199, R384, R419): O43.
-/
namespace Sys2Proof.Machine

/-! ### LDG and STG -/

/-- The fold that LDG asks for. -/
def Mach.foldAsked (m : Mach) (v : BitVec 4) (fa : Word) (g : Group) (o now : Nat) : Mach :=
  let n := m.lateV v (.token true)
  let f : Fold := { id := n.nextId, pend := m.nextId, core := n.cur.core, task := n.me.task, part := n.myPart,
                    group := field fa 24 6, op := o, fa := fa, since := now, unread := g.members, got := [],
                    packet := n.nextId + 1 }
  let n1 := n.fresh.request g.root (.fold n.nextId)
  { n1 with folds := n1.folds ++ [f] }

/-- A request leaves the issuing task and its partition. -/
theorem Mach.request_task (m : Mach) (dst : Nat) (b : Body) : (m.request dst b).cur.core = m.cur.core ∧
    (m.request dst b).me.task = m.me.task ∧ (m.request dst b).myPart = m.myPart := by
  rw [Mach.request, Mach.inject_eq]
  exact ⟨rfl, rfl, rfl⟩

/-- The fold's record, as it is made once the request has left. -/
theorem Mach.foldAsked_eq (m : Mach) (v : BitVec 4) (fa : Word) (g : Group) (o now : Nat) :
    m.foldAsked v fa g o now =
      let n := m.lateV v (.token true)
      let n1 := n.fresh.request g.root (.fold n.nextId)
      let f : Fold := { id := n.nextId, pend := m.nextId, core := n1.cur.core, task := n1.me.task, part := n1.myPart,
                        group := field fa 24 6, op := o, fa := fa, since := now, unread := g.members, got := [],
                        packet := n.nextId + 1 }
      { n1 with folds := n1.folds ++ [f] } := by
  obtain ⟨core, task, part⟩ :=
    (m.lateV v (.token true)).fresh.request_task g.root (.fold (m.lateV v (.token true)).nextId)
  rw [Mach.foldAsked]
  dsimp only
  rw [core, task, part]
  rfl

section
variable {s : State} {v : BitVec 4} {a : BitVec 5}

theorem exec_ldg (o : BitVec 4) (t : BitVec 1) (ha : s.m.canReadW a) (ready : s.m.portsReady (some v) []) :
    exec (.ldg v a o t) s = .next (s.on (s.m.settle (s.m.foldCheck (s.m.w a) (decide (10 ≤ o.toNat)) >>= fun g =>
      let n := s.m.foldAsked v (s.m.w a) g o.toNat s.now
      .ok (if t = 1 then n.await (.fold s.m.nextId (s.m.w a)) else n.done)))) := by
  show execLdg v a o t s = _
  refine s.onMach_eq ?_
  rw [s.m.operandsFull_one ha, s.m.popping_ok _ ready, s.m.readW_ok ha]
  simp only [Mach.foldAsked_eq]
  rfl

/-- The issuing core's part of an STG, if it is a member. -/
def Mach.foldMine (m : Mach) (g : Group) (fa : Word) (x : V) : Bool × Mach :=
  if g.members.contains m.cur.core && !m.isFenced m.cur.core then m.storeMember m.cur.core (offOf fa) x else (false, m)

/-- Its parts at the other members. -/
def Mach.foldOthers (m0 m : Mach) (g : Group) (fa : Word) (x : V) : Mach :=
  (g.members.filter (fun c => !m0.isFenced c && c != m0.cur.core)).foldl (fun m c => m.request c
    (.mem (.foldStore (bytesAt (scratchKey c (offOf fa)) 64 x.toNat)) (scratchKey c (offOf fa)) fa false)) m

theorem exec_stg {m0 : Mach} {mask : BitVec 16} {val : BitVec 4 → V}
    (reads : s.m.vecReads none [v] 0 [a] = some (m0, mask, val)) (ha : m0.canReadW a) :
    exec (.stg v a) s = .next (s.on (s.m.settle (m0.foldCheck (m0.w a) false >>= fun g =>
      let mine := m0.foldMine g (m0.w a) (val v)
      let m := m0.foldOthers mine.2 g (m0.w a) (val v)
      let f : FoldStore :=
        { id := m.nextId, core := m.cur.core, ctx := m.cur.ctx, task := m.me.task,
          unacked := (List.range (g.members.filter (fun c => !m0.isFenced c && c != m0.cur.core)).length).map
            (mine.2.nextId + ·),
          absent := g.members.filter (fun c => m0.isFenced c), part := if mine.1 then [m0.cur.core] else [] }
      .ok (m.fresh.settleStg f).done))) := by
  show execStg v a s = _
  refine s.onMach_eq ?_
  rw [s.m.vecOp_ok _ reads, m0.readW_ok ha]
  rfl

/-- The own part, by whether the member is there and its window holds the address. -/
theorem Mach.foldMine_eq (m : Mach) (g : Group) (fa : Word) (x : V) : m.foldMine g fa x =
    let mine := g.members.contains m.cur.core && !m.isFenced m.cur.core
    let outside := decide (m.scratchSize m.cur.core ≤ offOf fa)
    (mine && outside, if mine && !outside then
      (m.settleOwn m.cur.core).storeScratch (bytesAt (scratchKey m.cur.core (offOf fa)) 64 x.toNat) else m) := by
  rw [Mach.foldMine]
  dsimp only
  cases g.members.contains m.cur.core && !m.isFenced m.cur.core with
  | false => rfl
  | true =>
    rw [if_pos rfl, Mach.storeMember]
    by_cases h : m.scratchSize m.cur.core ≤ offOf fa
    · rw [if_pos h, decide_eq_true h]
      rfl
    · rw [if_neg h, decide_eq_false h]
      rfl

/-! ### Answers, results and timeouts -/

variable {id : Nat} {f : Fold}

theorem Mach.foldAnswer_eq {m : Mach} {g : Group} {p : Packet} (found : m.folds.find? (fun f => f.id == id) = some f)
    (group : m.groupOf f.part f.group = some g) (packet : m.packet f.packet = some p) (read : f.unread = [])
    (arrived : p.phase = .done) (unanswered : ∀ r ∈ m.packets, r.answers ≠ p.id) :
    m.foldAnswer id =
      (m.modPacket p.id (fun q => { q with noticed := false })).answer p (.folded (f.result g).1 (f.result g).2) := by
  have none : m.packets.any (fun r => r.answers == p.id) = false := by
    rw [List.any_eq_false]
    intro r hr
    rw [beq_iff_eq]
    exact unanswered r hr
  rw [Mach.foldAnswer, found]
  dsimp only
  rw [group, packet]
  dsimp only
  rw [read, arrived, none]
  rfl

theorem exec_foldResult {x : Nat} {fl : BitVec 5} (found : s.m.folds.find? (fun f => f.id == id) = some f)
    (reply : s.m.foldReply f = some (x, fl)) (free : s.m.foldFree f = true) :
    exec (.foldResult id) s = .next (s.on (
      (s.m.modTask f.core f.task (fun x => { x with foldstat := foldCount x.foldstat f.absents f.partials })).foldDone f x fl
        (if f.partials ≠ [] then some .foldPartialFault else if f.absents ≠ [] then some .foldIncomplete else none))) := by
  have cause : (if !f.partials.isEmpty then some Cause.foldPartialFault
      else if !f.absents.isEmpty then some .foldIncomplete else none) =
      if f.partials ≠ [] then some .foldPartialFault else if f.absents ≠ [] then some .foldIncomplete else none := by
    cases f.partials <;> cases f.absents <;> rfl
  show execFoldResult id s = _
  refine s.onMach_eq ?_
  rw [found]
  dsimp only
  rw [reply]
  dsimp only
  rw [if_pos free, cause]

theorem exec_foldTreeTimeout (found : s.m.folds.find? (fun f => f.id == id) = some f)
    (due : f.since + 100000 ≤ s.m.now) (free : s.m.foldFree f = true) :
    exec (.foldTreeTimeout id) s = .next (s.on ((s.m.postAt f.core
      { cause := Cause.foldTreeTimeout.code, core := some f.core, bad := some f.fa,
        ctx := (s.m.packet f.packet).bind (·.ctxs.head?), pc := (s.m.packet f.packet).map (·.pc) }).foldDone f 0 0
          (some .foldTreeTimeout))) := by
  show execFoldTreeTimeout id s = _
  refine s.onMach_eq ?_
  rw [found]
  dsimp only
  rw [decide_eq_true due, free]
  rfl

end

end Sys2Proof.Machine

open Sys2Proof Sys2Proof.Machine

/-- Settles O43: LDG and STG by their checks, and a fold's end by what has come back. -/
theorem folds : Obligations.Folds := by
  unfold Obligations.Folds
  intro s v a o t g fa
  refine ⟨?_, ?_, ?_⟩
  · intro ha ready
    have runs := exec_ldg o t ha ready
    constructor
    · intro e refused
      rw [show s.m.foldCheck (s.m.w a) (decide (10 ≤ o.toNat)) = .error e from refused] at runs
      exact runs
    · intro passed
      rw [show s.m.foldCheck (s.m.w a) (decide (10 ≤ o.toNat)) = .ok g from passed] at runs
      exact runs
  · intro m0 mask val reads ha fa
    have runs := exec_stg reads ha
    constructor
    · intro e refused
      rw [show m0.foldCheck (m0.w a) false = .error e from refused] at runs
      exact runs
    · intro passed
      rw [show m0.foldCheck (m0.w a) false = .ok g from passed] at runs
      refine runs.trans ?_
      simp only [bind, Except.bind, Mach.foldMine_eq]
      rfl
  · intro id f found
    exact ⟨fun g p group packet read arrived unanswered =>
        Mach.foldAnswer_eq found group packet read arrived unanswered,
      fun x fl reply free => exec_foldResult found reply free,
      fun due free => exec_foldTreeTimeout found due free⟩

end

section
/-!
PROOF. Requests at the core or slice that they have reached (R99, R107, R113, R149, R179, R195): O48.
-/
namespace Sys2Proof.Machine

section
variable {s : State} {src dst : Nat} {p : Packet}

/-! ### Memory requests -/

theorem exec_memoryRequest_none (source : src < 2048) (none : s.m.next src dst false = none) :
    exec (.memoryRequest src dst) s = .next s := by
  refine (s.onMach_idle ?_ : execMemoryRequest src dst s = _)
  rw [if_neg (Nat.not_le.mpr source), none]

theorem exec_memoryRequest_fold {f : Nat} (source : src < 2048) (next : s.m.next src dst false = some p)
    (body : p.body = .fold f) : exec (.memoryRequest src dst) s =
      .next (s.on ((s.m.modPacket p.id (fun q => { q with phase := .done, noticed := true })).foldAnswer f)) := by
  show execMemoryRequest src dst s = _
  refine s.onMach_eq ?_
  rw [if_neg (Nat.not_le.mpr source), next]
  dsimp only
  rw [body]

theorem exec_memoryRequest_mem {op : MemOp} {k : Nat} {va : Word} {pk : Bool} (source : src < 2048)
    (next : s.m.next src dst false = some p) (body : p.body = .mem op k va pk) : exec (.memoryRequest src dst) s =
      .next (s.on (if dst < 1024 then s.m.requestAtCore p op k else s.m.requestAtSlice p op k va pk)) := by
  show execMemoryRequest src dst s = _
  refine s.onMach_eq ?_
  rw [if_neg (Nat.not_le.mpr source), next]
  dsimp only
  rw [body]

theorem exec_memoryRequest_member (source : 2048 ≤ src) :
    exec (.memoryRequest src dst) s = .next (s.on (s.m.foldMember (src - 2048) dst)) :=
  (s.onMach_eq (if_pos source) : execMemoryRequest src dst s = _)

section
variable {m m1 : Mach} {op : MemOp} {k : Nat} {va : Word} {pk : Bool} {b : Body}

theorem Mach.requestAtCore_performed (h : m.performCore p.dst op k (m.forwardGone p) = some (b, m1)) :
    m.requestAtCore p op k = m1.answer p b := by
  unfold Mach.requestAtCore
  simp only [h]

/-- An LDS whose word is empty waits at its home while there is room. -/
theorem Mach.requestAtCore_waits {take : Bool} (h : m.performCore p.dst (.sync take) k (m.forwardGone p) = none) :
    m.requestAtCore p (.sync take) k = if (m.core p.dst).waiters.length < 64 then
      (m.modCore p.dst (fun r => { r with waiters := r.waiters ++ [(p.id, k, take)] })).modPacket p.id
        (fun q => { q with phase := .done, noticed := true })
      else m := by
  rw [Mach.requestAtCore, h]

theorem Mach.requestAtSlice_retired (retired : (m.slice (p.dst - 1024)).retired = true) :
    m.requestAtSlice p op k va pk = m.answer p (m.remapBody p.dst) :=
  if_pos retired

theorem Mach.requestAtSlice_serving (serving : (m.slice (p.dst - 1024)).retired = false) :
    m.requestAtSlice p op k va pk = if m.memHeld k then m else
      (m.performSlice op k (p.requester va) pk).2.answer p (m.performSlice op k (p.requester va) pk).1 :=
  if_neg (Bool.eq_false_iff.mp serving)

end

/-! ### Handle operations and apply messages -/

theorem exec_handleRequest {op : HandleOp} {h : Handle} {rt : Bool} (next : s.m.next src dst false = some p)
    (body : p.body = .handle op h rt) : exec (.handleRequest src dst) s =
      .next (s.on ((s.m.handleDone op h rt p.core p.dst).2.answer p (s.m.handleDone op h rt p.core p.dst).1)) := by
  show execHandleRequest src dst s = _
  refine s.onMach_eq ?_
  rw [next]
  dsimp only
  rw [body]

theorem exec_applyMessage {h : Handle} {args : Args} {rt : Bool} {tag : Option Nat}
    (next : s.m.next src dst false = some p) (body : p.body = .apply h args rt tag) :
    exec (.applyMessage src dst) s = .next (s.on (s.m.applyArrives p h args rt tag)) := by
  show execApplyMessage src dst s = _
  refine s.onMach_eq ?_
  rw [next]
  dsimp only
  rw [body]

/-! ### Remap replies (R149) -/

/-- A request sent again to its new home, behind those sent again there. -/
def Mach.sentAgain (m : Mach) (r q : Packet) (gen : Nat) : Mach :=
  let behind := m.behindResend { q with dst := m.rehash q }
  ((m.retire r.id).modPacket q.id (fun p =>
    { p with dst := m.rehash q, phase := if behind = 0 then .flying else .waiting, slot := if behind = 0 then p.slot else none,
             heldBy := behind, sends := 1, remaps := q.remaps + 1, noticed := false, golden := false,
             mapGen := gen })).launch q.src false

theorem exec_remapReply {id d gen : Nat} {map : List Nat} {r q : Packet} (reply : s.m.arrivedReply id = some r)
    (body : r.body = .remap d gen map) (asked : s.m.packet r.answers = some q) :
    exec (.remapReply id) s = .next (s.on (
      let m1 := s.m.setMap q.src d { gen := gen, map := map }
      if 3 ≤ q.remaps then (m1.modPacket r.id (fun r => { r with body := remapFailure q.body })).unhold q.id
      else m1.sentAgain r q gen)) := by
  show execRemapReply id s = _
  refine s.onMach_eq ?_
  rw [reply]
  dsimp only
  rw [body, asked]
  rfl

end

end Sys2Proof.Machine

open Sys2Proof Sys2Proof.Machine

/-- Settles O48, by the body of the request next on its pair channel. -/
theorem requestsAtHome : Obligations.RequestsAtHome := by
  unfold Obligations.RequestsAtHome
  intro s src dst p m done
  refine ⟨fun none source => exec_memoryRequest_none source none, ?_, exec_memoryRequest_member, ?_⟩
  · intro next
    refine ⟨?_, ?_, ?_, ?_⟩
    · intro f source body
      exact exec_memoryRequest_fold source next body
    · intro op k va pk source body
      have runs := exec_memoryRequest_mem source next body
      constructor
      · intro atCore home
        rw [if_pos atCore] at runs
        subst home
        constructor
        · intro b m1 performed
          rw [Mach.requestAtCore_performed performed] at runs
          exact runs
        · intro take empty sync
          subst sync
          rw [Mach.requestAtCore_waits empty] at runs
          constructor
          · intro room
            rw [if_pos room] at runs
            exact runs
          · intro full
            rw [if_neg (Nat.not_lt.mpr full)] at runs
            exact runs
      · intro atSlice home
        rw [if_neg (Nat.not_lt.mpr atSlice)] at runs
        subst home
        refine ⟨?_, ?_, ?_⟩
        · intro retired
          rw [Mach.requestAtSlice_retired retired] at runs
          exact runs
        · intro serving free b m1 performed
          rw [Mach.requestAtSlice_serving serving, if_neg (Bool.eq_false_iff.mp free), performed] at runs
          exact runs
        · intro serving held
          rw [Mach.requestAtSlice_serving serving, if_pos held] at runs
          exact runs
    · intro op h rt b m1 body performed
      have runs := exec_handleRequest next body
      rw [performed] at runs
      exact runs
    · intro h args rt tag body home
      have runs := exec_applyMessage next body
      rw [Mach.applyArrives, home] at runs
      constructor
      · intro fenced
        rw [if_pos fenced] at runs
        exact runs
      · intro present part
        rw [if_neg (Bool.eq_false_iff.mp present)] at runs
        dsimp only at runs
        constructor
        · intro e refused
          rw [show s.m.takeApp ((s.m.partOf p.core).getD 0) h rt dst = .error e from refused] at runs
          exact runs
        · intro m1 taken
          rw [show s.m.takeApp ((s.m.partOf p.core).getD 0) h rt dst = .ok m1 from taken] at runs
          dsimp only at runs
          constructor
          · intro m2 joined
            rw [joined] at runs
            exact runs
          · intro full
            rw [full] at runs
            exact runs
  · intro id r q d gen map reply body asked m1
    have runs := exec_remapReply reply body asked
    constructor
    · intro exhausted
      rw [runs]
      dsimp only
      rw [if_pos exhausted]
    · intro again home2 behind
      rw [runs]
      dsimp only
      rw [if_neg (Nat.not_le.mpr again)]
      rfl

end

section
/-!
PROOF. Late results and the replies that end waits (R19, R67, R101, R118, R133, R150, R177, R183): O49.
-/
namespace Sys2Proof.Machine

section
variable {s : State} {id : Nat} {r q : Packet}

/-! ### Late results (R19) -/

theorem exec_lateResult {p : Pend} (found : s.m.findPend id = some p) (free : s.m.behind p = false) :
    exec (.lateResult id) s = .next (s.on (match p.late with
      | .value v fl => s.m.writeLate p v fl
      | .parts x =>
        if x.wait.isEmpty then s.m.finishParts p x
        else match s.m.partReply x with
          | some (w, r) => s.m.partBack p x w r
          | none => s.m
      | _ => s.m)) := by
  show execLateResult id s = _
  refine s.onMach_eq ?_
  rw [Mach.lateResult, found]
  dsimp only
  rw [if_neg (Bool.eq_false_iff.mp free)] <;> rfl

theorem exec_lateResult_behind {p : Pend} (found : s.m.findPend id = some p) (behind : s.m.behind p = true) :
    exec (.lateResult id) s = .next s := by
  refine (s.onMach_idle ?_ : execLateResult id s = _)
  rw [Mach.lateResult, found]
  exact if_pos behind

theorem exec_lateResult_none (gone : s.m.findPend id = none) : exec (.lateResult id) s = .next s := by
  refine (s.onMach_idle ?_ : execLateResult id s = _)
  rw [Mach.lateResult, gone]

/-! ### Replies that are not there -/

theorem exec_replyGone (gone : s.m.arrivedReply id = none) : exec (.acknowledgement id) s = .next s ∧
    exec (.handleReply id) s = .next s ∧ exec (.sendStatus id) s = .next s ∧ exec (.remapReply id) s = .next s := by
  refine ⟨(s.onMach_idle ?_ : execAcknowledgement id s = _), (s.onMach_idle ?_ : execHandleReply id s = _),
    (s.onMach_idle ?_ : execSendStatus id s = _), (s.onMach_idle ?_ : execRemapReply id s = _)⟩
  · rw [Mach.acknowledged, gone]
  · rw [Mach.handleReply, gone]
  · rw [gone]
  · rw [gone]

/-! ### The status of a message (R183) -/

theorem exec_sendStatus {g : Msg} {token n : Nat} (reply : s.m.arrivedReply id = some r)
    (asked : s.m.packet r.answers = some q) (status : r.body = .status n) (message : q.body = .message g token) :
    exec (.sendStatus id) s = .next (s.on (
      if (s.m.findPend token).any s.m.behind then s.m else (s.m.settleReply r).messageDone r.core token n)) := by
  show execSendStatus id s = _
  refine s.onMach_eq ?_
  rw [reply]
  dsimp only
  rw [asked, Option.map_some, status, message]

/-! ### Replies to handle operations and park requests (R101, R118) -/

/-- What the reply to a handle operation does once it is consumed. -/
def Mach.handleSettled (m : Mach) (now : Nat) (r : Packet) (op : HandleOp) (h : Handle) (out : Option Cause) : Mach :=
  if op = .giveBack || op = .unref || op = .unfly then m
  else if op = .accept then m.settleArrival r.core r.answers h out.isNone
  else match m.ctxOf r.core r.task with
    | none => m
    | some x =>
      match (m.ctx r.core x).wait with
      | .reply pc k =>
        if op = .cancel && out.isNone && m.cancelling h.toNat then
          m.modCtx r.core x (fun v => { v with wait := .reply pc (.cancelled h.toNat) })
        else m.handleBack now r.core x r.task pc k h out
      | _ => m

theorem exec_handleReply {op : HandleOp} {h : Handle} {rt : Bool} {out : Option Cause} {n : Word}
    (reply : s.m.arrivedReply id = some r) (asked : s.m.packet r.answers = some q) (handled : r.body = .handled out n)
    (operation : q.body = .handle op h rt) : exec (.handleReply id) s = .next (s.on (
      if out.isNone && s.m.startWaits r.core r.task h then s.m
      else (s.m.settleReply r).handleSettled s.now r op h out)) := by
  show execHandleReply id s = _
  refine s.onMach_eq ?_
  rw [Mach.handleReply, reply]
  dsimp only
  rw [asked, Option.map_some, handled, operation]
  rfl

section
variable {m : Mach} {now x : Nat} {pc : Word} {k : Cont} {op : HandleOp} {h : Handle} {out : Option Cause}

theorem Mach.handleSettled_back (back : op = .giveBack ∨ op = .unref ∨ op = .unfly) :
    m.handleSettled now r op h out = m := by
  obtain rfl | rfl | rfl := back <;> rfl

/-- Another operation is for the context that waits, if one does. -/
theorem Mach.handleSettled_waiter (notGivenBack : op ≠ .giveBack) (notUnref : op ≠ .unref) (notUnfly : op ≠ .unfly)
    (notAccept : op ≠ .accept) : m.handleSettled now r op h out = match m.ctxOf r.core r.task with
      | none => m
      | some x =>
        match (m.ctx r.core x).wait with
        | .reply pc k =>
          if op = .cancel && out.isNone && m.cancelling h.toNat then
            m.modCtx r.core x (fun v => { v with wait := .reply pc (.cancelled h.toNat) })
          else m.handleBack now r.core x r.task pc k h out
        | _ => m := by
  have others : ¬ (decide (op = .giveBack) || decide (op = .unref) || decide (op = .unfly)) = true := by
    rw [Bool.or_eq_true, Bool.or_eq_true, decide_eq_true_eq, decide_eq_true_eq, decide_eq_true_eq]
    rintro ((h | h) | h)
    · exact notGivenBack h
    · exact notUnref h
    · exact notUnfly h
  exact (if_neg others).trans (if_neg notAccept)

theorem cancels_iff : (decide (op = .cancel) && out.isNone && m.cancelling h.toNat) = true ↔
    op = .cancel ∧ out = none ∧ m.cancelling h.toNat = true := by
  rw [Bool.and_eq_true, Bool.and_eq_true, decide_eq_true_eq, Option.isNone_iff_eq_none, and_assoc]

end

theorem exec_handleReply_parked {n x : Nat} {e : Cause} {pc : Word} {lane parked : Bool} {todo : List ParkLane}
    (reply : s.m.arrivedReply id = some r) (answer : r.body = .parked n e)
    (who : (s.m.settleReply r).ctxOf r.core r.task = some x)
    (waits : ((s.m.settleReply r).ctx r.core x).wait = .reply pc (.park lane todo parked)) :
    exec (.handleReply id) s =
      .next (s.on ((s.m.settleReply r).parkBack r.core x r.task pc lane parked todo n e)) := by
  show execHandleReply id s = _
  refine s.onMach_eq ?_
  rw [Mach.handleReply, reply]
  dsimp only
  rw [answer]
  dsimp only
  rw [who]
  dsimp only
  rw [waits]

/-! ### Acknowledgements (R133, R150, R177) -/

/-- What the reply to a request that is no engine's and no STG's does once it is consumed. -/
def Mach.ackSettled (m : Mach) (now : Nat) (q r : Packet) : Mach :=
  match q.body, (m.ctxOf r.core r.task).map (fun x => (x, (m.ctx r.core x).wait)) with
  | .fold f, _ =>
    match m.folds.find? (fun g => g.id == f) with
    | some g => m.foldDone g 0 0 none
    | none => m
  | _, some (x, .reply pc (.access i a lane todo undo)) =>
    if i = q.id then
      match r.body with
      | .failed e true =>
        (m.undone r.core x undo).raise r.core x { cause := e, bad := a, brsrc := BitVec.ofNat 64 (lane.getD 0) } pc
      | _ => (m.acknowledge now q r).scatterNext r.core x r.task pc undo todo
    else m.acknowledge now q r
  | _, _ => m.acknowledge now q r

/-- Whether a reply is an acknowledgement. -/
def Body.acknowledges (b : Body) : Prop :=
  b = .ack ∨ (∃ e pk, b = .failed e pk) ∨ (∃ v, b = .data v) ∨ (∃ l, b = .line l) ∨ ∃ e, b = .stolen e

theorem exec_acknowledgement (reply : s.m.arrivedReply id = some r) (asked : s.m.packet r.answers = some q)
    (ours : r.body.acknowledges) (taken : s.m.replyWaits s.now q r = false)
    (free : ∀ y ∈ s.m.pends, ∀ x, y.late = .parts x → ∀ w ∈ x.wait, w.2.2 ≠ q.id) :
    exec (.acknowledgement id) s = .next (s.on (
      if s.m.engineAsked q.id then
        (s.m.settleReply r).noteAnswer q.id (match r.body with | .data v => some v | _ => some 0)
          (match r.body with | .failed e _ => some e | _ => none)
      else if (s.m.settleReply r).foldStores.any (fun f => f.unacked.contains q.id) then
        (s.m.settleReply r).foldAcked q.id q.dst (match r.body with | .failed _ _ => true | _ => false)
          (r.body == .failed .coreFenced false)
      else (s.m.settleReply r).ackSettled s.now q r)) := by
  have unawaited : s.m.pends.any (fun p => match p.late with
      | .parts x => x.wait.any (fun w => w.2.2 == q.id)
      | _ => false) = false := by
    rw [List.any_eq_false]
    intro y hy
    split
    · rename_i x parts
      rw [Bool.not_eq_true, List.any_eq_false]
      intro w hw
      rw [beq_iff_eq]
      exact free y hy x parts w hw
    · exact Bool.false_ne_true
  have kind : (match r.body with
      | .ack => true | .failed _ _ => true | .data _ => true | .line _ => true | .stolen _ => true | _ => false) = true := by
    obtain h | ⟨e, pk, h⟩ | ⟨v, h⟩ | ⟨l, h⟩ | ⟨e, h⟩ := ours <;> rw [h]
  show execAcknowledgement id s = _
  refine s.onMach_eq ?_
  rw [Mach.acknowledged, reply]
  dsimp only
  rw [asked]
  dsimp only
  rw [if_neg]
  · rfl
  · rw [Bool.or_eq_true, Bool.or_eq_true, not_or, not_or]
    exact ⟨⟨fun h => Bool.false_ne_true ((congrArg Bool.not kind).symm.trans h),
      fun h => Bool.false_ne_true (unawaited.symm.trans h)⟩, Bool.eq_false_iff.mp taken⟩

section
variable {m : Mach} {now x : Nat}

theorem Mach.ackSettled_fold {f : Nat} {g : Fold} (fold : q.body = .fold f)
    (found : m.folds.find? (fun g => g.id == f) = some g) : m.ackSettled now q r = m.foldDone g 0 0 none := by
  unfold Mach.ackSettled
  simp only [fold, found]

variable (plain : ∀ f, q.body ≠ .fold f)
include plain

theorem Mach.ackSettled_none (who : m.ctxOf r.core r.task = none) : m.ackSettled now q r = m.acknowledge now q r := by
  unfold Mach.ackSettled
  rw [who, Option.map_none]
  split
  · rename_i f fold
    exact absurd fold (plain f)
  · rename_i h _
    exact nomatch h
  · rfl

theorem Mach.ackSettled_other (who : m.ctxOf r.core r.task = some x)
    (other : ∀ pc a l t u, (m.ctx r.core x).wait ≠ .reply pc (.access q.id a l t u)) :
    m.ackSettled now q r = m.acknowledge now q r := by
  unfold Mach.ackSettled
  rw [who, Option.map_some]
  split
  · rename_i f fold
    exact absurd fold (plain f)
  · rename_i y pc i a lane todo undo h _
    obtain ⟨rfl, wait⟩ := Prod.mk.inj (Option.some.inj h)
    by_cases mine : i = q.id
    · subst mine
      exact absurd wait (other pc a lane todo undo)
    · exact if_neg mine
  · rfl

theorem Mach.ackSettled_access {pc a : Word} {lane : Option Nat} {todo : List (Nat × Word × Nat × Nat × Nat × Bool)}
    {undo : Undo} (who : m.ctxOf r.core r.task = some x)
    (waits : (m.ctx r.core x).wait = .reply pc (.access q.id a lane todo undo)) :
    m.ackSettled now q r = match r.body with
      | .failed e true =>
        (m.undone r.core x undo).raise r.core x { cause := e, bad := a, brsrc := BitVec.ofNat 64 (lane.getD 0) } pc
      | _ => (m.acknowledge now q r).scatterNext r.core x r.task pc undo todo := by
  unfold Mach.ackSettled
  rw [who, Option.map_some, waits]
  split
  · rename_i f fold
    exact absurd fold (plain f)
  · rename_i h _
    cases h
    exact if_pos rfl
  · rename_i other
    exact absurd rfl (other _ _ _ _ _ _ _)

end

end

end Sys2Proof.Machine

open Sys2Proof Sys2Proof.Machine

/-- Settles O49, by what a late result or an arrived reply is for. -/
theorem resultsAndReplies : Obligations.ResultsAndReplies := by
  unfold Obligations.ResultsAndReplies
  intro s id p r q m
  refine ⟨exec_lateResult_none, ?_, exec_replyGone, ?_⟩
  · intro found
    refine ⟨exec_lateResult_behind found, fun free => ?_⟩
    have runs := exec_lateResult found free
    constructor
    · intro v fl value
      rw [value] at runs
      exact runs
    · intro x parts
      rw [parts] at runs
      refine ⟨?_, ?_, ?_⟩
      · intro done
        rw [runs]
        dsimp only
        rw [done]
        rfl
      · intro w r left back
        rw [runs]
        dsimp only
        rw [if_neg (mt List.isEmpty_iff.mp left), back]
      · intro left nothing
        rw [runs]
        dsimp only
        rw [if_neg (mt List.isEmpty_iff.mp left), nothing]
        rfl
  · intro reply asked m1 who
    refine ⟨?_, ?_, ?_, ?_⟩
    · intro g token n status message
      have runs := exec_sendStatus reply asked status message
      constructor
      · intro behind
        rw [runs, if_pos behind]
        rfl
      · intro free
        rw [runs, if_neg (Bool.eq_false_iff.mp free)]
    · intro op h rt out n handled operation
      have runs := exec_handleReply reply asked handled operation
      constructor
      · intro fine waits
        rw [runs, fine, waits]
        rfl
      · intro ready
        replace runs : exec (.handleReply id) s = .next (s.on (m1.handleSettled s.now r op h out)) := by
          rw [runs, if_neg]
          rw [Bool.and_eq_true, Option.isNone_iff_eq_none]
          rintro ⟨fine, waits⟩
          exact ready.elim (fun bad => bad fine) fun free => Bool.false_ne_true (free.symm.trans waits)
        refine ⟨?_, ?_, ?_⟩
        · intro back
          rw [runs, Mach.handleSettled_back back]
        · intro accept
          rw [runs, accept]
          rfl
        · intro notGivenBack notUnref notUnfly notAccept
          rw [Mach.handleSettled_waiter notGivenBack notUnref notUnfly notAccept] at runs
          constructor
          · intro nobody
            rw [show m1.ctxOf r.core r.task = none from nobody] at runs
            exact runs
          · intro x pc k somebody waits
            rw [show m1.ctxOf r.core r.task = some x from somebody] at runs
            dsimp only at runs
            rw [waits] at runs
            dsimp only at runs
            constructor
            · intro goesOn
              rw [runs, if_neg]
              rw [cancels_iff]
              rintro ⟨cancel, fine, running⟩
              obtain h | h | h := goesOn
              · exact h cancel
              · exact h fine
              · exact Bool.false_ne_true (h.symm.trans running)
            · intro cancel fine running
              rw [runs, if_pos (cancels_iff.mpr ⟨cancel, fine, running⟩)]
    · intro n e x pc lane todo parked answer somebody waits
      exact exec_handleReply_parked reply answer somebody waits
    · intro ours taken free
      have runs := exec_acknowledgement reply asked ours taken free
      constructor
      · intro engine
        rw [if_pos engine] at runs
        exact runs
      · intro noEngine
        rw [if_neg (Bool.eq_false_iff.mp noEngine)] at runs
        refine ⟨?_, ?_, ?_⟩
        · intro store
          rw [if_pos store] at runs
          exact runs
        · intro noStore plain
          rw [if_neg (Bool.eq_false_iff.mp noStore)] at runs
          refine ⟨?_, ?_, ?_⟩
          · intro nobody
            rw [runs, Mach.ackSettled_none plain nobody]
          · intro x somebody other
            rw [runs, Mach.ackSettled_other plain somebody other]
          · intro x pc a lane todo undo somebody waits
            rw [Mach.ackSettled_access plain somebody waits] at runs
            constructor
            · intro e failed
              rw [failed] at runs
              exact runs
            · intro fine
              rw [runs]
              congr 2
              split
              · rename_i e failed
                exact absurd failed (fine e)
              · rfl
        · intro f g noStore fold found
          rw [if_neg (Bool.eq_false_iff.mp noStore), Mach.ackSettled_fold fold found] at runs
          exact runs

end

section
/-!
PROOF. A slice's directory (R31, R111, R114, R118 to R128): requests, stages, wakes, evictions and timeouts; O52.
-/
namespace Sys2Proof.Machine

section
variable {s : State} {src dst : Nat} {p : Packet}

/-! ### Requests at the slice -/

theorem exec_sliceIdle (none : s.m.next src dst false = none) :
    exec (.parkRequest src dst) s = .next s ∧ exec (.blockProbe src dst) s = .next s ∧
      exec (.unpin src dst) s = .next s ∧ exec (.waiterReport src dst) s = .next s ∧
      exec (.wakeArrival src dst) s = .next s := by
  refine ⟨(s.onMach_idle ?_ : execParkRequest src dst s = _), (s.onMach_idle ?_ : execBlockProbe src dst s = _),
    (s.onMach_idle ?_ : execUnpin src dst s = _), (s.onMach_idle ?_ : execWaiterReport src dst s = _),
    (s.onMach_idle ?_ : execWakeArrival src dst s = _)⟩ <;> rw [none]

variable (next : s.m.next src dst false = some p)
include next

theorem exec_parkRequest {h : Handle} {va : Word} {bs size pt : Nat} {tag : Option Nat}
    (body : p.body = .park h va bs size pt tag) : exec (.parkRequest src dst) s = .next (s.on (
      if (s.m.slice (dst - 1024)).retired then s.m.answer p (s.m.remapBody dst)
      else
        let x := s.m.fresh.park (dst - 1024) { h := h, core := p.core, va := va, since := (s.m.slice (dst - 1024)).cycles,
                                               tag := tag, order := s.m.nextId } bs size pt
        x.2.answer p (.parked x.1.1 x.1.2))) := by
  show execParkRequest src dst s = _
  refine s.onMach_eq ?_
  rw [next]
  dsimp only
  rw [body]

theorem exec_blockProbe {bs size pt : Nat} (body : p.body = .probe bs size pt) : exec (.blockProbe src dst) s =
    .next (s.on (s.m.answer p (if (s.m.slice (dst - 1024)).retired then s.m.remapBody dst
      else if s.m.outOfRange pt bs then .failed .partitionViolation false else .data (s.m.probe (dst - 1024) bs)))) := by
  show execBlockProbe src dst s = _
  refine s.onMach_eq ?_
  rw [next]
  dsimp only
  rw [body]
  dsimp only
  rw [apply_ite (s.m.answer p), apply_ite (s.m.answer p)]

theorem exec_unpin {bs : Nat} (body : p.body = .unpin bs) :
    exec (.unpin src dst) s = .next (s.on ((s.m.pinDown (dst - 1024) bs).answer p .ack)) := by
  show execUnpin src dst s = _
  refine s.onMach_eq ?_
  rw [next]
  dsimp only
  rw [body]

theorem exec_waiterReport {cause : Nat} {w : Waiter} (body : p.body = .report cause w) :
    exec (.waiterReport src dst) s = .next (s.on ((s.m.reported
      (if s.m.isFenced dst then (src - 1024) / 32 else dieOfCore dst) cause w).answer p .ack)) := by
  show execWaiterReport src dst s = _
  refine s.onMach_eq ?_
  rw [next]
  dsimp only
  rw [body]

theorem exec_wakeArrival {e : Entry} (body : p.body = .wake e) : exec (.wakeArrival src dst) s = .next (s.on (
    if s.m.isFenced dst then s.m.answer p (.failed .applyTargetFenced false)
    else if s.m.forwardGone p then s.m.answer p (.failed .forwardExpired false)
    else if (s.m.core dst).wakes.length < 64 then
      (s.m.modCore dst (fun r => { r with wakes := r.wakes ++ [e] })).answer p .ack
    else s.m)) := by
  show execWakeArrival src dst s = _
  refine s.onMach_eq ?_
  rw [next]
  dsimp only
  rw [body]

end

/-! ### Stages (R122, R124) -/

section
variable {s : State} {slice base part n : Nat} {lost : List Nat} {b : Block}

theorem exec_stage_none (none : s.m.chosen slice part = none) : exec (.stage slice part) s = .next s := by
  refine (s.onMach_idle ?_ : execStage slice part s = _)
  rw [none]

/-- Whether another slice holds a frame of a block. -/
def Mach.heldElsewhere (m : Mach) (b : Block) : Bool := m.blocks.any (fun y => y.base == b.base && y.slice != b.slice)

theorem exec_stage (chosen : s.m.chosen slice part = some b) : exec (.stage slice part) s = .next (s.on (
    if s.m.heldElsewhere b then s.m
    else match s.m.freeRun slice part b.size with
      | none => s.m
      | some u => s.m.modBlock slice b.base (fun b => { b with state := .staging, unit := some u }))) := by
  show execStage slice part s = _
  refine s.onMach_eq ?_
  rw [chosen]
  rfl

/-- An event of a block that stands no more does nothing. -/
theorem exec_blockGone (gone : s.m.findBlock slice base = none) :
    exec (.stageComplete slice base) s = .next s ∧ exec (.lingerExpiry slice base) s = .next s ∧
      exec (.writebackComplete slice base lost) s = .next s ∧ exec (.brumWaitTimeout slice base n) s = .next s := by
  refine ⟨(s.onMach_idle ?_ : execStageComplete slice base s = _), (s.onMach_idle ?_ : execLingerExpiry slice base s = _),
    (s.onMach_idle ?_ : execWritebackComplete slice base lost s = _),
    (s.onMach_idle ?_ : execBrumWaitTimeout slice base n s = _)⟩ <;> rw [gone]

/-- The machine in which the stage of a block has copied it and readied its wakes. -/
def Mach.stagedWakes (m : Mach) (slice base : Nat) (b : Block) : Mach :=
  ({ m with mem := Mem.copy m.mem base (frameKey base) b.size } : Mach).modSlice slice
    (fun x => { x with wakes := x.wakes ++ b.queue.map (fun w => (base, w)) })

/-- A block after its stage. -/
def Mach.staged (m : Mach) (slice base : Nat) (b : Block) : Mach :=
  let m1 := m.stagedWakes slice base b
  let next : BlockState :=
    if !b.queue.isEmpty then .resident
    else if b.leaving || m1.beyondPool b || m1.otherQueued slice b.part base then .evicting
    else .lingering
  m1.modBlock slice base (fun b => { b with state := next, pins := b.pins + b.queue.length, queue := [], dirty := [],
                                            lingerFrom := (m1.slice slice).cycles })

theorem exec_stageComplete (found : s.m.findBlock slice base = some b) : exec (.stageComplete slice base) s = .next (s.on (
    if b.state != .staging || s.m.blockHeld base b.size then s.m
    else if s.m.stageFails base b.size then
      ((s.m.stageMarked base b.size).dropBlock slice base).reportAll slice .brumFetchError b.queue
    else s.m.staged slice base b)) := by
  show execStageComplete slice base s = _
  refine s.onMach_eq ?_
  rw [found]
  rfl

/-! ### Wakes (R124) -/

theorem exec_wake_none (none : (s.m.slice slice).wakes = []) : exec (.wake slice) s = .next s := by
  refine (s.onMach_idle ?_ : execWake slice s = _)
  rw [none]

/-- The wake of a waiter of a block. -/
def Mach.sendWake (m : Mach) (slice base : Nat) (w : Waiter) : Mach :=
  let size := ((m.findBlock slice base).map (·.size)).getD 0x4000
  let e : Entry := { h := w.h, tag := w.tag, pin := some (slice, base), since := w.since, order := w.order,
                     args := { w1 := BitVec.ofNat 64 (w.va.toNat - w.va.toNat % size), w2 := w.va, w3 := BitVec.ofNat 64 size } }
  m.inject { id := 0, src := sliceEnd slice, dst := w.core, body := .wake e, core := w.core }

theorem exec_wake {bs : Nat} {w : Waiter} {rest : List (Nat × Waiter)} (first : (s.m.slice slice).wakes = (bs, w) :: rest) :
    exec (.wake slice) s = .next (s.on (
      let m1 := s.m.modSlice slice (fun x => { x with wakes := rest })
      if m1.isFenced w.core then (m1.pinDown slice bs).report slice .applyTargetFenced w else m1.sendWake slice bs w)) := by
  show execWake slice s = _
  refine s.onMach_eq ?_
  rw [first]
  rfl

/-! ### Evictions and timeouts (R114, R126, R128) -/

theorem exec_lingerExpiry (found : s.m.findBlock slice base = some b) : exec (.lingerExpiry slice base) s = .next (s.on (
    if b.state = .lingering ∧ b.lingerFrom + brLinger (s.m.sliceBrcfg slice b.part) ≤ (s.m.slice slice).cycles then
      s.m.modBlock slice base (fun b => { b with state := .evicting })
    else s.m)) := by
  show execLingerExpiry slice base s = _
  refine s.onMach_eq ?_
  rw [found]
  simp only [Bool.and_eq_true, beq_iff_eq, decide_eq_true_eq]
  rfl

/-- The dirty lines of a block that its writeback loses. -/
def Mach.linesGone (m : Mach) (b : Block) (lost : List Nat) : List Nat :=
  b.dirty.filter (fun l => lost.contains l || m.peerGone (128 * l))

/-- The lines of a block that can be written are. -/
def Mach.writtenBack (m : Mach) (b : Block) (lost : List Nat) : Mach :=
  m.writeLines (b.dirty.filter (fun l => !(m.linesGone b lost).contains l))

theorem exec_writebackComplete (found : s.m.findBlock slice base = some b) :
    exec (.writebackComplete slice base lost) s = .next (s.on (
      if b.state == .evicting && !s.m.stackHeld base then
        let gone := s.m.linesGone b lost
        let m := s.m.writtenBack b lost
        (if gone.isEmpty then m else
          ({ m with poisoned := (gone.filter (fun l => regionType (128 * l) == 0)).foldl insertNat m.poisoned } : Mach).post
            (slice / 32) b.part { cause := Cause.brumWritebackError.code, bad := some (BitVec.ofNat 64 base),
                                  aux0 := BitVec.ofNat 64 gone.length }).freeBlock b
      else s.m)) := by
  show execWritebackComplete slice base lost s = _
  refine s.onMach_eq ?_
  rw [found]
  rfl

theorem exec_brumWaitTimeout_none (found : s.m.findBlock slice base = some b) (gone : b.queue[n]? = none) :
    exec (.brumWaitTimeout slice base n) s = .next s := by
  refine (s.onMach_idle ?_ : execBrumWaitTimeout slice base n s = _)
  rw [found]
  dsimp only
  rw [gone]

/-- Whether a waiter of a block is reported (R128, R129). -/
def Mach.waiterDue (m : Mach) (slice : Nat) (b : Block) (w : Waiter) : Prop :=
  (b.state = .queued ∨ b.state = .evicting) ∧ brWaitMax (m.sliceBrcfg slice b.part) ≠ 0 ∧
    (m.part b.part).state ≠ .saved ∧
    brWaitMax (m.sliceBrcfg slice b.part) * 65536 ≤ (m.slice slice).cycles - w.since

/-- A waiter taken off its queue and reported. -/
def Mach.waitEnded (m : Mach) (slice base n : Nat) (b : Block) (w : Waiter) : Mach :=
  let m := m.modBlock slice base (fun b => { b with queue := dropNth b.queue n })
  (if b.state == .queued && b.queue.length == 1 then m.dropBlock slice base else m).report slice .brumWaitTimeout w

theorem exec_brumWaitTimeout {w : Waiter} (found : s.m.findBlock slice base = some b) (waits : b.queue[n]? = some w) :
    (s.m.waiterDue slice b w → exec (.brumWaitTimeout slice base n) s = .next (s.on (s.m.waitEnded slice base n b w))) ∧
      (¬ s.m.waiterDue slice b w → exec (.brumWaitTimeout slice base n) s = .next s) := by
  have guard : ((b.state == .queued || b.state == .evicting) && brWaitMax (s.m.sliceBrcfg slice b.part) != 0 &&
      (s.m.part b.part).state != .saved &&
      decide (brWaitMax (s.m.sliceBrcfg slice b.part) * 65536 ≤ (s.m.slice slice).cycles - w.since)) = true ↔
      s.m.waiterDue slice b w := by
    simp only [Bool.and_eq_true, Bool.or_eq_true, beq_iff_eq, bne_iff_ne, decide_eq_true_eq, and_assoc, Mach.waiterDue]
  constructor
  · intro due
    show execBrumWaitTimeout slice base n s = _
    refine s.onMach_eq ?_
    rw [found]
    dsimp only
    rw [waits]
    exact if_pos (guard.mpr due)
  · intro early
    refine (s.onMach_idle ?_ : execBrumWaitTimeout slice base n s = _)
    rw [found]
    dsimp only
    rw [waits]
    exact if_neg (mt guard.mp early)

end

/-! ### Values of scope D (R31) -/

theorem exec_scopeDValueTaken (s : State) (unit part : Nat) : exec (.scopeDValueTaken unit part) s = .next (s.on (
    if unit < 128 then s.m.takeBrcfg unit part
    else if unit < 132 then
      s.m.modDie (unit - 128) (fun x => { x with e2e := Table.set x.e2e part (s.m.diePart (unit - 128) part).e2e })
    else s.m)) :=
  (s.onMach_eq rfl : execScopeDValueTaken unit part s = _)

/-- A slice that has taken its die's BRCFG has it. -/
theorem Mach.sliceBrcfg_takeBrcfg (m : Mach) (slice p : Nat) :
    (m.takeBrcfg slice p).sliceBrcfg slice p = (m.diePart (slice / 32) p).brcfg := by
  have slices : (m.takeBrcfg slice p).slice slice = (m.modSlice slice (fun x => { x with
      brcfg := Table.set x.brcfg p (m.diePart (slice / 32) p).brcfg,
      e2e := Table.set x.e2e p (m.diePart (slice / 32) p).e2e })).slice slice := rfl
  rw [Mach.sliceBrcfg, slices, Mach.slice_modSlice_self]
  exact Table.get_set_self _ _ _ _

end Sys2Proof.Machine

open Sys2Proof Sys2Proof.Machine

/-- Settles O52: each event of a slice is its guard and its action. -/
theorem brumationEvents : Obligations.BrumationEvents := by
  unfold Obligations.BrumationEvents
  refine ⟨?requests, ?blocks, ?values⟩
  case requests =>
    intro s src dst p m sl
    refine ⟨exec_sliceIdle, fun next => ⟨?_, ?_, ?_, ?_, ?_⟩⟩
    · intro h va bs size pt tag body
      have runs := exec_parkRequest next body
      constructor
      · intro retired
        rw [runs, if_pos retired]
      · intro serving x
        rw [runs, if_neg (Bool.eq_false_iff.mp serving)]
    · intro bs size pt body
      exact exec_blockProbe next body
    · intro bs body
      exact exec_unpin next body
    · intro cause w body
      exact exec_waiterReport next body
    · intro e body refused
      have runs := exec_wakeArrival next body
      refine ⟨?_, ?_, ?_⟩
      · intro fenced
        rw [if_pos fenced] at runs
        exact runs
      · intro present gone
        rw [if_neg (Bool.eq_false_iff.mp present), if_pos gone] at runs
        exact runs
      · intro present stands
        rw [if_neg (Bool.eq_false_iff.mp present), if_neg (Bool.eq_false_iff.mp stands)] at runs
        constructor
        · intro room
          rw [runs, if_pos room]
        · intro full
          rw [runs, if_neg (Nat.not_lt.mpr full)]
          rfl
  case blocks =>
    intro s slice base part n lost b m here elsewhere
    refine ⟨exec_stage_none, ?_, ?_, exec_blockGone, ?_, exec_wake_none, ?_, rfl⟩
    · intro chosen stopped
      rw [exec_stage chosen]
      rcases stopped with h | h
      · rw [if_pos (show s.m.heldElsewhere b = true from h)]
        rfl
      · rw [show s.m.freeRun slice part b.size = none from h]
        exact congrArg (fun m => Host.Outcome.next (s.on m)) (ite_self s.m)
    · intro u chosen free run
      rw [exec_stage chosen, if_neg (Bool.eq_false_iff.mp (show s.m.heldElsewhere b = false from free))]
      rw [show s.m.freeRun slice part b.size = some u from run]
    · intro found
      have completes := exec_stageComplete (s := s) found
      have expires := exec_lingerExpiry (s := s) found
      have writes := exec_writebackComplete (s := s) (lost := lost) found
      refine ⟨?_, ?_, ⟨?_, ?_⟩, ?_, ?_, fun gone => exec_brumWaitTimeout_none found gone, ?_⟩
      · intro stopped
        rw [completes, if_pos]
        · rfl
        · rw [Bool.or_eq_true, bne_iff_ne]
          exact stopped
      · intro staging free
        have goes : ¬ (b.state != .staging || s.m.blockHeld base b.size) = true := by
          rw [show s.m.blockHeld base b.size = false from free, staging]
          decide
        rw [if_neg goes] at completes
        constructor
        · intro fails
          rw [completes, if_pos fails]
        · intro reads m1 nextSt
          have state : nextSt = if !b.queue.isEmpty then .resident
              else if b.leaving || m1.beyondPool b || m1.otherQueued slice b.part base then .evicting
              else .lingering := by
            cases h : b.queue with
            | nil => exact if_neg (not_not.mpr h)
            | cons w ws => exact if_pos (h ▸ List.cons_ne_nil w ws)
          rw [completes, if_neg (Bool.eq_false_iff.mp reads), state]
          rfl
      · intro due
        rw [expires, if_pos due]
      · intro early
        rw [expires, if_neg early]
        rfl
      · intro stopped
        rw [writes, if_neg]
        · rfl
        · rw [Bool.and_eq_true, beq_iff_eq, Bool.not_eq_true']
          rintro ⟨evicting, free⟩
          exact stopped.elim (fun h => h evicting) fun h => Bool.false_ne_true (free.symm.trans h)
      · intro evicting free gone m1
        have goes : (b.state == .evicting && !s.m.stackHeld base) = true := by
          rw [show s.m.stackHeld base = false from free, evicting]
          rfl
        rw [if_pos goes] at writes
        constructor
        · intro kept
          rw [writes]
          dsimp only
          rw [show s.m.linesGone b lost = [] from kept]
          rfl
        · intro some m2
          rw [writes]
          dsimp only
          rw [if_neg (mt List.isEmpty_iff.mp (show s.m.linesGone b lost ≠ [] from some))]
          rfl
      · intro w waits max due m1
        obtain ⟨reports, early⟩ := exec_brumWaitTimeout found waits
        refine ⟨early, ?_, ?_⟩
        · intro isDue queued last
          rw [reports isDue, Mach.waitEnded, queued, last]
          rfl
        · intro isDue kept
          rw [reports isDue, Mach.waitEnded]
          rw [if_neg]
          rw [Bool.and_eq_true, beq_iff_eq, beq_iff_eq]
          rintro ⟨queued, last⟩
          exact kept.elim (fun h => absurd (h.symm.trans queued) (by decide)) fun h => h last
    · intro bs w rest first m1 size
      have wakes := exec_wake (s := s) first
      constructor
      · intro fenced
        rw [wakes]
        exact congrArg (fun m => Host.Outcome.next (s.on m)) (if_pos fenced)
      · intro present args e
        rw [wakes]
        exact congrArg (fun m => Host.Outcome.next (s.on m)) (if_neg (Bool.eq_false_iff.mp present))
  case values =>
    intro s unit part m
    refine ⟨?_, ?_, ?_⟩
    · intro atSlice
      refine ⟨_, (exec_scopeDValueTaken s unit part).trans ?_, rfl, m.sliceBrcfg_takeBrcfg unit part, rfl⟩
      rw [if_pos atSlice]
    · intro low high
      rw [exec_scopeDValueTaken, if_neg (Nat.not_lt.mpr low), if_pos high]
    · intro beyond
      rw [exec_scopeDValueTaken, if_neg (by omega), if_neg (by omega)]
      rfl

end

section
/-!
PROOF. Launch queues (R242, R244) and the watchdog's rungs (R246): O46.
-/
namespace Sys2Proof.Machine

/-! ### Doorbells (R242) -/

/-- Both doorbell instructions are the write of a value. -/
theorem exec_doorbell {s : State} {p q : Nat} {v w : Word} {i : Instr}
    (form : (i, w) ∈ [((.launchDoorbell p q v : Instr), v), (.doorbellClear p q v, v ||| 0x100000000)]) :
    exec i s = .next (s.on (s.m.doorbell p q w)) := by
  simp only [List.mem_cons, Prod.mk.injEq, List.not_mem_nil, or_false] at form
  obtain ⟨rfl, rfl⟩ | ⟨rfl, rfl⟩ := form
  · exact (s.onMach_eq rfl : execLaunchDoorbell p q _ s = _)
  · exact (s.onMach_eq rfl : execDoorbellClear p q _ s = _)

section
variable {m : Mach} {p q : Nat} {v : Word}

/-- A doorbell write that its partition or its descriptor's line holds back. -/
theorem Mach.doorbell_held (held : 64 ≤ q ∨ (m.part p).state = .absent ∨ (m.part p).state = .resetting ∨
    m.launchHeld p (m.descAddr p q) = true) : m.doorbell p q v = m := by
  rw [Mach.doorbell]
  refine if_pos ?_
  simp only [Bool.or_eq_true, decide_eq_true_eq, beq_iff_eq, or_assoc]
  exact held

/-- Otherwise the descriptor is read. -/
theorem Mach.doorbell_read (queue : q < 64) (present : (m.part p).state ≠ .absent)
    (steady : (m.part p).state ≠ .resetting) (free : m.launchHeld p (m.descAddr p q) = false) :
    m.doorbell p q v = match (m.launcherMap p q (m.descAddr p q)).launchRead p (m.descAddr p q) 64 with
      | (.error e, m) => m.descFailed p q e
      | (.ok d, m1) =>
        let x := m1.queue p q
        if doorbellOk v d x.head then
          let clear := v.getLsbD 32
          let st := doorbellState x.state (d.testBit 72) clear
          let m2 := m1.modQueue p q (fun x => { x with
            base := BitVec.ofNat 64 (nbits d 0 64), log2n := nbits d 64 5, t1 := nbits d 192 20, t2 := nbits d 212 20,
            t3 := nbits d 232 20, tail := field v 0 32, state := st,
            rungs := if clear then [] else x.rungs, killSince := if clear then none else x.killSince,
            killed := if clear then [] else x.killed })
          if st = x.state then m2 else m2.publish p q
        else (m1.setState p q .error).launchEntry p q .reservedField (m.descAddr p q) none := by
  rw [Mach.doorbell]
  refine if_neg ?_
  simp only [Bool.or_eq_true, decide_eq_true_eq, beq_iff_eq, not_or]
  exact ⟨⟨⟨Nat.not_le.mpr queue, present⟩, steady⟩, Bool.eq_false_iff.mp free⟩

end

/-! ### Records (R244) -/

section
variable {s : State} {p q : Nat}

theorem exec_launchRecord : exec (.launchRecord p q) s = .next (s.on (
    if s.m.queueReady p q && s.m.nextQueue (q % 4) == some (64 * p + q) then
      ((s.m.modDie (q % 4) (fun d => { d with served := 64 * p + q })).takeRecord p q).getD s.m
    else s.m)) :=
  (s.onMach_eq rfl : execLaunchRecord p q s = _)

/-- The states of a queue in which its record's targets are tried again. -/
theorem launchMay_iff (st : QState) : (match st with
    | .running => true | .preempted => true | .disabled => true | .killed => false | .fenced => false | .error => false) =
      true ↔ st = .running ∨ st = .preempted ∨ st = .disabled := by
  cases st <;> decide

theorem exec_launchTargetRetry :
    let may := (s.m.part p).state = .running ∧ ((s.m.queue p q).state = .running ∨ (s.m.queue p q).state = .preempted ∨
      (s.m.queue p q).state = .disabled) ∧ (s.m.queue p q).todo ≠ []
    (may → exec (.launchTargetRetry p q) s = .next (s.on (s.m.launchTargets p q (s.m.queue p q).todo))) ∧
      (¬ may → exec (.launchTargetRetry p q) s = .next s) := by
  intro may
  have guard : ((s.m.part p).state == .running && (match (s.m.queue p q).state with
      | .running => true | .preempted => true | .disabled => true | .killed => false | .fenced => false | .error => false) &&
      !(s.m.queue p q).todo.isEmpty) = true ↔ may := by
    rw [Bool.and_eq_true, Bool.and_eq_true, launchMay_iff, beq_iff_eq, Bool.not_eq_true', ← Bool.not_eq_true,
      List.isEmpty_iff, and_assoc]
  constructor
  · intro yes
    exact (s.onMach_eq (if_pos (guard.mpr yes)) : execLaunchTargetRetry p q s = _)
  · intro no
    exact (s.onMach_idle (if_neg (mt guard.mp no)) : execLaunchTargetRetry p q s = _)

/-! ### The watchdog (R246) -/

theorem exec_watchdogPreempt : exec (.watchdogPreempt p q) s = .next (s.on (
    if s.m.rungDue p q 0 (s.m.queue p q).t1 then
      ((s.m.modQueue p q (fun x => { x with rungs := 0 :: x.rungs })).setState p q .preempted).rungEntry p q .watchdogPreempt
        (((s.m.oldestTag p q).map (·.2)).getD 0) false
    else s.m)) :=
  (s.onMach_eq rfl : execWatchdogPreempt p q s = _)

/-- A queue and its tasks killed by the watchdog. -/
def Mach.watchdogKilled (m : Mach) (p q : Nat) : Mach :=
  let cs := m.tagCores p q
  let m1 := (m.modQueue p q (fun x => { x with rungs := 1 :: x.rungs, killSince := (m.oldestTag p q).map (·.1),
                                                killed := cs.flatMap (fun c => m.tagTasks c q) })).setState p q .killed
  let m2 := ((m1.coresOf p).foldl (fun m c => m.killTag c q) m1).dropParked p q
  cs.foldl (fun m c => m.rungEntry p q .watchdogKill c true) m2

theorem exec_watchdogKill : exec (.watchdogKill p q) s = .next (s.on (
    if s.m.rungDue p q 1 (s.m.queue p q).t2 then s.m.watchdogKilled p q else s.m)) :=
  (s.onMach_eq rfl : execWatchdogKill p q s = _)

/-- A queue fenced by the watchdog, with the cores whose kill is not complete. -/
def Mach.watchdogFenced (m : Mach) (p q : Nat) : Mach :=
  let m1 := m.modQueue p q (fun x => { x with rungs := 2 :: x.rungs })
  ((m1.killOpen (m.queue p q).killed).foldl (fun m c => (m.fenceCore c).rungEntry p q .coreFenced c true) m1).setState p q
    .fenced

theorem exec_watchdogFence {t : Nat} (killed : (s.m.queue p q).killSince = some t) :
    let x := s.m.queue p q
    let due := x.t3 ≠ 0 ∧ 2 ∉ x.rungs ∧ x.state = .killed ∧ t + 10000 * x.t3 ≤ s.m.now
    (due → exec (.watchdogFence p q) s = .next (s.on (s.m.watchdogFenced p q))) ∧
      (¬ due → exec (.watchdogFence p q) s = .next s) := by
  intro x due
  have guard : (x.t3 ≠ 0 && !x.rungs.contains 2 && x.state == .killed && decide (t + 10000 * x.t3 ≤ s.m.now)) = true ↔
      due := by
    simp only [Bool.and_eq_true, decide_eq_true_eq, Bool.not_eq_true', beq_iff_eq, ← Bool.not_eq_true,
      List.contains_iff_mem, and_assoc, due]
  constructor
  · intro yes
    show execWatchdogFence p q s = _
    refine s.onMach_eq ?_
    dsimp only
    rw [killed]
    exact if_pos (guard.mpr yes)
  · intro no
    refine (s.onMach_idle ?_ : execWatchdogFence p q s = _)
    dsimp only
    rw [killed]
    exact if_neg (mt guard.mp no)

theorem exec_watchdogFence_none (alive : (s.m.queue p q).killSince = none) :
    exec (.watchdogFence p q) s = .next s := by
  refine (s.onMach_idle ?_ : execWatchdogFence p q s = _)
  dsimp only
  rw [alive]

end

end Sys2Proof.Machine

open Sys2Proof Sys2Proof.Machine

/-- Settles O46: each event of a launch queue is its guard and its action. -/
theorem launchAndWatchdog : Obligations.LaunchAndWatchdog := by
  unfold Obligations.LaunchAndWatchdog
  refine ⟨?launch, ?watchdog⟩
  case launch =>
    intro s p q v w i m x a st
    refine ⟨?_, ?_, exec_launchTargetRetry⟩
    · intro form
      have runs := exec_doorbell (s := s) form
      constructor
      · intro held
        rw [runs, Mach.doorbell_held held]
        rfl
      · intro queue present steady free
        rw [Mach.doorbell_read queue present steady free] at runs
        constructor
        · intro e m1 failed
          rw [show (s.m.launcherMap p q (s.m.descAddr p q)).launchRead p (s.m.descAddr p q) 64 = (.error e, m1) from failed]
            at runs
          exact runs
        · intro d m1 read y clear st1 m2
          rw [show (s.m.launcherMap p q (s.m.descAddr p q)).launchRead p (s.m.descAddr p q) 64 = (.ok d, m1) from read] at runs
          constructor
          · intro refused
            rw [runs]
            dsimp only
            rw [if_neg (Bool.eq_false_iff.mp refused)]
          · intro passes
            rw [runs]
            dsimp only
            rw [if_pos passes]
    · intro m1 next
      have guard : (s.m.queueReady p q && s.m.nextQueue (q % 4) == some (64 * p + q)) = true ↔ next := by
        rw [Bool.and_eq_true, beq_iff_eq]
      have runs := exec_launchRecord (s := s) (p := p) (q := q)
      constructor
      · intro yes
        rw [if_pos (guard.mpr yes)] at runs
        constructor
        · intro m2 taken
          rw [show (s.m.modDie (q % 4) (fun d => { d with served := 64 * p + q })).takeRecord p q = some m2 from taken] at runs
          exact runs
        · intro held
          rw [show (s.m.modDie (q % 4) (fun d => { d with served := 64 * p + q })).takeRecord p q = none from held] at runs
          exact runs
      · intro no
        rw [if_neg (mt guard.mp no)] at runs
        exact runs
  case watchdog =>
    intro s p q m x
    refine ⟨?_, ?_, ?_, ?_, ?_, exec_watchdogFence_none⟩
    · intro due
      rw [exec_watchdogPreempt, if_pos due]
    · intro early
      rw [exec_watchdogPreempt, if_neg (Bool.eq_false_iff.mp early)]
      rfl
    · intro due
      rw [exec_watchdogKill, if_pos due]
      rfl
    · intro early
      rw [exec_watchdogKill, if_neg (Bool.eq_false_iff.mp early)]
      rfl
    · intro t killed
      exact exec_watchdogFence killed

end

section
/-!
PROOF. Sequences: the command reached (R231, R330), copies (R439, R440), ESIG (R371) and the end record (R229); O44.
-/
namespace Sys2Proof.Machine

/-! ### The command that a sequence has reached -/

/-- The first sequence of a sequencer has reached a command of an opcode, with its record. -/
def Mach.reached (m : Mach) (mtx : Bool) (u : Nat) (q : Seq) (r op : Nat) : Prop :=
  m.headSeq mtx u = some q ∧ cmdOp r = op ∧
    (q.cmd = some r ∨ q.cmd = none ∧ m.seqQuiet q.id = true ∧ m.cmdOf mtx q = .ok r)

/-- A sequencer has no command to perform now. -/
def Mach.noCommand (m : Mach) (mtx : Bool) (u : Nat) (q : Seq) : Prop :=
  m.headSeq mtx u = none ∨ m.headSeq mtx u = some q ∧ q.cmd = none ∧ m.seqQuiet q.id = false

section
variable {m : Mach} {mtx : Bool} {u r op : Nat} {q : Seq}

theorem Mach.onCommand_reached (h : m.reached mtx u q r op) (f : Seq → Nat → Mach) : m.onCommand mtx u op f = f q r := by
  obtain ⟨head, opcode, started | ⟨fresh, quiet, record⟩⟩ := h
  · rw [Mach.onCommand, head]
    dsimp only
    rw [started]
    exact if_pos opcode
  · rw [Mach.onCommand, head]
    dsimp only
    rw [fresh, quiet]
    dsimp only
    rw [record]
    exact if_pos opcode

theorem Mach.onCommand_idle (h : m.noCommand mtx u q) (f : Seq → Nat → Mach) : m.onCommand mtx u op f = m := by
  obtain none | ⟨head, fresh, busy⟩ := h
  · rw [Mach.onCommand, none]
  · rw [Mach.onCommand, head]
    dsimp only
    rw [fresh, busy]
    rfl

end

/-! ### Copies (R439, R440) -/

section
variable {s : State} {c n op r : Nat} {q : Seq} {i : Instr}

/-- Both copy instructions perform the copy command of their opcode. -/
theorem exec_copy (form : (op, i) ∈ [(1, (.xcpy c n : Instr)), (2, .xgath c n)]) :
    exec i s = .next (s.on (s.m.copyCommand c op n)) := by
  simp only [List.mem_cons, Prod.mk.injEq, List.not_mem_nil, or_false] at form
  obtain ⟨rfl, rfl⟩ | ⟨rfl, rfl⟩ := form
  · exact (s.onMach_eq rfl : execXcpy c n s = _)
  · exact (s.onMach_eq rfl : execXgath c n s = _)

/-- A copy command that has been reached starts, or goes on. -/
theorem Mach.copyCommand_reached {m : Mach} (h : m.reached false c q r op) :
    m.copyCommand c op n = if q.started then m.copyOn c n q (copyPlan r (recOf (q.recs.take 6)) (recOf (q.recs.drop 6)))
      else match m.copyStart q r with
        | .error h => m.haltCmd false c q h
        | .ok none => m.cmdDone false c
        | .ok (some p) =>
          let q := { q with started := true, cmd := some r, recs := shapeWords p.src ++ shapeWords p.dst }
          (m.modHead false c (fun _ => q)).copyOn c n q p := by
  rw [Mach.copyCommand, Mach.onCommand_reached h] <;> rfl

/-- What a copy command under way runs for an agent. -/
def Mach.copyGoes (m : Mach) (n : Nat) (q : Seq) (p : Copy) (w : Agent) : Run :=
  if p.blocks then m.copyBlocks w p q.rm q.sat q.done q.gen q.index else m.copyRuns w p q.rm q.sat n q.done q.gen q.index

/-- The machine after a run of a copy command, its progress noted. -/
def Run.noted (run : Run) (c : Nat) : Mach :=
  run.m.modHead false c (fun x => { x with done := run.done, gen := run.gen, index := run.index,
                                           reads := x.reads.filter (fun r => decide (run.done ≤ r.elem)) })

/-- A copy with every element done ends once its writes are performed. -/
theorem Mach.copyOn_done {m : Mach} {p : Copy} (done : p.count ≤ q.done) :
    m.copyOn c n q p = if m.seqQuiet q.id then m.cmdDone false c else m :=
  if_pos done

/-- A copy with elements left moves what it can. -/
theorem Mach.copyOn_left {m : Mach} {p : Copy} {run : Run} (left : q.done < p.count) (runs : run = m.copyGoes n q p q.agent) :
    m.copyOn c n q p = match run.halt with
      | some (.stop e bad found) =>
        if (run.noted c).seqQuiet q.id then (run.noted c).stopSeq false c q e bad found (recIndices p.dst run.done)
        else run.noted c
      | some (.ask a) => (run.noted c).sendAsk false c q a
      | some .wait =>
        match (m.copyGoes n q p q.assumed.agent).halt.bind Halt.read with
        | some a => (run.noted c).sendAsk false c q a
        | none => run.noted c
      | _ => run.noted c := by
  subst runs
  exact if_neg (Nat.not_le.mpr left)

/-! ### The end of a sequence (R229) -/

theorem exec_sequenceEnd {mtx : Bool} : exec (.sequenceEnd mtx c) s = .next (s.on (s.m.onCommand mtx c 0 (fun q _ =>
    if s.m.scratchBad.contains q.join then
      s.m.haltCmd mtx c q (.stop .engineDataError (some (lwOf q.join)) Cause.scratchUncorrectable.code)
    else (s.m.setSeqs mtx c ((s.m.unitSeqs mtx c).drop 1)).joinArrive q))) :=
  (s.onMach_eq rfl : execSequenceEnd mtx c s = _)

/-! ### ESIG (R371) -/

/-- What follows a step of an ESIG: a cancelled matrix sequence ends with it. -/
def Mach.signalled (m : Mach) (mtx : Bool) (c : Nat) : Mach := if mtx then m.endCancelled c else m

/-- A step of an ESIG made. -/
def Mach.signalStep (m : Mach) (mtx : Bool) (c r k : Nat) : Mach :=
  (m.begun mtx c r).modHead mtx c (fun x => { x with done := k })

/-- The arrival of an ESIG. -/
def Mach.signalArrival (m : Mach) (q : Seq) (r : Nat) : Eng Mach :=
  if r.testBit 8 then m.signalJoin q.agent (BitVec.ofNat 64 (r / 2 ^ 64)) else .ok m

/-- The application of an ESIG. -/
def Mach.signalApplied (m : Mach) (q : Seq) (r : Nat) : Option Mach :=
  m.signalApply q (BitVec.ofNat 32 (cmdWord r 4)) (scratchKey q.core (q.list.getD 0))

/-- The steps of an ESIG: the arrival, the application, and the end. -/
def Mach.signalGoes (m : Mach) (mtx : Bool) (c : Nat) (q : Seq) (r : Nat) : Mach :=
  if q.done = 0 then
    match m.signalArrival q r with
    | .error h => m.haltCmd mtx c q h
    | .ok m => m.signalStep mtx c r 1
  else if !m.seqQuiet q.id then m
  else if q.done = 1 && r.testBit 9 then ((m.signalApplied q r).map (fun m => m.signalStep mtx c r 2)).getD m
  else m.cmdDone mtx c

theorem exec_esig {mtx : Bool} : exec (.esig mtx c) s =
    .next (s.on ((s.m.onCommand mtx c 0x20 (s.m.signalGoes mtx c)).signalled mtx c)) := by
  show execEsig mtx c s = _
  refine s.onMach_eq ?_
  cases mtx <;> rfl

end

end Sys2Proof.Machine

open Sys2Proof Sys2Proof.Machine

/-- Settles O44, by the command that the first sequence has reached and how far it is. -/
theorem copyAndSignal : Obligations.CopyAndSignal := by
  unfold Obligations.CopyAndSignal
  intro s c n op mtx q r p i m reached
  have signals := exec_esig (s := s) (c := c) (mtx := mtx)
  refine ⟨?copy, ?under, ?ends, ?esig, ?idle⟩
  case copy =>
    intro form h
    have runs := exec_copy (s := s) form
    rw [Mach.copyCommand_reached (show s.m.reached false c q r op from h)] at runs
    constructor
    · intro fresh
      rw [fresh] at runs
      dsimp only at runs
      refine ⟨?_, ?_, ?_⟩
      · intro halt refused
        rw [show s.m.copyStart q r = .error halt from refused] at runs
        exact runs
      · intro empty
        rw [show s.m.copyStart q r = .ok none from empty] at runs
        exact runs
      · intro starts q1
        rw [show s.m.copyStart q r = .ok (some p) from starts] at runs
        exact runs
    · intro started
      rw [started] at runs
      exact runs
  case under =>
    intro m run runs
    refine ⟨?_, ?_, ?_⟩
    · intro done quiet
      rw [Mach.copyOn_done done, if_pos quiet]
    · intro done busy
      rw [Mach.copyOn_done done, if_neg (Bool.eq_false_iff.mp busy)]
    · intro left isRun m1
      have goes := Mach.copyOn_left (m := m) (c := c) left isRun
      refine ⟨?_, ?_, ?_, ?_⟩
      · intro e bad found stop
        rw [stop] at goes
        constructor
        · intro quiet
          exact goes.trans (if_pos quiet)
        · intro busy
          exact goes.trans (if_neg (Bool.eq_false_iff.mp busy))
      · intro a ask
        rw [ask] at goes
        exact goes
      · intro wait
        rw [wait] at goes
        constructor
        · intro a asks
          rw [show (m.copyGoes n q p q.assumed.agent).halt.bind Halt.read = some a from asks] at goes
          exact goes
        · intro waits
          rw [show (m.copyGoes n q p q.assumed.agent).halt.bind Halt.read = none from waits] at goes
          exact goes
      · intro none
        rw [none] at goes
        exact goes
  case ends =>
    intro h
    have runs := exec_sequenceEnd (s := s) (c := c) (mtx := mtx)
    rw [Mach.onCommand_reached (show s.m.reached mtx c q r 0 from h)] at runs
    constructor
    · intro good
      rw [runs, if_neg (mt List.contains_iff_mem.mp good)]
    · intro bad
      rw [runs, if_pos (List.contains_iff_mem.mpr bad)]
      rfl
  case esig =>
    intro h out stepped join app
    rw [Mach.onCommand_reached (show s.m.reached mtx c q r 0x20 from h), Mach.signalGoes] at signals
    refine ⟨?_, ?_, ?_, ?_⟩
    · intro start
      rw [start] at signals
      constructor
      · intro halt failed
        rw [show s.m.signalArrival q r = .error halt from failed] at signals
        exact signals
      · intro m1 arrived
        rw [show s.m.signalArrival q r = .ok m1 from arrived] at signals
        exact signals
    · intro begun busy
      rw [if_neg (Nat.pos_iff_ne_zero.mp begun), show s.m.seqQuiet q.id = false from busy] at signals
      exact signals
    · intro one quiet applies
      rw [one, show s.m.seqQuiet q.id = true from quiet, applies] at signals
      constructor
      · intro m1 applied
        rw [show s.m.signalApplied q r = some m1 from applied] at signals
        exact signals
      · intro waits
        rw [show s.m.signalApplied q r = none from waits] at signals
        exact signals
    · intro begun quiet last
      have rest : ¬ (decide (q.done = 1) && r.testBit 9) = true := by
        rw [Bool.and_eq_true, decide_eq_true_eq]
        rintro ⟨one, bit⟩
        exact last.elim (fun h => Bool.false_ne_true (h.symm.trans bit)) fun h => by omega
      rw [if_neg (Nat.pos_iff_ne_zero.mp begun), show s.m.seqQuiet q.id = true from quiet, if_neg (by decide),
        if_neg rest] at signals
      exact signals
  case idle =>
    intro idle
    refine ⟨?_, ?_, ?_⟩
    · rw [exec_sequenceEnd, Mach.onCommand_idle (show s.m.noCommand mtx c q from idle)]
      rfl
    · rw [signals, Mach.onCommand_idle (show s.m.noCommand mtx c q from idle)]
      rfl
    · intro copies
      subst copies
      have stays (op : Nat) : s.m.copyCommand c op n = s.m := Mach.onCommand_idle (show s.m.noCommand false c q from idle) _
      constructor
      · rw [exec_copy (c := c) (n := n) (op := 1) (by simp), stays]
        rfl
      · rw [exec_copy (c := c) (n := n) (op := 2) (by simp), stays]
        rfl

end

section
/-!
PROOF. Matrix commands (R231, R233, R239), the gating of sub-arrays (R265) and the lease (R232, R233): O45.
-/
namespace Sys2Proof.Machine

/-! ### Matrix commands -/

/-- The effect of MZERO: its tile is cleared. -/
def Mach.mzero (cl : Nat) (m : Mach) (_ : Seq) (r : Nat) : Eng Mach :=
  if 16 ≤ cmdByte r 1 then .error (.stop .accBounds none 0)
  else .ok { m with mem := Mem.clear m.mem (accKey cl (cmdByte r 1) 0 0) 0x10000 }

/-- The matrix instructions of a cluster: opcode, instruction and effect. -/
def matrixForms (cl : Nat) : List (Nat × Instr × (Mach → Seq → Nat → Eng Mach)) :=
  [(0x10, .mzero cl, Mach.mzero cl), (0x11, .mma cl, fun m q r => m.mma cl q r),
   (0x12, .mstore cl, fun m q r => m.mstore cl q r), (0x13, .wload cl, fun m q r => m.wload cl q r)]

/-- The effect of MZERO in the model is that of its check and its clearing. -/
theorem mzero_eq (cl : Nat) : (fun (m : Mach) (_ : Seq) (r : Nat) => (do
    needTile r
    Except.ok { m with mem := Mem.clear m.mem (accKey cl (cmdByte r 1) 0 0) 0x10000 } : Eng Mach)) = Mach.mzero cl := by
  funext m q r
  rw [Mach.mzero, needTile]
  split <;> rfl

theorem exec_matrix {s : State} {cl op : Nat} {i : Instr} {f : Mach → Seq → Nat → Eng Mach}
    (form : (op, i, f) ∈ matrixForms cl) : exec i s = .next (s.on (s.m.matrixCommand cl op f)) := by
  simp only [matrixForms, List.mem_cons, Prod.mk.injEq, List.not_mem_nil, or_false] at form
  obtain ⟨rfl, rfl, rfl⟩ | ⟨rfl, rfl, rfl⟩ | ⟨rfl, rfl, rfl⟩ | ⟨rfl, rfl, rfl⟩ := form
  · rw [← mzero_eq]
    exact (s.onMach_eq rfl : execMzero cl s = _)
  · exact (s.onMach_eq rfl : execMma cl s = _)
  · exact (s.onMach_eq rfl : execMstore cl s = _)
  · exact (s.onMach_eq rfl : execWload cl s = _)

/-- The start of a matrix command, if it has not started. -/
def Mach.matrixBegun (m : Mach) (cl : Nat) (q : Seq) (r : Nat) : Seq × Mach :=
  if q.cmd.isSome then (q, m) else m.matrixStart cl q r

/-- What a matrix command does once it is counted: it halts, waits for reads, or has its effect. -/
def Mach.matrixGoes (m : Mach) (cl : Nat) (q : Seq) (r : Nat) (f : Mach → Seq → Nat → Eng Mach) : Mach :=
  match f m q r with
  | .error .wait =>
    match (match f m q.assumed r with | .error h => h.read | .ok _ => none) with
    | some a => m.sendAsk true cl q a
    | none => m
  | .error h => m.haltCmd true cl q h
  | .ok m =>
    let m := m.modHead true cl (fun x => { x with reads := [] })
    if m.seqQuiet q.id then m.cmdDone true cl else m.begun true cl r

section
variable {m : Mach} {cl op r : Nat} {q : Seq} {f : Mach → Seq → Nat → Eng Mach}

theorem Mach.matrixCommand_reached (h : m.reached true cl q r op) : m.matrixCommand cl op f =
    (if q.started then (if m.seqQuiet q.id then m.cmdDone true cl else m)
    else if q.cmd.isNone && (m.cluster cl).passed.contains q.core then m.haltCmd true cl q (.stop .leaseExpired none 0)
    else if q.cmd.isNone && !q.counted && m.leaseOver cl q.core then m
    else (m.matrixBegun cl q r).2.matrixGoes cl (m.matrixBegun cl q r).1 r f).endCancelled cl := by
  rw [Mach.matrixCommand, Mach.onCommand_reached h] <;> rfl

/-- A matrix command that neither the lease nor its limit keeps. -/
theorem Mach.matrixCommand_starts (h : m.reached true cl q r op) (fresh : q.started = false)
    (may : q.cmd = none → q.core ∉ (m.cluster cl).passed ∧ (q.counted = true ∨ m.leaseOver cl q.core = false)) :
    m.matrixCommand cl op f =
      ((m.matrixBegun cl q r).2.matrixGoes cl (m.matrixBegun cl q r).1 r f).endCancelled cl := by
  have holder : ¬ (q.cmd.isNone && (m.cluster cl).passed.contains q.core) = true := by
    rw [Bool.and_eq_true, Option.isNone_iff_eq_none, List.contains_iff_mem]
    rintro ⟨unread, passed⟩
    exact (may unread).1 passed
  have early : ¬ (q.cmd.isNone && !q.counted && m.leaseOver cl q.core) = true := by
    rw [Bool.and_eq_true, Bool.and_eq_true, Option.isNone_iff_eq_none, Bool.not_eq_true']
    rintro ⟨⟨unread, uncounted⟩, late⟩
    exact (may unread).2.elim (fun h => Bool.false_ne_true (uncounted.symm.trans h))
      fun h => Bool.false_ne_true (h.symm.trans late)
  rw [Mach.matrixCommand_reached h, fresh, if_neg Bool.false_ne_true, if_neg holder, if_neg early]

/-- What is started is named by its two parts. -/
theorem Mach.matrixBegun_eq : m.matrixBegun cl q r = (if q.cmd = none then (m.matrixStart cl q r).1 else q,
    if q.cmd = none then (m.matrixStart cl q r).2 else m) := by
  rw [Mach.matrixBegun]
  cases q.cmd <;> rfl

theorem Mach.matrixGoes_halt {h : Halt} (halts : f m q r = .error h) (stops : h ≠ .wait) :
    m.matrixGoes cl q r f = m.haltCmd true cl q h := by
  rw [Mach.matrixGoes, halts]
  cases h with
  | wait => exact absurd rfl stops
  | stop e bad found => rfl
  | ask a => rfl
  | reply e a => rfl

theorem Mach.matrixGoes_wait (waits : f m q r = .error .wait) : m.matrixGoes cl q r f =
    match (match f m q.assumed r with | .error h => h.read | .ok _ => none) with
    | some a => m.sendAsk true cl q a
    | none => m := by
  rw [Mach.matrixGoes, waits]

theorem Mach.matrixGoes_done {m2 : Mach} (done : f m q r = .ok m2) : m.matrixGoes cl q r f =
    let m3 := m2.modHead true cl (fun x => { x with reads := [] })
    if m3.seqQuiet q.id then m3.cmdDone true cl else m3.begun true cl r := by
  rw [Mach.matrixGoes, done]

/-- An MMA of no row or no column has no effect. -/
theorem Mach.mma_none (tile : cmdByte r 1 < 16) (none : cmdByte r 2 % 16 = 0 ∨ cmdByte r 2 / 16 = 0) :
    m.mma cl q r = .ok m := by
  have needs : needTile r = .ok () := if_neg (Nat.not_le.mpr tile)
  have empty : (decide (cmdByte r 2 % 16 = 0) || decide (cmdByte r 2 / 16 = 0)) = true := by
    rw [Bool.or_eq_true, decide_eq_true_eq, decide_eq_true_eq]
    exact none
  rw [Mach.mma, needs]
  exact if_pos empty

end

/-! ### Gating (R265) -/

theorem exec_subarrayGate {s : State} {cl sub : Nat} :
    let k := s.m.cluster cl
    let due := sub < 16 ∧ s.m.gateDelay cl ≠ 0 ∧ s.m.gateDelay cl ≤ s.m.arrayCycles cl - Table.get k.idleFrom sub 0 ∧
      2304 ≤ Table.get k.predicted sub 0
    (due → exec (.subarrayGate cl sub) s =
      .next (s.on (s.m.modCluster cl (fun x => { x with gated := insertNat x.gated sub })))) ∧
    (¬ due → exec (.subarrayGate cl sub) s = .next s) := by
  intro k due
  have guard : (decide (sub < 16) && s.m.gateDelay cl != 0 &&
      decide (s.m.gateDelay cl ≤ s.m.arrayCycles cl - Table.get k.idleFrom sub 0) &&
      decide (breakEven ≤ Table.get k.predicted sub 0)) = true ↔ due := by
    rw [Bool.and_eq_true, Bool.and_eq_true, Bool.and_eq_true, decide_eq_true_eq, decide_eq_true_eq, decide_eq_true_eq,
      bne_iff_ne, and_assoc, and_assoc]
    rfl
  constructor
  · intro yes
    exact (s.onMach_eq (if_pos (guard.mpr yes)) : execSubarrayGate cl sub s = _)
  · intro no
    exact (s.onMach_idle (if_neg (mt guard.mp no)) : execSubarrayGate cl sub s = _)

/-! ### The lease (R232, R233) -/

/-- The lease of a cluster given to a core, whose tokens are written. -/
def Mach.leaseGranted (m : Mach) (cl c : Nat) (ids : List Nat) (rest : List (Nat × List Nat)) : Mach :=
  ids.foldl (fun m id => m.resolve id 0) (m.modCluster cl (fun x =>
    { x with holder := some c, leaving := none, fifo := rest, commands := 0, grantedAt := (m.core c).cycles,
             passed := eraseNat x.passed c,
             seqs := x.seqs.map (fun q => if q.core = c then { q with counted := false } else q) }))

section
variable {s : State} {m : Mach} {cl c d : Nat} {ids : List Nat} {rest : List (Nat × List Nat)}

theorem Mach.grantLease_first (asked : (m.cluster cl).fifo = (c, ids) :: rest) :
    m.grantLease cl = m.leaseGranted cl c ids rest := by
  rw [Mach.grantLease, asked]
  rfl

theorem Mach.grantLease_none (none : (m.cluster cl).fifo = []) : m.grantLease cl = m := by
  rw [Mach.grantLease, none]

theorem exec_leaseGrant : exec (.leaseGrant cl) s = .next (s.on (
    if (s.m.cluster cl).holder.isSome ||
        (s.m.cluster cl).leaving.any (fun c => (s.m.cluster cl).seqs.any (fun q => q.core == c)) then s.m
    else s.m.grantLease cl)) :=
  (s.onMach_eq rfl : execLeaseGrant cl s = _)

theorem exec_leaseExpiry_free (free : (s.m.cluster cl).holder = none) : exec (.leaseExpiry cl) s = .next s := by
  refine (s.onMach_idle ?_ : execLeaseExpiry cl s = _)
  dsimp only
  rw [free]

theorem exec_leaseExpiry (holds : (s.m.cluster cl).holder = some d) :
    let k := s.m.cluster cl
    let limit := 64 ≤ k.commands ∨ 200000 ≤ (s.m.core d).cycles - k.grantedAt
    (¬ limit → exec (.leaseExpiry cl) s = .next s) ∧
    (limit → exec (.leaseExpiry cl) s = .next (s.on (if k.fifo.isEmpty then s.m.renewLease cl
      else (s.m.modCluster cl (fun x => { x with passed := insertNat x.passed d })).grantLease cl))) := by
  intro k limit
  have guard : (decide (k.commands < leaseMax) && decide ((s.m.core d).cycles - k.grantedAt < leaseCycles)) = true ↔
      ¬ limit := by
    rw [Bool.and_eq_true, decide_eq_true_eq, decide_eq_true_eq, not_or, Nat.not_le, Nat.not_le]
    rfl
  constructor
  · intro below
    refine (s.onMach_idle ?_ : execLeaseExpiry cl s = _)
    dsimp only
    rw [holds]
    exact if_pos (guard.mpr below)
  · intro reached
    show execLeaseExpiry cl s = _
    refine s.onMach_eq ?_
    dsimp only
    rw [holds]
    exact if_neg (mt guard.mp (not_not.mpr reached))

/-- With no request queued, renewing leaves both counts of the holder's lease below their limits. -/
theorem Mach.renewLease_below (holds : (m.cluster cl).holder = some d) (none : (m.cluster cl).fifo = []) :
    ((m.renewLease cl).cluster cl).holder = some d ∧ ((m.renewLease cl).cluster cl).commands < 64 ∧
      (m.core d).cycles - ((m.renewLease cl).cluster cl).grantedAt < 200000 := by
  have turns := Nat.div_add_mod ((m.core d).cycles - (m.cluster cl).grantedAt) 200000
  have part := Nat.mod_lt ((m.core d).cycles - (m.cluster cl).grantedAt) (by decide : 0 < 200000)
  rw [Mach.renewLease]
  dsimp only
  rw [holds, none]
  dsimp only
  rw [if_neg (by decide)]
  split
  · rw [Mach.modCluster, Mach.cluster_setCluster_self]
    refine ⟨holds, (by decide : 0 < 64), ?_⟩
    dsimp only [leaseCycles]
    omega
  · rename_i noTurn
    split
    · rw [Mach.modCluster, Mach.cluster_setCluster_self]
      refine ⟨holds, (by decide : 0 < 64), ?_⟩
      dsimp only
      omega
    · rename_i few
      simp only [leaseMax, leaseCycles] at few noTurn
      exact ⟨holds, by omega, by omega⟩

end

end Sys2Proof.Machine

open Sys2Proof Sys2Proof.Machine

/-- Settles O45, by where the command stands, and the lease by its holder and requests. -/
theorem matrixArray : Obligations.MatrixArray := by
  unfold Obligations.MatrixArray
  refine ⟨?commands, ?lease⟩
  case commands =>
    intro s cl sub op q r i f m k reached mzero
    refine ⟨?_, Mach.mma_none, ?_, exec_subarrayGate⟩
    · intro form h out
      have runs := exec_matrix (s := s) (show (op, i, f) ∈ matrixForms cl from form)
      have at_ : s.m.reached true cl q r op := h
      have commands := Mach.matrixCommand_reached (f := f) at_
      refine ⟨?_, ?_, ?_, ?_⟩
      · intro started
        rw [commands, started] at runs
        constructor
        · intro quiet
          rw [show s.m.seqQuiet q.id = true from quiet] at runs
          exact runs
        · intro busy
          rw [show s.m.seqQuiet q.id = false from busy] at runs
          exact runs
      · intro fresh unread passed
        rw [commands, fresh, unread, List.contains_iff_mem.mpr (show q.core ∈ (s.m.cluster cl).passed from passed)] at runs
        exact runs
      · intro fresh unread holder uncounted late
        rw [commands, fresh, unread, uncounted, show s.m.leaseOver cl q.core = true from late,
          Bool.eq_false_iff.mpr (mt List.contains_iff_mem.mp (show q.core ∉ (s.m.cluster cl).passed from holder))] at runs
        exact runs
      · intro fresh may q1 m1
        rw [Mach.matrixCommand_starts at_ fresh may, Mach.matrixBegun_eq] at runs
        replace runs : exec i s = .next (out (m1.matrixGoes cl q1 r f)) := runs
        refine ⟨?_, ?_, ?_⟩
        · intro halt stops halts
          rw [runs, Mach.matrixGoes_halt halts stops]
        · intro waits
          rw [Mach.matrixGoes_wait waits] at runs
          constructor
          · intro halt a asked reads
            rw [asked] at runs
            dsimp only at runs
            rw [reads] at runs
            exact runs
          · intro nothing
            have none : (match f m1 q1.assumed r with | .error h => h.read | .ok _ => none) = none := by
              split
              · rename_i halt asked
                exact nothing halt asked
              · rfl
            rw [runs]
            rw [none]
        · intro m2 done m3
          rw [Mach.matrixGoes_done done] at runs
          constructor
          · intro quiet
            rw [runs]
            dsimp only
            rw [if_pos quiet]
          · intro busy
            rw [runs]
            dsimp only
            rw [if_neg (Bool.eq_false_iff.mp busy)]
    · intro a _
      exact Mem.get_clear _ _ _ _
  case lease =>
    intro s cl c ids rest m k granted
    refine ⟨?_, ?_, exec_leaseExpiry_free, ?_⟩
    · intro asked free left
      have ended : k.leaving.any (fun c => k.seqs.any (fun q => q.core == c)) = false := by
        obtain h | ⟨d, h, gone⟩ := left
        · rw [h]
          rfl
        · rw [h]
          exact gone
      rw [exec_leaseGrant, show (s.m.cluster cl).holder = none from free, ended]
      exact congrArg (fun m => Host.Outcome.next (s.on m)) (Mach.grantLease_first asked)
    · intro kept
      rw [exec_leaseGrant]
      obtain h | ⟨d, h, runs⟩ | h := kept
      · rw [if_pos]
        · rfl
        · rw [Bool.or_eq_true]
          exact .inl (Option.isSome_iff_ne_none.mpr h)
      · rw [if_pos]
        · rfl
        · rw [Bool.or_eq_true]
          exact .inr (by rw [show (s.m.cluster cl).leaving = some d from h]; exact runs)
      · rw [Mach.grantLease_none h]
        exact congrArg (fun m => Host.Outcome.next (s.on m)) (ite_self s.m)
    · intro d holds limit
      obtain ⟨below, reached⟩ := exec_leaseExpiry (s := s) holds
      refine ⟨below, ?_, ?_⟩
      · intro none
        refine ⟨?_, Mach.renewLease_below holds none⟩
        intro full
        rw [reached full, show (s.m.cluster cl).fifo = [] from none]
        rfl
      · intro full asked
        have after : ((s.m.modCluster cl (fun x => { x with passed := insertNat x.passed d })).cluster cl).fifo =
            (c, ids) :: rest := by
          rw [Mach.modCluster, Mach.cluster_setCluster_self]
          exact asked
        rw [reached full, Mach.grantLease_first after, show (s.m.cluster cl).fifo = (c, ids) :: rest from asked]
        rfl

end

section
/-!
PROOF. A core cycle (R68, R69, R331): the choice, the instruction's effect, and the candidate of a context; O55.
-/
namespace Sys2Proof.Machine

/-- An instruction finds the issuing core, context and word noted. -/
theorem Mach.before_cur (m : Mach) (c x : Nat) (w : IWord) (i : Instr) :
    (m.before c x w i).cur = { core := c, ctx := x, word := w } := by
  rw [Mach.before]
  split
  · rfl
  · exact Mach.settleOwn_cur _ c

/-- The turn at the head of the agenda is the next one. -/
theorem State.nextTurn_head {s : State} {t : Turn} {rest : List Turn} (next : s.agenda = t :: rest) :
    s.nextTurn = (t, { s with agenda := rest }) := by
  rw [State.nextTurn, next]

/-- A step with a core cycle at the head of the agenda is what that core issues. -/
theorem step_cycle {s : State} {c : Nat} {rest : List Turn} (next : s.agenda = .cycle c :: rest) :
    step s = State.issue c (s.m.advance.core c).last 12 { s with agenda := rest, m := s.m.advance }
      (s.m.advance.cycle c (s.power.dutyOf c)) := by
  rw [step]
  rw [State.nextTurn_head (s := { s with m := s.m.advance }) next, State.take, State.cycle]

/-- The issue of a chosen instruction whose effect is `t`. -/
theorem State.issue_next {c last n : Nat} {s t : State} {p : Pick} {m : Mach}
    (effect : exec p.instr { s with m := m.before c p.ctx p.word p.instr } = .next t) :
    State.issue c last (n + 1) s (some p, m) =
      if t.m.unissued c p.ctx then State.issue c last n t (t.m.again c last)
      else .next { t with m := t.m.issuedCycle c p.instr } := by
  rw [State.issue, effect]

section
variable {m m1 : Mach} {c x : Nat} {w : IWord} {i : Instr}

/-- The candidate of a context whose word is fetched and decodes, and which nothing holds back. -/
theorem Mach.candidate_decoded (live : (m.ctx c x).live = true) (ready : m.waitOver c x (m.ctx c x) = true)
    (pushed : m.pushing c (m.ctx c x).task = false) (fetched : m.fetch c x (m.ctx c x).pc = .ok (some w, m1))
    (decoded : decode w = .ok i)
    (marker : m1.outstanding c (m.ctx c x).task = false ∨ w.getLsbD 31 = false ∧ implicitMarker i = false)
    (ends : endsTask i = false ∨ m1.storing c x (m.ctx c x).task = false)
    (moved : ({ m1 with cur := { core := c, ctx := x, word := w } } : Mach).usesMoved i = false ∨
      m1.handlesFlying c = false) :
    m.candidate c x = (some { ctx := x, instr := i, word := w }, m1) := by
  have issues : ¬ (!(m.ctx c x).live || !m.waitOver c x (m.ctx c x) || m.pushing c (m.ctx c x).task) = true := by
    rw [live, ready, pushed]
    decide
  have unmarked : ¬ (w.getLsbD 31 && m1.outstanding c (m.ctx c x).task) = true := by
    obtain h | ⟨h, _⟩ := marker
    · rw [h, Bool.and_false]
      exact Bool.false_ne_true
    · rw [h, Bool.false_and]
      exact Bool.false_ne_true
  have free : ¬ (implicitMarker i && m1.outstanding c (m.ctx c x).task ||
      endsTask i && m1.storing c x (m.ctx c x).task) = true := by
    have noMarker : (implicitMarker i && m1.outstanding c (m.ctx c x).task) = false := by
      obtain h | ⟨_, h⟩ := marker <;> simp [h]
    have noEnd : (endsTask i && m1.storing c x (m.ctx c x).task) = false := by
      obtain h | h := ends <;> simp [h]
    rw [noMarker, noEnd]
    decide
  have passes : ¬ (m1.handlesFlying c && ({ m1 with cur := { core := c, ctx := x, word := w } } : Mach).usesMoved i) =
      true := by
    obtain h | h := moved <;> simp [h]
  rw [Mach.candidate]
  dsimp only
  rw [if_neg issues, fetched]
  dsimp only
  rw [if_neg unmarked, decoded]
  dsimp only
  rw [if_neg free, if_neg passes]

end

end Sys2Proof.Machine

open Sys2Proof Sys2Proof.Machine

/-- Settles O55: the step is the issue of the core's choice, and a candidate is what its word decodes to. -/
theorem stepRunsDecoded : Obligations.StepRunsDecoded := by
  unfold Obligations.StepRunsDecoded
  constructor
  · intro s c x rest w i m1 t last next chosen
    refine ⟨m1.before_cur c x w i, fun effect => ?_⟩
    have runs := step_cycle next
    rw [chosen, State.issue_next (p := { ctx := x, instr := i, word := w }) effect] at runs
    constructor
    · intro issued
      rw [runs]
      exact if_neg (Bool.eq_false_iff.mp issued)
    · intro waits
      rw [runs]
      exact if_pos waits
  · intro m m1 c x w i v live ready pushed fetched decoded marker ends moved
    exact Mach.candidate_decoded live ready pushed fetched decoded marker ends moved

end

section
/-!
PROOF. System registers (R24 to R31, R361, R362): the row of each register's write, and O38.
-/
namespace Sys2Proof.Machine

/-! ### CSRD and CSWR (R361, R362) -/

/-- CSRD of a register other than FDUTY. -/
theorem exec_csrd (s : State) (d : BitVec 5) {n : BitVec 12} (plain : n ≠ 0x034) :
    exec (.csrd d n) s = .next (s.on (
      if csrRuntime n.toNat && !s.m.me.rt then s.m.trapMe { cause := .privileged, bad := s.m.wordBad }
      else (s.m.writeW d (s.m.csr n.toNat)).done)) := by
  show execCsrd d n s = _
  rw [execCsrd, if_neg plain]
  exact s.onMach_eq rfl

/-- FDUTY, no duty of the core having changed in this cycle. -/
theorem exec_csrd_fduty {s : State} (d : BitVec 5) (steady : Table.find s.power.dutyWas s.m.cur.core = none) :
    exec (.csrd d 0x034) s = .next (s.on (s.m.writeW d (BitVec.ofNat 64 (s.power.dutyOf s.m.cur.core))).done) := by
  show execCsrd d 0x034 s = _
  rw [execCsrd, if_pos rfl, State.fduty, steady]
  exact s.onMach_eq rfl

/-- A write of a register at task privilege, if it needs more. -/
theorem Mach.cswr_denied {m : Mach} (a : BitVec 5) {x : Nat} (f : Mach → Word → Res Mach)
    (denied : ((csrRuntime x || x == 0) && !m.me.rt) = true) :
    m.cswr a x f = m.trapMe { cause := .privileged, bad := m.wordBad } := by
  simp only [Mach.cswr, bind, Except.bind]
  rw [if_pos denied]
  rfl

/-- One that is allowed is the write of the word read. -/
theorem Mach.cswr_allowed {m : Mach} {a : BitVec 5} {x : Nat} {f : Mach → Word → Res Mach}
    (allowed : ((csrRuntime x || x == 0) && !m.me.rt) = false) (ha : m.canReadW a) :
    m.cswr a x f = m.settle (f m (m.w a) >>= fun m => .ok m.done) := by
  simp only [Mach.cswr, bind, Except.bind]
  rw [if_neg (Bool.eq_false_iff.mp allowed), m.readW_ok ha]

/-! ### The registers at their indexes -/

section
variable (m : Mach) (v : Word)

theorem Mach.writeCsr_chcfg {ch : Nat} (h : ch < 8) : m.writeCsr (0x040 + ch) v = m.writeChcfg ch v := by
  have channels : (decide (0x040 ≤ 0x040 + ch) && decide (0x040 + ch < 0x048)) = true := by
    rw [Bool.and_eq_true, decide_eq_true_eq, decide_eq_true_eq]
    omega
  unfold Mach.writeCsr
  iterate 13 rw [if_neg (by omega)]
  rw [if_pos channels, Nat.add_sub_cancel_left]

theorem Mach.writeCsr_bankfmt {b : Nat} (h : b < 64) : m.writeCsr (0x100 + b) v = m.writeBankfmt b v := by
  have channels : ¬ (decide (0x040 ≤ 0x100 + b) && decide (0x100 + b < 0x048)) = true := by
    rw [Bool.and_eq_true, decide_eq_true_eq, decide_eq_true_eq]
    omega
  have banks : (decide (0x100 ≤ 0x100 + b) && decide (0x100 + b < 0x140)) = true := by
    rw [Bool.and_eq_true, decide_eq_true_eq, decide_eq_true_eq]
    omega
  unfold Mach.writeCsr
  iterate 13 rw [if_neg (by omega)]
  rw [if_neg channels, if_pos banks, Nat.add_sub_cancel_left]

end

/-- The instructions that write a register and wait for nothing, each with its register. -/
def registerWrites (a : BitVec 5) (n : BitVec 12) (ch : BitVec 3) (b : BitVec 6) : List (Instr × Nat) :=
  [(.cswr a n, n.toNat), (.carveWrite a, 0x030), (.bankfmtWrite a b, 0x100 + b.toNat), (.envcfgWrite a, 0x031),
   (.wspoolWrite a, 0x032), (.chcfgWrite a ch, 0x040 + ch.toNat), (.fpmodeWrite a, 0x010), (.fpflagsWrite a, 0x011),
   (.foldstatWrite a, 0x013), (.stealdomWrite a, 0x024), (.brcfgWrite a, 0x800), (.partcfgWrite a, 0x802)]

/-- Each of them is the write of its register at its index. -/
theorem exec_registerWrite (s : State) {a : BitVec 5} {n : BitVec 12} {ch : BitVec 3} {b : BitVec 6} {i : Instr} {x : Nat}
    (form : (i, x) ∈ registerWrites a n ch b) :
    exec i s = .next (s.on (s.m.cswr a x (fun m v => m.writeCsr x v))) := by
  have channel : (fun (m : Mach) v => m.writeCsr (0x040 + ch.toNat) v) = fun m v => m.writeChcfg ch.toNat v :=
    funext fun m => funext fun v => m.writeCsr_chcfg v ch.isLt
  have bank : (fun (m : Mach) v => m.writeCsr (0x100 + b.toNat) v) = fun m v => m.writeBankfmt b.toNat v :=
    funext fun m => funext fun v => m.writeCsr_bankfmt v b.isLt
  simp only [registerWrites, List.mem_cons, Prod.mk.injEq, List.not_mem_nil, or_false] at form
  obtain ⟨rfl, rfl⟩ | ⟨rfl, rfl⟩ | ⟨rfl, rfl⟩ | ⟨rfl, rfl⟩ | ⟨rfl, rfl⟩ | ⟨rfl, rfl⟩ | ⟨rfl, rfl⟩ | ⟨rfl, rfl⟩ | ⟨rfl, rfl⟩ |
    ⟨rfl, rfl⟩ | ⟨rfl, rfl⟩ | ⟨rfl, rfl⟩ := form
  · exact (s.onMach_eq rfl : execCswr a n s = _)
  · exact (s.onMach_eq rfl : execCarveWrite a s = _)
  · rw [bank]
    exact (s.onMach_eq rfl : execBankfmtWrite a b s = _)
  · exact (s.onMach_eq rfl : execEnvcfgWrite a s = _)
  · exact (s.onMach_eq rfl : execWspoolWrite a s = _)
  · rw [channel]
    exact (s.onMach_eq rfl : execChcfgWrite a ch s = _)
  · exact (s.onMach_eq rfl : execFpmodeWrite a s = _)
  · exact (s.onMach_eq rfl : execFpflagsWrite a s = _)
  · exact (s.onMach_eq rfl : execFoldstatWrite a s = _)
  · exact (s.onMach_eq rfl : execStealdomWrite a s = _)
  · exact (s.onMach_eq rfl : execBrcfgWrite a s = _)
  · exact (s.onMach_eq rfl : execPartcfgWrite a s = _)

theorem exec_wpWrite (s : State) (a : BitVec 5) :
    exec (.wpWrite a) s = .next (s.on (if s.m.outstanding s.m.cur.core s.m.me.task then s.m.stay .marker
      else s.m.cswr a 0 (fun m v => m.writeCsr 0 v))) :=
  (s.onMach_eq rfl : execWpWrite a s = _)

/-! ### Writes that place nothing -/

theorem Mach.writeTeamid_eq (m : Mach) (v : Word) :
    (m.writeTeamid v).core m.cur.core = { m.core m.cur.core with teamid := v &&& 0xFFFFFFFF } ∧
      (∀ d, d ≠ m.cur.core → (m.writeTeamid v).core d = m.core d) ∧
      m.writeTeamid v = { m with cores := (m.writeTeamid v).cores, parts := (m.writeTeamid v).parts } := by
  have self := m.core_modCore_self m.cur.core (fun r => { r with teamid := v &&& 0xFFFFFFFF })
  have other : ∀ d, d ≠ m.cur.core →
      (m.modCore m.cur.core (fun r => { r with teamid := v &&& 0xFFFFFFFF })).core d = m.core d :=
    fun d h => m.core_modCore_ne _ h
  rw [Mach.writeTeamid]
  dsimp only
  split
  · exact ⟨self, other, rfl⟩
  · exact ⟨self, other, rfl⟩

theorem Mach.writeFpmode_ok {m : Mach} {v : Word} (mode : field v 0 3 ≤ 4) (seed : field v 8 2 ≠ 3) :
    m.writeFpmode v = .ok (m.modMe (fun x => { x with
      fpmode := v &&& 0xFFFFFFFF0000030F,
      gen := seedGen (v &&& 0xFFFFFFFF0000030F) m.cur.core m.cur.ctx m.now })) := by
  refine if_neg ?_
  rw [Bool.or_eq_true, decide_eq_true_eq, decide_eq_true_eq]
  omega

theorem Mach.writeFpmode_bad {m : Mach} {v : Word} (bad : 4 < field v 0 3 ∨ field v 8 2 = 3) :
    m.writeFpmode v = .error { cause := .reservedField } := by
  refine if_pos ?_
  rw [Bool.or_eq_true, decide_eq_true_eq, decide_eq_true_eq]
  omega

/-- The registers that a write leaves as they are. -/
theorem Mach.writeCsr_readOnly (m : Mach) (v : Word) {n : Nat}
    (h : n ∈ [1, 2, 3, 4, 0x020, 0x021, 0x022, 0x034, 0x050, 0x801]) : m.writeCsr n v = .ok m := by
  simp only [List.mem_cons, List.not_mem_nil, or_false] at h
  obtain rfl | rfl | rfl | rfl | rfl | rfl | rfl | rfl | rfl | rfl := h <;> rfl

/-! ### WP (R27) -/

/-! ### Regions (R27, R30) -/

/-- A register file's frames: the number of a pool frame at an offset. -/
theorem Core.frameNo_eq_some {r : Core} {off i : Nat} :
    r.frameNo off = some i ↔ i < r.poolCount ∧ off = r.poolBase + 2048 * i := by
  rw [Core.frameNo]
  simp only [Bool.and_eq_true, decide_eq_true_eq]
  constructor
  · split
    · rename_i found
      intro h
      have := Option.some.inj h
      omega
    · exact fun h => nomatch h
  · rintro ⟨inPool, rfl⟩
    rw [if_pos (by omega)]
    congr 1
    omega

theorem Core.frameNo_eq_none {r : Core} {off : Nat} :
    r.frameNo off = none ↔ ¬ ∃ i, i < r.poolCount ∧ off = r.poolBase + 2048 * i := by
  rw [Option.eq_none_iff_forall_ne_some]
  simp only [ne_eq, Core.frameNo_eq_some, not_exists]

theorem bankHolds_iff {b base n : Nat} : bankHolds b base n = true ↔ base < 32768 * (b + 1) ∧ 32768 * b < base + n := by
  rw [bankHolds, Bool.and_eq_true, decide_eq_true_eq, decide_eq_true_eq]

theorem Core.fits_iff {r : Core} {size : Nat} : r.fits size = true ↔
    r.poolBase + 2048 * r.poolCount ≤ size ∧ r.envBase + 96 * r.envCount ≤ size := by
  rw [Core.fits, Bool.and_eq_true, decide_eq_true_eq, decide_eq_true_eq]

/-- A region of a core's pool or store lies in bank `b`. -/
def Core.holdsBank (r : Core) (b : Nat) : Bool :=
  bankHolds b r.poolBase (2048 * r.poolCount) || bankHolds b r.envBase (96 * r.envCount)

theorem Core.holdsBank_iff {r : Core} {b : Nat} : r.holdsBank b = true ↔
    (r.poolBase < 32768 * (b + 1) ∧ 32768 * b < r.poolBase + 2048 * r.poolCount) ∨
      (r.envBase < 32768 * (b + 1) ∧ 32768 * b < r.envBase + 96 * r.envCount) := by
  rw [Core.holdsBank, Bool.or_eq_true, bankHolds_iff, bankHolds_iff]

theorem Core.regionsOk_iff {r : Core} : r.regionsOk = true ↔ r.fits r.scratchSize = true ∧
    (∀ b, b < 64 → r.holdsBank b = true → r.bankfmt.getD b 0 = 0) ∧
    (r.poolBase + 2048 * r.poolCount ≤ r.envBase ∨ r.envBase + 96 * r.envCount ≤ r.poolBase) := by
  have raw : ∀ b, (!(bankHolds b r.poolBase (2048 * r.poolCount) || bankHolds b r.envBase (96 * r.envCount)) ||
      r.bankfmt.getD b 0 == 0) = true ↔ (r.holdsBank b = true → r.bankfmt.getD b 0 = 0) := fun b => by
    rw [← Core.holdsBank, Bool.or_eq_true, Bool.not_eq_true', beq_iff_eq]
    cases r.holdsBank b <;> simp
  rw [Core.regionsOk]
  simp only [Bool.and_eq_true, Bool.or_eq_true (decide _), decide_eq_true_eq, List.all_eq_true, List.mem_range, raw,
    and_assoc]

theorem Mach.storeIdle_iff {m : Mach} {c : Nat} : m.storeIdle c = true ↔
    (∀ x, 1 ≤ x → x ≤ 10 → (m.ctx c x).live = false) ∧ ∀ i, i < (m.core c).envCount →
      ctlRefs (m.ctl (m.envKey c i)) = 0 ∧ ctlFlight (m.ctl (m.envKey c i)) = 0 := by
  rw [Mach.storeIdle, Bool.and_eq_true, Bool.not_eq_true', List.all_eq_true, List.any_eq_false]
  simp only [List.mem_range, Bool.and_eq_true, beq_iff_eq, Bool.not_eq_true]
  refine and_congr_left fun _ => ⟨fun none x low high => ?_, fun none x below => none (x + 1) (by omega) (by omega)⟩
  have := none (x - 1) (by omega)
  rwa [show x - 1 + 1 = x by omega] at this

/-- The condition of R30 on the two regions of a core. -/
def Core.RegionsHold (r : Core) : Prop :=
  (r.poolBase + 2048 * r.poolCount ≤ r.scratchSize ∧ r.envBase + 96 * r.envCount ≤ r.scratchSize) ∧
    (∀ b, b < 64 → ((r.poolBase < 32768 * (b + 1) ∧ 32768 * b < r.poolBase + 2048 * r.poolCount) ∨
      (r.envBase < 32768 * (b + 1) ∧ 32768 * b < r.envBase + 96 * r.envCount)) → r.bankfmt.getD b 0 = 0) ∧
    (r.poolBase + 2048 * r.poolCount ≤ r.envBase ∨ r.envBase + 96 * r.envCount ≤ r.poolBase)

theorem Core.regionsHold_iff {r : Core} : r.regionsOk = true ↔ r.RegionsHold := by
  rw [Core.regionsOk_iff, Core.fits_iff]
  simp only [Core.holdsBank_iff]
  rfl

section
variable {m : Mach} {v : Word}

theorem Mach.writeWp_none (none : ¬ ∃ i, i < (m.core m.cur.core).poolCount ∧
    v.toNat = (m.core m.cur.core).poolBase + 2048 * i) : m.writeWp v = .error { cause := .workspaceBounds } := by
  rw [Mach.writeWp]
  rw [Core.frameNo_eq_none.mpr none]

/-- A write of WP that names a pool frame. -/
theorem Mach.writeWp_frame {i : Nat} (inPool : i < (m.core m.cur.core).poolCount)
    (frame : v.toNat = (m.core m.cur.core).poolBase + 2048 * i) :
    let taken : Prop := m.cur.ctx = 0 ∧
      ((v.toNat ≠ m.me.wp ∧ m.frameLive m.cur.core i = true) ∨ i + 1 = (m.core m.cur.core).poolCount)
    (taken → m.writeWp v = .error { cause := .workspaceBounds }) ∧
      (¬ taken → m.writeWp v = .ok (m.modMe (fun x => { x with wp := v.toNat }))) := by
  intro taken
  have guard : (decide (m.cur.ctx = 0) && (decide (v.toNat ≠ m.me.wp) && m.frameLive m.cur.core i ||
      i + 1 == (m.core m.cur.core).poolCount)) = true ↔ taken := by
    rw [Bool.and_eq_true, Bool.or_eq_true, Bool.and_eq_true, decide_eq_true_eq, decide_eq_true_eq, beq_iff_eq]
  rw [Mach.writeWp]
  rw [Core.frameNo_eq_some.mpr ⟨inPool, frame⟩]
  exact ⟨fun yes => if_pos (guard.mpr yes), fun no => if_neg (mt guard.mp no)⟩

/-! ### ENVCFG and WSPOOL (R30, R93, R363) -/

section
variable {r : Core} {pool : Bool}

theorem Mach.writeRegion_busy (busy : ¬ m.storeIdle m.cur.core = true) :
    m.writeRegion r pool = .error { cause := .helperExhausted } := by
  refine if_pos ?_
  rw [Bool.not_eq_true']
  exact Bool.eq_false_iff.mpr busy

/-- Whether a region may lie where it is written, and holds the control context's frame. -/
theorem Mach.writeRegion_idle (idle : m.storeIdle m.cur.core = true) :
    let fits : Prop := r.RegionsHold ∧ (pool = true → r.frameNo (m.ctx m.cur.core 0).wp ≠ none)
    (¬ fits → m.writeRegion r pool = .error { cause := .workspaceBounds }) ∧
      (fits → m.writeRegion r pool = .ok (m.setCore m.cur.core r)) := by
  intro fits
  have guard : (!r.regionsOk || (pool && (r.frameNo (m.ctx m.cur.core 0).wp).isNone)) = true ↔ ¬ fits := by
    rw [Bool.or_eq_true, Bool.and_eq_true, Bool.not_eq_true', ← Bool.not_eq_true, Core.regionsHold_iff,
      Option.isNone_iff_eq_none, not_and_or, Classical.not_imp, not_not]
  have opens : ¬ (!m.storeIdle m.cur.core) = true := by
    rw [idle]
    decide
  constructor
  · intro no
    exact (if_neg opens).trans (if_pos (guard.mpr no))
  · intro yes
    exact (if_neg opens).trans (if_neg (mt guard.mp (not_not.mpr yes)))

end

/-- A write of ENVCFG or WSPOOL whose fields are not all allowed. -/
theorem reserved_iff {a b c : Prop} [Decidable a] [Decidable b] [Decidable c] :
    (decide a || decide b || decide c) = true ↔ a ∨ b ∨ c := by
  rw [Bool.or_eq_true, Bool.or_eq_true, decide_eq_true_eq, decide_eq_true_eq, decide_eq_true_eq, or_assoc]

theorem Mach.writeEnvcfg_bad (bad : field v 32 16 = 0 ∨ 16384 < field v 32 16 ∨ field v 0 12 ≠ 0) :
    m.writeEnvcfg v = .error { cause := .reservedField } :=
  if_pos (reserved_iff.mpr bad)

theorem Mach.writeEnvcfg_good (low : 1 ≤ field v 32 16) (high : field v 32 16 ≤ 16384) (aligned : field v 0 12 = 0) :
    m.writeEnvcfg v = m.writeRegion { m.myCore with envcfg := v &&& 0x0000FFFF001FFFFF } false :=
  if_neg (mt reserved_iff.mp (by omega))

theorem Mach.writeWspool_bad (bad : field v 32 16 < 3 ∨ 1024 < field v 32 16 ∨ field v 0 11 ≠ 0) :
    m.writeWspool v = .error { cause := .reservedField } :=
  if_pos (reserved_iff.mpr bad)

theorem Mach.writeWspool_good (low : 3 ≤ field v 32 16) (high : field v 32 16 ≤ 1024) (aligned : field v 0 11 = 0) :
    m.writeWspool v = m.writeRegion { m.myCore with wspool := v &&& 0x0000FFFF001FFFFF } true :=
  if_neg (mt reserved_iff.mp (by omega))

/-! ### CHCFG and BANKFMT (R29, R185) -/

/-- A write of CHCFG that keeps the channel or turns it on. -/
theorem Mach.writeChcfg_mode {ch : Nat} (mode : field v 0 2 = 1 ∨ field v 0 2 = 2) :
    let clash : Prop := (m.chan m.cur.core ch).mode ≠ 0 ∧ (m.chan m.cur.core ch).mode ≠ field v 0 2 ∨
      field v 4 4 + 1 < m.chanHeld m.cur.core ch
    (clash → m.writeChcfg ch v = .error { cause := .channelBindConflict }) ∧
      (¬ clash → m.writeChcfg ch v =
        .ok (m.modChan m.cur.core ch (fun k => { k with cfg := (v &&& 0x78F3) ||| (k.cfg &&& 0x8000) }))) := by
  intro clash
  have guard : (decide ((m.chan m.cur.core ch).mode ≠ 0) && decide ((m.chan m.cur.core ch).mode ≠ field v 0 2) ||
      decide (field v 4 4 + 1 < m.chanHeld m.cur.core ch)) = true ↔ clash := by
    rw [Bool.or_eq_true, Bool.and_eq_true, decide_eq_true_eq, decide_eq_true_eq, decide_eq_true_eq]
  rw [Mach.writeChcfg]
  rw [if_neg (by omega), if_neg (by omega)]
  exact ⟨fun yes => if_pos (guard.mpr yes), fun no => if_neg (mt guard.mp no)⟩

/-- A write of BANKFMT that names a format. -/
theorem Mach.writeBankfmt_format {b : Nat} (format : field v 0 5 ≤ 0x10) :
    let mismatch : Prop := field v 0 5 ≠ 0 ∧ (m.myCore.holdsBank b = true ∨ m.myCore.scratchSize ≤ 32768 * b)
    (mismatch → m.writeBankfmt b v = .error { cause := .bankFormatMismatch }) ∧
      (¬ mismatch → m.writeBankfmt b v =
        .ok (m.modCore m.cur.core (fun r => { r with bankfmt := r.bankfmt.set b (field v 0 5) }))) := by
  intro mismatch
  have guard : (decide (field v 0 5 ≠ 0) && (m.myCore.holdsBank b || decide (m.myCore.scratchSize ≤ 32768 * b))) = true ↔
      mismatch := by
    rw [Bool.and_eq_true, Bool.or_eq_true, decide_eq_true_eq, decide_eq_true_eq]
  have known : ¬ 0x11 ≤ field v 0 5 := by omega
  constructor
  · intro yes
    exact (if_neg known).trans (if_pos (guard.mpr yes))
  · intro no
    exact (if_neg known).trans (if_neg (mt guard.mp no))

end

/-! ### CARVE (R28) -/

theorem Mach.core_settleOwn (m : Mach) (c d : Nat) : (m.settleOwn c).core d = m.core d := by
  rw [Mach.core, m.settleOwn_cores]
  rfl

/-- The words that a scratchpad of a core loses as it shrinks are discarded. -/
def Mach.shrunk (m : Mach) (c new old : Nat) : Mach :=
  if new < old then
    let m := m.wipe c new (old - new)
    { m with scratchBad := m.scratchBad.filter (fun k => !(keyCore k == c && decide (new ≤ keyOff k))) }
  else m

theorem Mach.core_shrunk (m : Mach) (c new old d : Nat) : (m.shrunk c new old).core d = m.core d := by
  rw [Mach.shrunk]
  split <;> rfl

theorem Mach.shrunk_word (m : Mach) (c : Nat) {new old off : Nat} (low : new ≤ off) (high : off < old) :
    Mem.get (m.shrunk c new old).mem (scratchKey c off) = 0 ∧ (m.shrunk c new old).full (scratchKey c off) = true := by
  have inside : scratchKey c new ≤ scratchKey c off ∧ scratchKey c off < scratchKey c new + (old - new) := by
    rw [scratchKey, scratchKey]
    omega
  rw [Mach.shrunk, if_pos (by omega)]
  constructor
  · exact (Mem.get_clear _ _ _ _).trans (if_pos inside)
  · show (!(m.empties.filter _).contains (scratchKey c off)) = true
    rw [Bool.not_eq_true', ← Bool.not_eq_true, List.contains_iff_mem, List.mem_filter, Bool.not_eq_true',
      ← Bool.not_eq_true, Bool.and_eq_true, decide_eq_true_eq, decide_eq_true_eq]
    exact fun h => h.2 inside

/-- The size of a core's scratchpad under another CARVE. -/
def Core.sizeUnder (r : Core) (n : Nat) : Nat := ({ r with carve := n } : Core).scratchSize

/-- The formats of `n` banks as a scratchpad grows from `old` to `new` bytes: a new bank is RAW. -/
def banksGrown (fmt : List Nat) (old new n : Nat) : List Nat :=
  (List.range n).map (fun b => if old ≤ 32768 * b && 32768 * b < new then 0 else fmt.getD b 0)

theorem getD_banksGrown (fmt : List Nat) (old new : Nat) {n b : Nat} (below : b < n) :
    (banksGrown fmt old new n).getD b 0 = if old ≤ 32768 * b ∧ 32768 * b < new then 0 else fmt.getD b 0 := by
  rw [banksGrown, List.getD_eq_getElem?_getD, List.getElem?_map, List.getElem?_range below, Option.map_some,
    Option.getD_some]
  simp only [Bool.and_eq_true, decide_eq_true_eq]

theorem Mach.recarve_eq (m : Mach) (c n : Nat) :
    m.recarve c n = ((m.settleOwn c).shrunk c ((m.core c).sizeUnder n) (m.core c).scratchSize).modCore c (fun r => { r with
      carve := n,
      l1 := r.l1.drop (r.l1.length - n * 1024),
      bankfmt := banksGrown r.bankfmt (m.core c).scratchSize ((m.core c).sizeUnder n) 64 }) := by
  rw [← m.core_settleOwn c c]
  rfl

/-- A core after its CARVE takes a value. -/
theorem Mach.core_recarve (m : Mach) (c n : Nat) :
    ((m.recarve c n).core c).carve = n ∧ ∀ b, b < 64 → ((m.recarve c n).core c).bankfmt.getD b 0 =
      if (m.core c).scratchSize ≤ 32768 * b ∧ 32768 * b < (m.core c).sizeUnder n then 0
      else (m.core c).bankfmt.getD b 0 := by
  rw [Mach.recarve_eq, Mach.core_modCore_self, Mach.core_shrunk, Mach.core_settleOwn]
  exact ⟨rfl, fun b below => getD_banksGrown _ _ _ below⟩

/-- The words that a core loses with its CARVE read zero, and are full. -/
theorem Mach.recarve_word (m : Mach) (c : Nat) {n off : Nat} (low : (m.core c).sizeUnder n ≤ off)
    (high : off < (m.core c).scratchSize) :
    Mem.get (m.recarve c n).mem (scratchKey c off) = 0 ∧ (m.recarve c n).full (scratchKey c off) = true := by
  have kept (k : Mach) (f : Core → Core) (a : Nat) : (k.modCore c f).full a = k.full a := rfl
  rw [Mach.recarve_eq, Mach.modCore_mem, kept]
  exact Mach.shrunk_word _ c low high

section
variable {m : Mach} {v : Word}

theorem Mach.writeCarve_reserved (bad : field v 0 3 < 2 ∨ 6 < field v 0 3) :
    m.writeCarve v = .error { cause := .reservedField } := by
  refine if_pos ?_
  rw [Bool.or_eq_true, decide_eq_true_eq, decide_eq_true_eq]
  exact bad

/-- A write of CARVE that names a size. -/
theorem Mach.writeCarve_known (low : 2 ≤ field v 0 3) (high : field v 0 3 ≤ 6) : m.writeCarve v =
    if field (m.core m.cur.core).teamid 0 16 ≠ 0 then .error { cause := .barrierTeamInvalid }
    else if !(m.core m.cur.core).fits ((m.core m.cur.core).sizeUnder (field v 0 3)) then
      .error { cause := .workspaceBounds }
    else .ok (m.recarve m.cur.core (field v 0 3)) := by
  refine if_neg ?_
  rw [Bool.or_eq_true, decide_eq_true_eq, decide_eq_true_eq]
  omega

theorem Mach.writeCsr_carve : m.writeCsr 0x030 v = m.writeCarve v := by
  rw [Mach.writeCsr]
  rfl

end

/-! ### BRCFG and PARTCFG (R110, R111, R275) -/

/-- Changing slices changes nothing else. -/
theorem Mach.foldl_modSlice (k : Nat → Nat) (f : Slice → Slice) (l : List Nat) (m : Mach) :
    l.foldl (fun m i => m.modSlice (k i) f) m =
      { m with slices := (l.foldl (fun m i => m.modSlice (k i) f) m).slices } := by
  induction l generalizing m with
  | nil => rfl
  | cons i l ih => exact ih (m.modSlice (k i) f)

section
variable {m n : Mach} (same : n = { m with slices := n.slices }) (d p : Nat)
include same

theorem Mach.modDiePart_framed (g : DiePart → DiePart) : n.modDiePart d p g =
    { m with slices := (n.modDiePart d p g).slices, dieParts := (n.modDiePart d p g).dieParts } :=
  congrArg (fun k : Mach => ({ k with dieParts := (n.modDiePart d p g).dieParts } : Mach)) same

theorem Mach.modDie_framed (f : Die → Die) (g : DiePart → DiePart) : (n.modDie d f).modDiePart d p g =
    { m with slices := ((n.modDie d f).modDiePart d p g).slices, dies := ((n.modDie d f).modDiePart d p g).dies,
             dieParts := ((n.modDie d f).modDiePart d p g).dieParts } :=
  congrArg (fun k : Mach => ({ k with dies := (n.modDie d f).dies,
                                      dieParts := ((n.modDie d f).modDiePart d p g).dieParts } : Mach)) same

end

/-- A mask that has no bit of a pool field keeps the field. -/
theorem field_brcfg (v old keep : Word) (clear : keep.setWidth 9 = 0#9) :
    field ((v &&& 0xFFFFFFFFFFFF01FF &&& ~~~keep) ||| (old &&& keep)) 0 9 = field v 0 9 := by
  have low : ((v &&& 0xFFFFFFFFFFFF01FF &&& ~~~keep) ||| (old &&& keep)).setWidth 9 = v.setWidth 9 := by
    rw [BitVec.setWidth_or, BitVec.setWidth_and, BitVec.setWidth_and, BitVec.setWidth_and, BitVec.setWidth_not (by decide),
      clear]
    have ones : (0xFFFFFFFFFFFF01FF : Word).setWidth 9 = BitVec.allOnes 9 := by decide
    rw [ones, BitVec.and_allOnes, BitVec.and_zero, BitVec.or_zero, BitVec.not_zero, BitVec.and_allOnes]
  have same := congrArg BitVec.toNat low
  rwa [BitVec.toNat_setWidth, BitVec.toNat_setWidth, ← field_low, ← field_low] at same

/-- The bits of BRCFG that a write without EXPERT keeps (R6). -/
def Mach.brcfgKept (m : Mach) : Word := if (m.part m.myPart).expert then 0 else 0xFFF0000F00000000

/-- BRCFG after a write. -/
def Mach.brcfgNew (m : Mach) (v : Word) : Word :=
  (v &&& 0xFFFFFFFFFFFF01FF &&& ~~~m.brcfgKept) ||| ((m.diePart (dieOfCore m.cur.core) m.myPart).brcfg &&& m.brcfgKept)

section
variable {m : Mach} {v : Word}

theorem Mach.field_brcfgNew : field (m.brcfgNew v) 0 9 = field v 0 9 := by
  refine field_brcfg _ _ _ ?_
  rw [Mach.brcfgKept]
  split <;> decide

/-- Whether the pools of a die hold the pool that a write of BRCFG names. -/
def Mach.brcfgFits (m : Mach) (v : Word) : Prop :=
  field v 0 9 ≤ 320 ∧ m.poolOthers (dieOfCore m.cur.core) m.myPart + field v 0 9 ≤ 320

theorem brcfgGuard : (decide (320 < field (m.brcfgNew v) 0 9) ||
    decide (320 < m.poolOthers (dieOfCore m.cur.core) m.myPart + field (m.brcfgNew v) 0 9)) = true ↔ ¬ m.brcfgFits v := by
  rw [Bool.or_eq_true, decide_eq_true_eq, decide_eq_true_eq, Mach.field_brcfgNew, Mach.brcfgFits, not_and_or, Nat.not_le,
    Nat.not_le]

theorem Mach.writeBrcfg_bad (bad : ¬ m.brcfgFits v) : m.writeBrcfg v = .error { cause := .reservedField } :=
  if_pos (brcfgGuard.mpr bad)

theorem Mach.writeBrcfg_fits (fits : m.brcfgFits v) : ∃ m', m.writeBrcfg v = .ok m' ∧
    (m'.diePart (dieOfCore m.cur.core) m.myPart).brcfg = m.brcfgNew v ∧
    m' = { m with slices := m'.slices, dieParts := m'.dieParts } := by
  have frame := Mach.foldl_modSlice (fun i => 32 * dieOfCore m.cur.core + i) (fun x => { x with
    brcfg := Table.set x.brcfg m.myPart
      (Table.get x.brcfg m.myPart (m.diePart (dieOfCore m.cur.core) m.myPart).brcfg) }) (List.range 32) m
  refine ⟨_, if_neg (mt brcfgGuard.mp (not_not.mpr fits)), ?_, ?_⟩
  · rw [Mach.diePart_modDiePart_self]
    rfl
  · exact Mach.modDiePart_framed frame _ _ _

theorem Mach.writePartcfg_plain (plain : (m.part m.myPart).expert = false) : m.writePartcfg v = .ok m := by
  refine if_pos ?_
  rw [plain]
  rfl

theorem Mach.writePartcfg_bad (expert : (m.part m.myPart).expert = true) (bad : 7 < field v 40 4) :
    m.writePartcfg v = .error { cause := .reservedField } := by
  rw [Mach.writePartcfg, expert]
  exact if_pos bad

theorem Mach.writePartcfg_good (expert : (m.part m.myPart).expert = true) (good : field v 40 4 ≤ 7) :
    ∃ m', m.writePartcfg v = .ok m' ∧ (m'.diePart (dieOfCore m.cur.core) m.myPart).e2e = field v 40 4 ∧
      m' = { m with slices := m'.slices, dies := m'.dies, dieParts := m'.dieParts } := by
  have frame := Mach.foldl_modSlice (fun i => 32 * dieOfCore m.cur.core + i) (fun x => { x with
    e2e := Table.set x.e2e m.myPart
      (Table.get x.e2e m.myPart (m.diePart (dieOfCore m.cur.core) m.myPart).e2e) }) (List.range 32) m
  have opens : ¬ (!(m.part m.myPart).expert) = true := by
    rw [expert]
    decide
  refine ⟨_, (if_neg opens).trans (if_neg (Nat.not_lt.mpr good)), ?_, ?_⟩
  · rw [Mach.diePart_modDiePart_self]
  · exact Mach.modDie_framed frame _ _ _ _

end

end Sys2Proof.Machine

open Sys2Proof Sys2Proof.Machine

/-- Settles O38, register by register. -/
theorem systemRegisters : Obligations.SystemRegisters := by
  unfold Obligations.SystemRegisters
  refine ⟨?access, ?plain, ?placed⟩
  case access =>
    intro s d a n ch b i x denied
    refine ⟨?_, ?_, exec_csrd_fduty d, ⟨rfl, rfl, rfl, rfl, rfl, rfl, rfl, rfl⟩, ?_, ?_⟩
    · intro other allowed
      rw [exec_csrd s d other, if_neg (Bool.eq_false_iff.mp allowed)]
    · intro other refused
      rw [exec_csrd s d other, if_pos refused]
      rfl
    · intro form
      have runs : exec i s = .next (s.on (s.m.cswr a x (fun m v => m.writeCsr x v))) := by
        obtain row | ⟨wp, free⟩ := form
        · exact exec_registerWrite s (ch := ch) (b := b) row
        · obtain ⟨rfl, rfl⟩ := Prod.mk.inj wp
          rw [exec_wpWrite, if_neg (Bool.eq_false_iff.mp free)]
      constructor
      · intro refused
        rw [runs, Mach.cswr_denied a _ refused]
        rfl
      · intro allowed ha
        rw [Mach.cswr_allowed allowed ha] at runs
        constructor
        · intro m' written
          rw [written] at runs
          exact runs
        · intro t refused
          rw [refused] at runs
          exact runs
    · intro waits
      rw [exec_wpWrite, if_pos waits]
  case plain =>
    intro m v c bad low
    refine ⟨rfl, Mach.writeFpmode_bad, Mach.writeFpmode_ok, rfl, rfl, rfl, rfl, rfl, ?_, ?_, ?_, ?_⟩
    · intro known
      exact if_neg (Nat.not_le.mpr known)
    · intro beyond
      exact if_pos beyond
    · exact ⟨m.writeTeamid v, rfl, m.writeTeamid_eq v⟩
    · intro n readOnly
      exact m.writeCsr_readOnly v readOnly
  case placed =>
    intro m v b c r bad pool frames store stored inside touches holds ok idle frame kept
    have isIdle : m.storeIdle m.cur.core = true ↔ idle := Mach.storeIdle_iff
    refine ⟨Mach.writeWp_none, fun i inPool at_ => Mach.writeWp_frame inPool at_, ?carve, Mach.writeEnvcfg_bad, ?envcfg,
      Mach.writeWspool_bad, ?wspool, ?chcfg, ?bankfmt, ?brcfg⟩
    case carve =>
      intro n big
      rw [Mach.writeCsr_carve]
      refine ⟨Mach.writeCarve_reserved, ?_, ?_⟩
      · intro low high team
        exact (Mach.writeCarve_known low high).trans (if_pos team)
      · intro low high noTeam
        have runs := (Mach.writeCarve_known low high).trans (if_neg (not_not.mpr noTeam))
        have within : r.fits (r.sizeUnder n) = true ↔ inside big := Core.fits_iff
        constructor
        · intro outside
          rw [runs, if_pos]
          rw [Bool.not_eq_true', ← Bool.not_eq_true]
          exact mt within.mp outside
        · intro fits
          rw [if_neg (by rw [within.mpr fits]; decide)] at runs
          obtain ⟨carve, banks⟩ := m.core_recarve c n
          exact ⟨m.recarve c n, runs, carve, banks, fun off above below => m.recarve_word c above below⟩
    case envcfg =>
      intro low high aligned
      have runs : m.writeCsr 0x031 v = m.writeRegion { r with envcfg := kept } false := Mach.writeEnvcfg_good low high aligned
      refine ⟨?_, ?_, ?_⟩
      · intro busy
        rw [runs, Mach.writeRegion_busy (mt isIdle.mp busy)]
      · intro free no
        rw [runs]
        exact (Mach.writeRegion_idle (isIdle.mpr free)).1 fun fits => no fits.1
      · intro free yes
        rw [runs]
        exact (Mach.writeRegion_idle (isIdle.mpr free)).2 ⟨yes, fun h => nomatch h⟩
    case wspool =>
      intro low high aligned q
      have runs : m.writeCsr 0x032 v = m.writeRegion q true := Mach.writeWspool_good low high aligned
      have named : q.frameNo (m.ctx c 0).wp ≠ none ↔ frame q (m.ctx c 0).wp :=
        (not_congr Core.frameNo_eq_none).trans not_not
      refine ⟨?_, ?_, ?_⟩
      · intro busy
        rw [runs, Mach.writeRegion_busy (mt isIdle.mp busy)]
      · intro free no
        rw [runs]
        exact (Mach.writeRegion_idle (isIdle.mpr free)).1 fun fits => no ⟨fits.1, named.mp (fits.2 rfl)⟩
      · intro free yes at_
        rw [runs]
        exact (Mach.writeRegion_idle (isIdle.mpr free)).2 ⟨yes, fun _ => named.mpr at_⟩
    case chcfg =>
      intro below k mode clash
      have runs := m.writeCsr_chcfg v below
      refine ⟨?_, ?_, ?_, ?_⟩
      · intro three
        rw [runs]
        exact if_pos three
      · intro off
        rw [runs]
        exact (if_neg (by omega)).trans (if_pos off)
      · intro on clashes
        rw [runs]
        exact (Mach.writeChcfg_mode on).1 clashes
      · intro on free
        rw [runs]
        exact (Mach.writeChcfg_mode on).2 free
    case bankfmt =>
      intro below f mismatch
      have runs := m.writeCsr_bankfmt v below
      have same : (field v 0 5 ≠ 0 ∧ (m.myCore.holdsBank b = true ∨ m.myCore.scratchSize ≤ 32768 * b)) ↔ mismatch :=
        and_congr_right fun _ => or_congr_left Core.holdsBank_iff
      refine ⟨?_, ?_, ?_⟩
      · intro unknown
        rw [runs]
        exact if_pos unknown
      · intro known yes
        rw [runs]
        exact (Mach.writeBankfmt_format known).1 (same.mpr yes)
      · intro known no
        rw [runs]
        exact (Mach.writeBankfmt_format known).2 (mt same.mp no)
    case brcfg =>
      exact ⟨Mach.writeBrcfg_bad, Mach.writeBrcfg_fits, Mach.writePartcfg_plain, Mach.writePartcfg_bad,
        Mach.writePartcfg_good⟩

end

section
/-!
PROOF. The management service, the host and the device as a whole (R147, R148, R167, R193, R257 to R260, R262, R268 to
R282): the commands, resets, context switches, host accesses, migrations and the controller's turn; O54.
-/
namespace Sys2Proof.Machine

/-! ### STATUS (R270) -/

theorem Mach.writeStatus_serving {m m1 : Mach} {p n : Nat} {own out : Bool} {a : Word}
    (record : (m.part p).record = some (own, a)) (serving : (m.part p).serving = true)
    (write : m.controlWrite p a [(1, BitVec.ofNat 8 n)] = (out, m1)) :
    m.writeStatus p n = m1.modPart p (fun x => { x with record := none }) := by
  rw [Mach.writeStatus, record]
  dsimp only
  rw [if_pos serving, write]

theorem Mach.writeStatus_idle {m : Mach} {p : Nat} (n : Nat)
    (idle : (m.part p).record = none ∨ (m.part p).serving = false) : m.writeStatus p n = m := by
  rw [Mach.writeStatus]
  obtain none | still := idle
  · rw [none]
  · rw [still]
    cases (m.part p).record <;> rfl

section
variable {s : State} (p : Nat)

/-! ### The cases of an effect -/

section
variable {i : Instr} {c : Prop} {dec : Decidable c}

theorem exec_on_pos {x y : Mach} (runs : exec i s = .next (s.on (if c then x else y))) (h : c) :
    exec i s = .next (s.on x) :=
  runs.trans (congrArg (fun m => Host.Outcome.next (s.on m)) (if_pos h))

theorem exec_on_neg {x y : Mach} (runs : exec i s = .next (s.on (if c then x else y))) (h : ¬ c) :
    exec i s = .next (s.on y) :=
  runs.trans (congrArg (fun m => Host.Outcome.next (s.on m)) (if_neg h))

theorem exec_next_pos {u v : State} (runs : exec i s = .next (if c then u else v)) (h : c) : exec i s = .next u :=
  runs.trans (congrArg Host.Outcome.next (if_pos h))

theorem exec_next_neg {u v : State} (runs : exec i s = .next (if c then u else v)) (h : ¬ c) : exec i s = .next v :=
  runs.trans (congrArg Host.Outcome.next (if_neg h))

end

/-! ### What recovery refuses (R280) -/

theorem exec_recovery (recovery : s.m.recovery = true) {c n area pcb rows src dst watts : Nat} {on leader expert : Bool}
    {peers : List Nat} {i : Instr} (form : i ∈ [.partConfig p pcb rows expert, .partReset p, .foldConfig p area,
      .sliceRetire p c n, .ctxSave p area, .ctxRestore p area, .chanReopen p src dst, .powerLimit p watts,
      .collective p on leader peers n, .corePowerOff p c, .corePowerOn p c]) :
    exec i s = .next (s.on (s.m.served p 2)) := by
  simp only [List.mem_cons, List.not_mem_nil, or_false] at form
  obtain rfl | rfl | rfl | rfl | rfl | rfl | rfl | rfl | rfl | rfl | rfl := form
  all_goals exact if_pos recovery

/-! ### FW_LOAD (R280) -/

theorem exec_fwLoad_own (area n : Nat) : exec (.fwLoad p area n true) s = .next (s.on (s.m.served p 4)) := rfl

theorem exec_fwLoad_outside {area n : Nat} (outside : hbmEnd < area + n) :
    exec (.fwLoad p area n false) s = .next (s.on (s.m.served p 3)) :=
  congrArg (fun m => Host.Outcome.next (s.on m)) ((if_neg Bool.false_ne_true).trans (if_pos outside))

theorem exec_fwLoad {area n : Nat} (inside : area + n ≤ hbmEnd) {image : Option (List Byte)}
    (bytes : image = some (toBytes n ((s.m.controlLines p area n).2.read area n))) :
    exec (.fwLoad p area n false) s = .next (s.on (
      if s.m.controlHeld area n then s.m
      else if (s.m.controlLines p area n).1 = true ∧ imageRuns image = true then
        ({ (s.m.controlLines p area n).2 with nextImage := image } : Mach).served p 1
      else (s.m.controlLines p area n).2.served p 3)) := by
  subst bytes
  show execFwLoad p area n false s = _
  refine s.onMach_eq ?_
  rw [if_neg Bool.false_ne_true, if_neg (Nat.not_lt.mpr inside)]
  refine if_congr Iff.rfl rfl ?_
  rcases s.m.controlLines p area n with ⟨_ | _, m⟩
  · exact (if_neg fun h => Bool.false_ne_true h.1).symm
  · exact if_congr (by simp) rfl rfl

/-! ### PART_CONFIG and SLICE_RETIRE (R275, R148) -/

section
variable (normal : s.m.recovery = false)
include normal

theorem exec_partConfig (pcb rows : Nat) (expert : Bool) : exec (.partConfig p pcb rows expert) s = .next (
    if partArgsBad p pcb rows then s.on (s.m.served p 3)
    else if s.m.partRefused p pcb rows then s.on (s.m.served p 2)
    else { s with
      m := (s.m.configure p pcb rows expert).served p 1,
      power := s.power.resetDuty (rowCores (((s.m.part p).rows ||| rows) ^^^ ((s.m.part p).rows &&& rows))) }) :=
  if_neg (Bool.eq_false_iff.mp normal)

/-- A slice of a die retired: the die's map without it, its lines yet to be written back, its directory given up. -/
def Mach.retireSlice (m : Mach) (d i : Nat) : Mach :=
  ((m.modDie d (fun q => { q with map := q.map.map (fun x => if x = i then m.nextLive d i else x),
                                  mapGen := (q.mapGen + 1) % 256 })).modSlice (32 * d + i) (fun x =>
    { x with retired := true, unwritten := m.linesAt (32 * d + i), copies := [] })).retireBlocks (32 * d + i)

theorem exec_sliceRetire (d i : Nat) : exec (.sliceRetire p d i) s = .next (s.on (
    if 4 ≤ d ∨ 32 ≤ i then s.m.served p 3
    else if (s.m.slice (32 * d + i)).retired = true ∨ 8 ≤ (s.m.retiredOf d).length then s.m.served p 2
    else (s.m.retireSlice d i).served p 1)) := by
  refine (if_neg (Bool.eq_false_iff.mp normal)).trans (congrArg (fun m => Host.Outcome.next (s.on m)) ?_)
  exact if_congr (by simp) rfl (if_congr (by simp) rfl rfl)

/-! ### FOLD_CONFIG (R193) -/

theorem exec_foldConfig_bad {area : Nat} (bad : hbmEnd < area + 136 ∨ area % 8 ≠ 0) :
    exec (.foldConfig p area) s = .next (s.on (s.m.served p 3)) := by
  refine (if_neg (Bool.eq_false_iff.mp normal)).trans (congrArg (fun m => Host.Outcome.next (s.on m)) ?_)
  exact if_pos (by simpa using bad)

/-- Another partition has a fold group of the number. -/
def Mach.GroupTaken (m : Mach) (p g : Nat) : Prop :=
  ∃ k, k < 8 ∧ k ≠ p ∧ (Table.find (m.part k).groups g).isSome = true

/-- A fold of the group is in flight. -/
def Mach.GroupBusy (m : Mach) (p g : Nat) : Prop :=
  (∃ f ∈ m.folds, f.part = p ∧ f.group = g) ∨ m.foldStores ≠ []

open Classical in
theorem exec_foldConfig {area : Nat} (inside : area + 136 ≤ hbmEnd) (aligned : area % 8 = 0) {read : Bool × Mach}
    (lines : s.m.controlLines p area (s.m.groupBytes area) = read) : exec (.foldConfig p area) s = .next (s.on (
      if s.m.controlHeld area (s.m.groupBytes area) then s.m
      else if read.1 = false then read.2.served p 3
      else match read.2.readGroup p area with
        | none => read.2.served p 2
        | some (g, v) =>
          if read.2.GroupTaken p g then read.2.served p 2
          else if read.2.GroupBusy p g then read.2
          else (read.2.modPart p (fun x => { x with groups := Table.set x.groups g v })).served p 1)) := by
  refine (if_neg (Bool.eq_false_iff.mp normal)).trans (congrArg (fun m => Host.Outcome.next (s.on m)) ?_)
  refine (if_neg (by simp [inside, aligned])).trans (if_congr Iff.rfl rfl ?_)
  rw [lines]
  obtain ⟨_ | _, m⟩ := read
  · rfl
  · dsimp only
    rw [if_neg (show ¬ true = false by decide)]
    rcases m.readGroup p area with _ | ⟨g, v⟩
    · rfl
    · refine if_congr ?_ rfl ?_
      · simp [Mach.GroupTaken]
      · refine if_congr ?_ rfl rfl
        simp [Mach.GroupBusy]

/-! ### CHAN_REOPEN, POWER_LIMIT and CORE_POWER (R177, R262, R271) -/

theorem exec_chanReopen (src dst : Nat) : exec (.chanReopen p src dst) s = .next (s.on (
    if 1165 ≤ src ∨ 1165 ≤ dst then s.m.served p 3
    else ({ s.m with closed := s.m.closed.filter (fun e => e != (src, dst)) } : Mach).served p 1)) := by
  refine (if_neg (Bool.eq_false_iff.mp normal)).trans (congrArg (fun m => Host.Outcome.next (s.on m)) ?_)
  exact if_congr (by simp) rfl rfl

theorem exec_powerLimit (watts : Nat) : exec (.powerLimit p watts) s =
    if watts < 400 ∨ 3200 < watts then .next (s.on (s.m.served p 3))
    else .next { s with m := s.m.served p 1, power := { s.power with limit := watts } } :=
  (if_neg (Bool.eq_false_iff.mp normal)).trans (if_congr (by simp) rfl rfl)

theorem exec_corePowerOff (c : Nat) : exec (.corePowerOff p c) s = .next (
    if s.m.inPart p c = false then s.on (s.m.served p 3)
    else if (s.m.core c).off = true ∨ s.m.coreQuiet c = false then s.on (s.m.served p 2)
    else { s with m := (s.m.switchCore c true).served p 1, power := s.power.resetDuty [c] }) :=
  (if_neg (Bool.eq_false_iff.mp normal)).trans
    (congrArg Host.Outcome.next (if_congr (by simp) rfl (if_congr (by simp) rfl rfl)))

theorem exec_corePowerOn (c : Nat) : exec (.corePowerOn p c) s = .next (
    if s.m.inPart p c = false then s.on (s.m.served p 3)
    else if (s.m.core c).off = false then s.on (s.m.served p 2)
    else { s with m := ((s.m.switchCore c false).startCore p c).served p 1, power := s.power.resetDuty [c] }) :=
  (if_neg (Bool.eq_false_iff.mp normal)).trans
    (congrArg Host.Outcome.next (if_congr (by simp) rfl (if_congr (by simp) rfl rfl)))

end

end

/-! ### COLLECTIVE (R268): the time, which no write of the controller changes -/

/-- What every step of a fold keeps, the fold keeps. -/
theorem foldl_keeps {α β γ : Type} (view : α → γ) {f : α → β → α} (keeps : ∀ a b, view (f a b) = view a) (l : List β)
    (a : α) : view (l.foldl f a) = view a := by
  induction l generalizing a with
  | nil => rfl
  | cons b l ih => exact (ih _).trans (keeps a b)

theorem Mach.post_now (m : Mach) (d p : Nat) (e : FqEntry) : (m.post d p e).now = m.now := by
  rw [Mach.post]
  dsimp only
  split
  · split
    · rfl
    · rfl
  · rfl

theorem Mach.readBad_now (m : Mach) (pa : Nat) : (m.readBad pa).2.now = m.now := by
  rw [Mach.readBad]
  split <;> rfl

theorem Mach.marked_now (m : Mach) (entry : Option Nat) : (m.marked entry).now = m.now := by
  cases entry with
  | none => rfl
  | some pa => exact m.readBad_now pa

theorem Mach.storeBad_now (m : Mach) (pa n : Nat) (w : Requester) : (m.storeBad pa n w).now = m.now := by
  rw [Mach.storeBad]
  split
  · rfl
  · split
    · exact Mach.post_now _ _ _ _
    · rfl

theorem Mach.storeFrameBad_now (m : Mach) (pa n : Nat) : (m.storeFrameBad pa n).now = m.now := by
  rw [Mach.storeFrameBad]
  split <;> rfl

theorem Mach.performLine_store_now (m : Mach) (bytes : List (Nat × Byte)) (pa : Nat) (w : Requester) (blk : Option Block) :
    (m.performLine (.store bytes) pa w blk).2.now = m.now := by
  cases blk with
  | none => exact m.storeBad_now pa _ w
  | some b => exact m.storeFrameBad_now pa _

theorem Mach.performSlice_store_now (m : Mach) (bytes : List (Nat × Byte)) (pa : Nat) (w : Requester) (pk : Bool) :
    (m.performSlice (.store bytes) pa w pk).2.now = m.now := by
  rw [Mach.performSlice]
  generalize (if pk then (m.blockAt pa).filter Block.served else none) = blk
  split
  · rfl
  split
  · rfl
  split
  · rfl
  split
  · exact m.storeBad_now pa _ w
  · exact m.performLine_store_now bytes pa w blk

theorem Mach.launchWrite_now (m : Mach) (p : Nat) (va : Word) (bytes : List (Nat × Byte)) :
    (m.launchWrite p va bytes).2.now = m.now := by
  rw [Mach.launchWrite, Mach.launchOp]
  split
  · exact m.marked_now _
  · rename_i pa pte _
    have kept := m.performSlice_store_now (bytes.map (fun b => (pa + b.1, b.2))) pa { core := m.firstCore p, va := va }
      (ptePk pte)
    split <;> rename_i done <;> rw [done] at kept <;> exact kept

theorem Mach.controlEntry_now (m : Mach) (p : Nat) (e : Cause) (a : Word) : (m.controlEntry p e a).now = m.now := by
  rw [Mach.controlEntry]
  split
  · rfl
  · exact m.post_now _ _ _

theorem Mach.controlWrite_now (m : Mach) (p : Nat) (a : Word) (bytes : List (Nat × Byte)) :
    (m.controlWrite p a bytes).2.now = m.now := by
  have kept := m.launchWrite_now p a bytes
  rw [Mach.controlWrite]
  split <;> rename_i done <;> rw [done] at kept
  · exact kept
  · exact (Mach.controlEntry_now _ p _ a).trans kept

theorem Mach.served_now (m : Mach) (p n : Nat) : (m.served p n).now = m.now := by
  show (m.writeStatus p n).now = m.now
  rw [Mach.writeStatus]
  split
  · split
    · exact m.controlWrite_now p _ _
    · rfl
  · rfl

theorem Mach.bandChanged_now (m : Mach) : m.bandChanged.now = m.now :=
  foldl_keeps Mach.now (fun (m : Mach) p => (rfl : (m.msix p 6).now = m.now)) _ m

section
variable {s : State} (p : Nat) {on leader : Bool} {peers : List Nat} {largest : Nat} (normal : s.m.recovery = false)
include normal

theorem exec_collective_unknown (unknown : ∃ k ∈ peers, k ∉ s.m.peers) :
    exec (.collective p on leader peers largest) s = .next (s.on (s.m.served p 3)) :=
  (if_neg (Bool.eq_false_iff.mp normal)).trans (if_pos (by simpa using unknown))

variable (known : ∀ k ∈ peers, k ∈ s.m.peers)
include known

theorem exec_collective_waits (ahead : on = true ∧ s.m.now < largest) (due : s.m.now = 10000 * (s.power.ticked + 1)) :
    exec (.collective p on leader peers largest) s = .next s :=
  (if_neg (Bool.eq_false_iff.mp normal)).trans
    ((if_neg (by simpa using known)).trans (if_pos (by simp [ahead.1, ahead.2, ← due])))

/-- The count that TIMEBASE comes to. -/
def collectiveNow (on : Bool) (now largest : Nat) : Nat := if on = true ∧ now < largest then largest else now

/-- The power tree with the collective on or off, the tick at the present count being taken. -/
def Power.collectiveSet (q : Power) (on leader : Bool) (peers : List Nat) (now largest : Nat) : Power :=
  { q with collective := on, leader := on && leader, members := if on then peers else [], announced := [], reports := [],
           missed := 0, ceiling := if on then q.ceiling else none,
           ticked := if on = true ∧ now < largest then (largest + 9999) / 10000 - 1 else q.ticked,
           lastTick := collectiveNow on now largest / 10000 }

theorem exec_collective (goes : ¬ ((on = true ∧ s.m.now < largest) ∧ s.m.now = 10000 * (s.power.ticked + 1))) :
    exec (.collective p on leader peers largest) s = .next { s with
      m := (({ s.m with now := collectiveNow on s.m.now largest } : Mach).served p 1).bandChanged,
      power := let q := s.power.collectiveSet on leader peers s.m.now largest
        { q with clocks := q.capped q.own } } := by
  have guard : (on && decide (s.m.now < largest)) = true ↔ on = true ∧ s.m.now < largest := by
    rw [Bool.and_eq_true, decide_eq_true_eq]
  refine (if_neg (Bool.eq_false_iff.mp normal)).trans ((if_neg (by simpa using known)).trans ((if_neg ?_).trans ?_))
  · rwa [Bool.and_eq_true, guard, beq_iff_eq]
  · rw [Power.collectiveSet, collectiveNow]
    by_cases ahead : on = true ∧ s.m.now < largest
    · simp only [guard, if_pos ahead]
    · simp only [guard, if_neg ahead]

end

theorem collectiveNow_eq_max {on : Bool} {now largest : Nat} (set : on = true) :
    collectiveNow on now largest = max now largest := by
  rw [collectiveNow]
  split
  case isTrue ahead => exact (Nat.max_eq_right (Nat.le_of_lt ahead.2)).symm
  case isFalse behind => exact (Nat.max_eq_left (Nat.not_lt.mp fun less => behind ⟨set, less⟩)).symm

/-- A tick at the count that TIMEBASE comes to is still to be taken. -/
theorem le_collectiveTicks {on : Bool} {now largest ticked : Nat} (ahead : on = true ∧ now < largest) :
    largest ≤ 10000 * ((if on = true ∧ now < largest then (largest + 9999) / 10000 - 1 else ticked) + 1) := by
  rw [if_pos ahead]
  have := ahead.2
  omega

/-! ### Resets, power-on and context switches (R257, R279, R280) -/

section
variable {s : State} (p : Nat)

theorem exec_flr_absent (absent : (s.m.part p).state = .absent) : exec (.flr p) s = .next s := by
  show execFlr p s = _
  rw [execFlr, absent]

theorem exec_flr_resetting (resetting : (s.m.part p).state = .resetting) : exec (.flr p) s = .next (s.endReset p) := by
  show execFlr p s = _
  rw [execFlr, resetting]

theorem exec_flr (present : (s.m.part p).state ≠ .absent) (settled : (s.m.part p).state ≠ .resetting) :
    exec (.flr p) s = .next (s.on (s.m.beginReset p)) := by
  show execFlr p s = _
  rw [execFlr]
  split
  case h_1 absent => exact absurd absent present
  case h_2 resetting => exact absurd resetting settled
  case h_3 => rfl

theorem exec_powerOn : exec .powerOn s = .next { State.reset with
    m := { State.reset.m with image := s.m.nextImage.or s.m.image, free := s.m.free }, agenda := s.agenda, turns := s.turns } :=
  rfl

section
variable (normal : s.m.recovery = false)
include normal

theorem exec_partReset_absent (absent : (s.m.part p).state = .absent) :
    exec (.partReset p) s = .next (s.on (s.m.served p 2)) := by
  refine (if_neg (Bool.eq_false_iff.mp normal)).trans ?_
  dsimp only
  rw [absent]
  rfl

theorem exec_partReset_resetting (resetting : (s.m.part p).state = .resetting) :
    exec (.partReset p) s = .next (s.endReset p) := by
  refine (if_neg (Bool.eq_false_iff.mp normal)).trans ?_
  dsimp only
  rw [resetting]

theorem exec_partReset (present : (s.m.part p).state ≠ .absent) (settled : (s.m.part p).state ≠ .resetting) :
    exec (.partReset p) s = .next (s.on ((s.m.beginReset p).defer p)) := by
  refine (if_neg (Bool.eq_false_iff.mp normal)).trans (congrArg Host.Outcome.next ?_)
  dsimp only
  split
  case h_1 absent => exact absurd absent present
  case h_2 resetting => exact absurd resetting settled
  case h_3 => rfl

theorem exec_ctxSave (area : Nat) : exec (.ctxSave p area) s = .next (s.on (
    if hbmEnd ≤ area then s.m.served p 3
    else if (s.m.part p).state ≠ .running then s.m.served p 2
    else ((s.m.postAll p { cause := Cause.contextSwitchRequest.code }).modPart p
      (fun x => { x with state := .switching, saveArea := area })).defer p)) := by
  refine (if_neg (Bool.eq_false_iff.mp normal)).trans (congrArg (fun m => Host.Outcome.next (s.on m)) ?_)
  exact if_congr Iff.rfl rfl (if_congr (by simp) rfl rfl)

/-- The state saved in an area for a partition's rows. -/
def Mach.savedAt (m : Mach) (p area : Nat) : Option Saved :=
  m.saved.find? (fun v => v.area == area && v.rows == (m.part p).rows)

theorem exec_ctxRestore (area : Nat) : exec (.ctxRestore p area) s = .next (
    match s.m.savedAt p area with
    | none => s.on (s.m.served p 2)
    | some v =>
      if s.m.areaHeld p area then s
      else if (s.m.part p).state = .saved then
        { s with m := (s.m.restore p v).served p 1, power := s.power.forgetCycles (rowCores v.rows) }
      else s.on (s.m.served p 2)) := by
  refine (if_neg (Bool.eq_false_iff.mp normal)).trans (congrArg Host.Outcome.next ?_)
  rw [Mach.savedAt]
  dsimp only
  cases s.m.saved.find? (fun v => v.area == area && v.rows == (s.m.part p).rows) with
  | none => rfl
  | some v => exact if_congr Iff.rfl rfl (if_congr (by simp) rfl rfl)

end

/-- A partition's state may be saved (R257, R269). -/
def Mach.SaveReady (m : Mach) (p : Nat) : Prop :=
  (m.part p).state = .switching ∧ m.quiescent p = true ∧ m.pendingHeld p = false ∧ m.drainHeld p = false ∧
    m.areaHeld p (m.part p).saveArea = false

/-- The machine before a partition's state is saved: stores performed, wakes given back, frames written back. -/
def Mach.settledForSave (m : Mach) (p : Nat) : Mach :=
  (((m.coresOf p).foldl Mach.settleOwn m).unwakePart p).drainBlocks p

theorem Mach.unwake_parts (m : Mach) (w : Nat × Entry) : (m.unwake w).parts = m.parts := by
  rw [Mach.unwake]
  split <;> rfl

theorem Mach.writeLines_parts (ls : List Nat) (m : Mach) : (m.writeLines ls).parts = m.parts := by
  induction ls generalizing m with
  | nil => rfl
  | cons l ls ih => exact ih _

theorem Mach.unlinger_parts (m : Mach) (k p : Nat) : (m.unlinger k p).parts = m.parts := by
  rw [Mach.unlinger]
  split <;> rfl

theorem Mach.freeBlock_parts (m : Mach) (b : Block) : (m.freeBlock b).parts = m.parts := by
  rw [Mach.freeBlock]
  split
  · rfl
  · exact Mach.unlinger_parts _ _ _

theorem Mach.settledForSave_parts (m : Mach) : (m.settledForSave p).parts = m.parts := by
  have settled : ((m.coresOf p).foldl Mach.settleOwn m).parts = m.parts :=
    foldl_keeps Mach.parts (fun m c => by rw [m.settleOwn_frame c]) _ m
  have given (m : Mach) : (m.unwakePart p).parts = m.parts := foldl_keeps Mach.parts Mach.unwake_parts _ _
  have drained (m : Mach) : (m.drainBlocks p).parts = m.parts :=
    foldl_keeps Mach.parts (fun (m : Mach) (b : Block) => ((m.writeLines b.dirty).freeBlock_parts b).trans (m.writeLines_parts b.dirty)) _ _
  exact (drained _).trans ((given _).trans settled)

theorem Mach.saveReady_iff {m : Mach} : ((m.part p).state == .switching && m.quiescent p && !m.pendingHeld p &&
    !m.drainHeld p && !m.areaHeld p (m.part p).saveArea) = true ↔ m.SaveReady p := by
  simp only [Mach.SaveReady, Bool.and_eq_true, beq_iff_eq, Bool.not_eq_true', and_assoc]

theorem exec_contextSwitchSave_idle (busy : ¬ s.m.SaveReady p) : exec (.contextSwitchSave p) s = .next s :=
  (s.onMach_idle (if_neg (mt (Mach.saveReady_iff p).mp busy)) : execContextSwitchSave p s = _)

theorem exec_contextSwitchSave (ready : s.m.SaveReady p) :
    ∃ m1 : Mach, exec (.contextSwitchSave p) s = .next (s.on (m1.completed p 1)) ∧ (m1.part p).state = .saved ∧
      ∃ v ∈ m1.saved, v.area = (s.m.part p).saveArea ∧ v.rows = (s.m.part p).rows := by
  have kept : ((((s.m.coresOf p).foldl Mach.settleOwn s.m).unwakePart p).drainBlocks p).parts = s.m.parts :=
    s.m.settledForSave_parts p
  refine ⟨_, (s.onMach_eq (if_pos ((Mach.saveReady_iff p).mpr ready)) : execContextSwitchSave p s = _), ?_, ?_⟩
  · rw [Mach.part_modPart_self]
  · refine ⟨_, List.mem_append_right _ (List.mem_singleton.mpr rfl), ?_, ?_⟩
    · dsimp only [Mach.part]
      rw [kept]
    · dsimp only [Mach.part]
      rw [kept]

end

/-! ### The device as the host sees it (R148, R167, R273, R282) -/

theorem Mach.access_waits {m : Mach} {pa n : Nat} (p : Nat) (w : Option (List Byte))
    (waits : oneLine pa n = false ∨ m.memHeld pa = true) : m.hostAccess p pa n w = m ∧ m.peerAccess pa n w = m := by
  have guard : (!oneLine pa n || m.memHeld pa) = true := by
    rwa [Bool.or_eq_true, Bool.not_eq_true']
  exact ⟨if_pos guard, if_pos guard⟩

section
variable {m : Mach} {pa n : Nat} (p : Nat) (w : Option (List Byte)) (line : oneLine pa n = true) (ready : m.memHeld pa = false)
include line ready

theorem Mach.access_open : ¬ (!oneLine pa n || m.memHeld pa) = true := by
  rw [line, ready]
  decide

theorem Mach.peerAccess_eq : m.peerAccess pa n w = m.outside pa 0 w := if_neg (Mach.access_open line ready)

theorem Mach.hostAccess_eq : m.hostAccess p pa n w =
    if m.hostMay p pa = true ∧ m.hostMay p (pa + n - 1) = true then m.outside pa (m.firstCore p) w
    else m.post (dieOfPa pa) p { cause := Cause.partitionViolation.code, bad := some (BitVec.ofNat 64 pa) } :=
  (if_neg (Mach.access_open line ready)).trans (if_congr (by rw [Bool.and_eq_true]) rfl rfl)

end

section
variable (s : State) (p : Nat) (addr : Word)

/-- Writes one after the other, and whether all were performed. -/
theorem foldl_written (write : Mach → Nat → Bool × Mach) (ks : List Nat) (a : Bool × Mach) :
    ks.foldl (fun (r : Bool × Mach) k => let w := write r.2 k; (r.1 && w.1, w.2)) a =
      ks.foldl (fun (r : Bool × Mach) k => match write r.2 k with | (done, m) => (r.1 && done, m)) a := rfl

/-- The summary written at an address, piece by piece: whether every write was performed. -/
def State.summaryWritten (s : State) (p : Nat) (addr : Word) : Bool × Mach :=
  (List.range 512).foldl (fun (r : Bool × Mach) k =>
    let w := r.2.controlWrite p (addr + BitVec.ofNat 64 (8 * k)) (summaryPiece (s.summary p) k)
    (r.1 && w.1, w.2)) (true, { s.m with free := s.m.free + 1 })

/-- A line of the summary is held at its home. -/
def Mach.summaryHeld (m : Mach) (p : Nat) (addr : Word) : Prop :=
  ∃ k, k < 33 ∧ m.launchHeld p (addr + BitVec.ofNat 64 (min (128 * k) 4088)) = true

open Classical in
theorem exec_resync : exec (.resync p addr) s = .next (s.on (
    if addr.toNat % 8 ≠ 0 then s.m.served p 3
    else if s.m.summaryHeld p addr then s.m
    else if (s.summaryWritten p addr).1 then
      ((s.summaryWritten p addr).2.postAll p { cause := Cause.hostResync.code }).served p 1
    else (s.summaryWritten p addr).2.served p 3)) := by
  show execResync p addr s = _
  rw [execResync, State.summaryWritten]
  generalize List.range 512 = pieces
  refine s.onMach_eq ?_
  refine if_congr Iff.rfl rfl ?_
  refine if_congr (by simp [Mach.summaryHeld]) rfl ?_
  rw [foldl_written (fun m k => m.controlWrite p (addr + BitVec.ofNat 64 (8 * k)) (summaryPiece (s.summary p) k))]
  extract_lets m
  generalize pieces.foldl _ (true, m) = written
  obtain ⟨_ | _, m⟩ := written
  · exact (if_neg Bool.false_ne_true).symm
  · exact (if_pos rfl).symm

theorem exec_retiredLineWriteback (n pa : Nat) : exec (.retiredLineWriteback n pa) s = .next (s.on (
    if (s.m.slice n).unwritten.contains (pa / 128) = true ∧ s.m.stackHeld pa = false then
      let m1 := s.m.modSlice n (fun x => { x with unwritten := eraseNat x.unwritten (pa / 128) })
      if s.m.l2Bad.contains (pa / 128) then
        { m1 with l2Bad := eraseNat m1.l2Bad (pa / 128), poisoned := insertNat m1.poisoned (pa / 128) }
      else m1
    else s.m)) := by
  show execRetiredLineWriteback n pa s = _
  refine s.onMach_eq (if_congr ?_ rfl rfl)
  rw [Bool.and_eq_true, Bool.not_eq_true', lineOf]

end

/-! ### Migrations and forwarding (R259, R260) -/

section
variable {s : State} {c : Nat}

theorem exec_migrationComplete_none (none : s.m.migrating c = none) : exec (.migrationComplete c) s = .next s := by
  show execMigrationComplete c s = _
  refine s.onMach_idle ?_
  rw [none]

theorem exec_migrationComplete_fenced {g : Migration} (found : s.m.migrating c = some g)
    (fenced : s.m.isFenced g.fwd.dest = true) : exec (.migrationComplete c) s = .next (s.on (
      ((s.m.dropMigration c g.token).postAt c { cause := Cause.migrationFailed.code, core := some c }).resolve g.token 1)) := by
  show execMigrationComplete c s = _
  refine s.onMach_eq ?_
  rw [found]
  exact if_pos fenced

/-- What a migration has moved when its copying is complete. -/
def Mach.migrated (m : Mach) (c : Nat) (g : Migration) : Mach :=
  let m1 := m.copyWords c (extentWords g.fwd.extents).length
  let m2 := (m1.movePins c g.fwd.dest g.fwd.extents).moveFrames c g.fwd.dest g.fwd.env0 g.fwd.envn
  let m3 := m2.moveChans c g.fwd.dest g.fwd.chmask
  if g.team then m3.moveTeam c g.fwd.dest else m3

theorem exec_migrationComplete {g : Migration} (found : s.m.migrating c = some g)
    (live : s.m.isFenced g.fwd.dest = false) : exec (.migrationComplete c) s = .next (s.on (
      let m4 := s.m.migrated c g
      let m5 := m4.modMigration c g.token (fun x => { x with held := some (m4.heldFor c g.fwd) })
      (m5.modCore c (fun r => { r with forwards := r.forwards ++ [{ g.fwd with used := m5.now }] })).endMigrations c)) := by
  show execMigrationComplete c s = _
  refine s.onMach_eq ?_
  rw [found]
  exact if_neg (Bool.eq_false_iff.mp live)

theorem Mach.endMigrations_single {m : Mach} {g : Migration} (single : (m.core c).migrations = [g]) :
    m.endMigrations c = if (g.held.map (fun ids => ids.all m.sentDone)).getD false then
      (m.dropMigration c g.token).resolve g.token 0 else m := by
  rw [Mach.endMigrations, single, List.filter_singleton]
  cases (g.held.map (fun ids => ids.all m.sentDone)).getD false <;> rfl

theorem exec_forwardExpiry_none {n : Nat} (none : (s.m.core c).forwards[n]? = none) :
    exec (.forwardExpiry c n) s = .next s := by
  show execForwardExpiry c n s = _
  refine s.onMach_idle ?_
  rw [none]

theorem exec_forwardExpiry {n : Nat} {f : Forward} (found : (s.m.core c).forwards[n]? = some f) :
    exec (.forwardExpiry c n) s = .next (s.on (
      if f.used + f.life ≤ s.m.now then
        let m1 := s.m.modCore c (fun r => { r with forwards := dropNth r.forwards n, expired := r.expired ++ [f] })
        ((m1.core c).framesIn f.extents).foldl (fun m i => m.releaseFrame c i) m1
      else s.m)) := by
  show execForwardExpiry c n s = _
  refine s.onMach_eq ?_
  rw [found]

end

/-! ### A turn of the controller (R270) -/

/-- A step with a turn of the controller at the head of the agenda is that turn. -/
theorem step_manage {s : State} {p : Nat} {rest : List Turn} (next : s.agenda = .manage p :: rest) :
    step s = ({ s with agenda := rest, m := s.m.advance } : State).manage p := by
  rw [step]
  rw [State.nextTurn_head (s := { s with m := s.m.advance }) next, State.take]

/-- A record that the controller performs is at `a`: one already taken, or the next of its ring, which is then taken. -/
def Mach.Takes (m : Mach) (p : Nat) (own : Bool) (a : Word) (m0 : Mach) : Prop :=
  (m.part p).record = some (own, a) ∧ m0 = m ∨
    (m.part p).record = none ∧ m.ringNext p = some (own, a) ∧ m0 = m.ringTake p own a

/-- Whether a record is being performed. -/
def Mach.servingSet (m : Mach) (p : Nat) (b : Bool) : Mach := m.modPart p (fun x => { x with serving := b })

section
variable {s : State} {p : Nat}

theorem State.manage_resetting (resetting : (s.m.part p).state = .resetting) (pending : (s.m.part p).pending.isSome = true) :
    s.manage p = .next (s.endReset p) :=
  if_pos (by rw [resetting, pending]; rfl)

theorem State.manage_switching (switching : (s.m.part p).state = .switching) : s.manage p = .next s := by
  rw [State.manage, switching]
  rfl

section
variable (ready : (s.m.part p).state ≠ .switching)
  (noReset : ¬ ((s.m.part p).state = .resetting ∧ (s.m.part p).pending.isSome = true))
include ready noReset

theorem State.manage_empty (record : (s.m.part p).record = none) (ring : s.m.ringNext p = none) : s.manage p = .next s := by
  refine (if_neg (by simpa using noReset)).trans ?_
  rw [if_neg (by simpa using ready), record, ring]
  rfl

section
variable {own : Bool} {a : Word} {m0 m1 : Mach} (taken : s.m.Takes p own a m0)
include taken

theorem State.manage_taken : s.manage p =
    if s.m.launchHeld p a then .next s
    else match m0.launchRead p a 64 with
    | (.error e, _) => .next (s.on ((s.m.launchRead p a 64).2.controlEntry p e a))
    | (.ok r, m) =>
      match (s.on (({ m with free := m.free + 1 } : Mach).servingSet p true)).perform p own r with
      | .next t => .next (t.on (t.m.servingSet p false))
      | .fault e => .fault e
      | .refused e => .refused e := by
  refine (if_neg (by simpa using noReset)).trans ?_
  rw [if_neg (by simpa using ready)]
  obtain ⟨record, rfl⟩ | ⟨record, ring, rfl⟩ := taken
  · rw [record]
    rfl
  · rw [record, ring]
    rfl

theorem State.manage_held (held : s.m.launchHeld p a = true) : s.manage p = .next s :=
  (State.manage_taken ready noReset taken).trans (if_pos held)

variable (free : s.m.launchHeld p a = false)
include free

theorem State.manage_unreadable {e : Cause} (read : m0.launchRead p a 64 = (.error e, m1)) :
    s.manage p = .next (s.on ((s.m.launchRead p a 64).2.controlEntry p e a)) := by
  rw [State.manage_taken ready noReset taken, if_neg (Bool.eq_false_iff.mp free), read]

theorem State.manage_performs {r : Nat} {u : State} (read : m0.launchRead p a 64 = (.ok r, m1))
    (performed : (s.on (({ m1 with free := m1.free + 1 } : Mach).servingSet p true)).perform p own r = .next u) :
    s.manage p = .next (u.on (u.m.servingSet p false)) := by
  rw [State.manage_taken ready noReset taken, if_neg (Bool.eq_false_iff.mp free), read]
  dsimp only
  rw [performed]

end

end

/-! ### The command of a record -/

theorem State.perform_unknown {r : Nat} (own : Bool) (unknown : 0x0C < r % 256 ∨ r % 256 = 0) :
    s.perform p own r = .next (s.on (s.m.served p 3)) := by
  rw [State.perform]
  split
  case h_13 => rfl
  all_goals omega

theorem State.perform_runtimeOnly {r : Nat} (row : r % 256 ∈ [0x05, 0x08, 0x0B]) :
    s.perform p false r = .next (s.on (s.m.served p 4)) := by
  simp only [List.mem_cons, List.not_mem_nil, or_false] at row
  rw [State.perform]
  obtain op | op | op := row <;> rw [op] <;> rfl

theorem State.perform_hostOnly {r : Nat} (row : r % 256 ∈ [0x01, 0x02, 0x03, 0x06, 0x07, 0x09, 0x0A, 0x0C]) :
    s.perform p true r = .next (s.on (s.m.served p 4)) := by
  simp only [List.mem_cons, List.not_mem_nil, or_false] at row
  rw [State.perform]
  obtain op | op | op | op | op | op | op | op := row <;> rw [op] <;> rfl

theorem State.perform_resync {r : Nat} (op : r % 256 = 0x01) :
    s.perform p false r = exec (.resync p (BitVec.ofNat 64 (nbits r (64 * 1) 64))) s := by
  rw [State.perform, op]
  exact if_pos rfl

theorem State.perform_corePowerOn {r : Nat} (op : r % 256 = 0x0B) (on : (nbits r (64 * 2) 64).testBit 0 = true) :
    s.perform p true r = exec (.corePowerOn p (nbits r (64 * 1) 64)) s := by
  rw [State.perform, op]
  exact congrFun (if_pos on) s

theorem State.perform_corePowerOff {r : Nat} (op : r % 256 = 0x0B) (off : (nbits r (64 * 2) 64).testBit 0 = false) :
    s.perform p true r = exec (.corePowerOff p (nbits r (64 * 1) 64)) s := by
  rw [State.perform, op]
  exact congrFun (if_neg (Bool.eq_false_iff.mp off)) s

end

end Sys2Proof.Machine

open Sys2Proof Sys2Proof.Machine

/-- Settles O54, instruction by instruction and event by event: commands, resets and context switches, the host's accesses,
migrations, and the controller's turn. -/
theorem managementEvents : Obligations.ManagementEvents := by
  unfold Obligations.ManagementEvents
  refine ⟨?_, ?_, ?_, ?_, ?_⟩
  · intro s p c n area pcb rows src dst watts on leader expert peers i m gives
    refine ⟨fun recovery form => exec_recovery p recovery form, exec_fwLoad_own p area c, exec_fwLoad_outside p,
      fun inside => ?_, fun normal => ?_⟩
    · intro read image
      have runs : exec (.fwLoad p area c false) s = .next (s.on (
          if s.m.controlHeld area c then s.m
          else if read.1 = true ∧ imageRuns image = true then ({ read.2 with nextImage := image } : Mach).served p 1
          else read.2.served p 3)) := exec_fwLoad p inside rfl
      refine ⟨exec_on_pos runs, fun free => ?_⟩
      have reads := exec_on_neg runs (Bool.eq_false_iff.mp free)
      refine ⟨fun bad => exec_on_neg reads ?_, fun good boots => exec_on_pos reads ⟨good, boots⟩,
        fun good boots => exec_on_neg reads ?_⟩
      · exact fun h => Bool.false_ne_true (bad.symm.trans h.1)
      · exact fun h => Bool.false_ne_true (boots.symm.trans h.2)
    · have config := exec_partConfig p normal pcb rows expert
      have retire := exec_sliceRetire p normal c n
      have reopen := exec_chanReopen p normal src dst
      have limit := exec_powerLimit p normal watts
      have powerOff := exec_corePowerOff p normal c
      have powerOn := exec_corePowerOn p normal c
      refine ⟨exec_next_pos config, fun good refused => ?_, fun good takes => ?_, exec_foldConfig_bad p normal,
        fun inside aligned => ?_, ?_, exec_on_pos reopen, fun source target => exec_on_neg reopen (by omega),
        fun low high => limit.trans (if_neg (by omega)), fun outside => limit.trans (if_pos outside),
        exec_collective_unknown p normal, ?_, fun foreign => ⟨exec_next_pos powerOff foreign, exec_next_pos powerOn foreign⟩,
        fun own => ?_⟩
      · exact exec_next_pos (exec_next_neg config (Bool.eq_false_iff.mp good)) refused
      · exact exec_next_neg (exec_next_neg config (Bool.eq_false_iff.mp good)) (Bool.eq_false_iff.mp takes)
      · intro read m
        have runs := exec_foldConfig p normal inside aligned (read := read) rfl
        refine ⟨exec_on_pos runs, fun free => ?_⟩
        have reads := exec_on_neg runs (Bool.eq_false_iff.mp free)
        refine ⟨exec_on_pos reads, fun good none => ?_, fun g v good found => ?_⟩
        · have described := exec_on_neg reads (Bool.eq_false_iff.not.mpr (not_not.mpr good))
          rw [none] at described
          exact described
        · have described := exec_on_neg reads (Bool.eq_false_iff.not.mpr (not_not.mpr good))
          rw [found] at described
          exact ⟨exec_on_pos described, fun new busy => exec_on_pos (exec_on_neg described new) busy,
            fun new idle => exec_on_neg (exec_on_neg described new) idle⟩
      · refine ⟨exec_on_pos retire, fun die slice refused => exec_on_pos (exec_on_neg retire (by omega)) refused,
          fun die slice live few => exec_on_neg (exec_on_neg retire (by omega)) ?_⟩
        rintro (retired | many)
        · exact Bool.false_ne_true (live.symm.trans retired)
        · exact absurd many (Nat.not_le.mpr few)
      · refine ⟨fun known ahead due => exec_collective_waits p normal known ahead due, fun known goes =>
          ⟨_, exec_collective p normal known goes, rfl, rfl, fun behind => ⟨?_, ?_⟩, fun ahead => ⟨?_, ?_⟩,
            fun set => ⟨?_, ?_, ?_⟩⟩⟩
        · exact ((Mach.bandChanged_now _).trans (Mach.served_now _ p 1)).trans (if_neg behind)
        · exact if_neg behind
        · exact ((Mach.bandChanged_now _).trans (Mach.served_now _ p 1)).trans (if_pos ahead)
        · exact le_collectiveTicks ahead
        · exact if_pos set
        · show (on && leader) = leader
          rw [set, Bool.true_and]
        · exact congrArg (· / 10000) (collectiveNow_eq_max set)
      · have off := exec_next_neg powerOff (Bool.eq_false_iff.not.mpr (not_not.mpr own))
        have onAgain := exec_next_neg powerOn (Bool.eq_false_iff.not.mpr (not_not.mpr own))
        refine ⟨exec_next_pos off, fun still quiet => exec_next_neg off ?_, exec_next_pos onAgain,
          fun dark => exec_next_neg onAgain (Bool.eq_false_iff.not.mpr (not_not.mpr dark))⟩
        rintro (dark | busy)
        · exact Bool.false_ne_true (still.symm.trans dark)
        · exact Bool.false_ne_true (busy.symm.trans quiet)
  · intro s p area m st
    refine ⟨fun absent => ?_, fun resetting => ?_, fun present settled => ?_, ⟨_, exec_powerOn, rfl, rfl, rfl, rfl, rfl, rfl⟩,
      fun normal => ?_, ?_⟩
    · exact exec_flr_absent p absent
    · exact exec_flr_resetting p resetting
    · exact exec_flr p present settled
    · have save := exec_ctxSave p normal area
      have restore := exec_ctxRestore p normal area
      refine ⟨exec_partReset_absent p normal, exec_partReset_resetting p normal, exec_partReset p normal, exec_on_pos save,
        fun inside idle => ?_, fun inside running => ?_, ?_⟩
      · exact exec_on_pos (exec_on_neg save (Nat.not_le.mpr inside)) idle
      · exact exec_on_neg (exec_on_neg save (Nat.not_le.mpr inside)) (not_not.mpr running)
      · intro found
        refine ⟨?_, fun v is held => ?_, fun v is free saved => ?_⟩
        · rintro (none | ⟨free, unsaved⟩)
          · rw [show s.m.savedAt p area = Option.none from none] at restore
            exact restore
          · cases is : s.m.savedAt p area with
            | none =>
              rw [is] at restore
              exact restore
            | some v =>
              rw [is] at restore
              exact exec_next_neg (exec_next_neg restore (Bool.eq_false_iff.mp free)) unsaved
        · rw [show s.m.savedAt p area = some v from is] at restore
          exact exec_next_pos restore held
        · rw [show s.m.savedAt p area = some v from is] at restore
          exact exec_next_pos (exec_next_neg restore (Bool.eq_false_iff.mp free)) saved
    · exact ⟨exec_contextSwitchSave p, exec_contextSwitchSave_idle p⟩
  · intro s p n area addr bytes m
    refine ⟨rfl, rfl, rfl, rfl, rfl, Mach.access_waits p, fun w line free => ?_, ?_, ?_⟩
    · intro may
      have host := Mach.hostAccess_eq p w line free
      exact ⟨Mach.peerAccess_eq w line free, fun allowed => host.trans (if_pos allowed), fun refused => host.trans (if_neg refused)⟩
    · intro held written
      have runs := exec_resync s p addr
      refine ⟨exec_on_pos runs, fun aligned waits => ?_, fun aligned free => ?_⟩
      · exact exec_on_pos (exec_on_neg runs (not_not.mpr aligned)) waits
      · have writes := exec_on_neg (exec_on_neg runs (not_not.mpr aligned)) free
        exact ⟨exec_on_pos writes, fun refused => exec_on_neg writes (Bool.eq_false_iff.mp refused)⟩
    · intro l m1
      have runs := exec_retiredLineWriteback s n area
      refine ⟨fun waits => exec_on_neg runs ?_, fun listed free good => ?_, fun listed free bad => ?_⟩
      · rintro ⟨listed, free⟩
        obtain gone | held := waits
        · exact Bool.false_ne_true (gone.symm.trans listed)
        · exact Bool.false_ne_true (free.symm.trans held)
      · exact exec_on_neg (exec_on_pos runs ⟨listed, free⟩) (Bool.eq_false_iff.mp good)
      · exact exec_on_pos (exec_on_pos runs ⟨listed, free⟩) bad
  · intro s c n m
    refine ⟨exec_migrationComplete_none, fun g found => ?_, fun m g single => ?_, exec_forwardExpiry_none, fun f found => ?_⟩
    · exact ⟨exec_migrationComplete_fenced found, exec_migrationComplete found⟩
    · have ends := Mach.endMigrations_single single
      refine ⟨fun copying => ?_, fun ids held => ⟨fun waits => ?_, fun done => ?_⟩⟩
      · rw [ends, copying]
        rfl
      · rw [ends, held, Option.map_some, Option.getD_some, waits]
        rfl
      · rw [ends, held, Option.map_some, Option.getD_some, done]
        rfl
    · have runs := exec_forwardExpiry found
      exact ⟨fun young => (exec_on_neg runs (Nat.not_le.mpr young)), exec_on_pos runs⟩
  · intro s p r own a rest m0 m1 u m t x arg free serve
    refine ⟨fun next => ?_, fun n out record serving write => Mach.writeStatus_serving record serving write,
      fun n idle => Mach.writeStatus_idle n idle, State.perform_unknown own, State.perform_runtimeOnly, State.perform_hostOnly,
      State.perform_resync, ?_, ?_, ?_, ?_, ?_, ?_, ?_, ?_, ?_, State.perform_corePowerOn, State.perform_corePowerOff, ?_⟩
    · have turn : step s = t.manage p := step_manage next
      clear_value m
      refine ⟨fun resetting pending => turn.trans (State.manage_resetting resetting pending),
        fun switching => turn.trans (State.manage_switching switching), fun ready noReset => ⟨fun record ring =>
          turn.trans (State.manage_empty ready noReset record ring), fun taken => ?_⟩⟩
      have takes : t.m.Takes p own a m0 := taken
      exact ⟨fun held => turn.trans (State.manage_held ready noReset takes held),
        fun e free read => turn.trans (State.manage_unreadable ready noReset takes free read),
        fun free read performed => turn.trans (State.manage_performs ready noReset takes free read performed)⟩
    all_goals
      intro op
      rw [State.perform, op] <;> rfl

end
